-- ==== Sys2Proof/Word.lean ====
section
/-! DEFINITION. Word.lean: the word types of the part and the two fixed-size families of like things
(four pods, generators and lanes; five fault sources). -/

namespace Sys2Proof

/-- One byte of shared memory. -/
abbrev Byte := BitVec 8

/-- One naturally aligned 8-byte unit (spec/11_shared_record_layouts.md). -/
abbrev Word64 := BitVec 64

/-- A value of the part's tick count, 56 bits, modulo 2^56 (R1). -/
abbrev Tick := BitVec 56

/-- One bit for each of the 32 channels, channel n at bit n. -/
abbrev Chans := BitVec 32

/-- Four like things, numbered 0..3: pods, generators, lanes. -/
structure Four (α : Type) where
  n0 : α
  n1 : α
  n2 : α
  n3 : α
deriving DecidableEq, Repr

/-- Member `i` of four. -/
def Four.get {α : Type} (f : Four α) : Fin 4 → α
  | 0 => f.n0
  | 1 => f.n1
  | 2 => f.n2
  | 3 => f.n3

/-- Four with member `i` replaced. -/
def Four.set {α : Type} (f : Four α) (i : Fin 4) (x : α) : Four α :=
  match i with
  | 0 => { f with n0 := x }
  | 1 => { f with n1 := x }
  | 2 => { f with n2 := x }
  | 3 => { f with n3 := x }

/-- All four alike. -/
def Four.all {α : Type} (x : α) : Four α := ⟨x, x, x, x⟩

/-- The four members in order. -/
def Four.toList {α : Type} (f : Four α) : List α := [f.n0, f.n1, f.n2, f.n3]

/-- Every member changed by `g`. -/
def Four.map {α β : Type} (g : α → β) (f : Four α) : Four β := ⟨g f.n0, g f.n1, g f.n2, g f.n3⟩

/-- The five fault sources of a pod (spec/01_probe_pods_and_the_pod_monitor.md, 1.4). -/
inductive FaultSource where
  | overLimit
  | under
  | middle
  | lost
  | hot
deriving DecidableEq, Repr

/-- One thing for each fault source. -/
structure Five (α : Type) where
  overLimit : α
  under : α
  middle : α
  lost : α
  hot : α
deriving DecidableEq, Repr

/-- The member of one source. -/
def Five.get {α : Type} (f : Five α) : FaultSource → α
  | .overLimit => f.overLimit
  | .under => f.under
  | .middle => f.middle
  | .lost => f.lost
  | .hot => f.hot

/-- Five with one source's member replaced. -/
def Five.set {α : Type} (f : Five α) (i : FaultSource) (x : α) : Five α :=
  match i with
  | .overLimit => { f with overLimit := x }
  | .under => { f with under := x }
  | .middle => { f with middle := x }
  | .lost => { f with lost := x }
  | .hot => { f with hot := x }

/-- All five alike. -/
def Five.all {α : Type} (x : α) : Five α := ⟨x, x, x, x, x⟩

/-- The five members in the order OVER, UNDER, MIDDLE, LOST, HOT. -/
def Five.toList {α : Type} (f : Five α) : List α := [f.overLimit, f.under, f.middle, f.lost, f.hot]

/-- The five sources in the order of R47. -/
def FaultSource.order : List FaultSource := [.overLimit, .under, .middle, .lost, .hot]

/-- The four numbers 0..3 in order. -/
def fourOrder : List (Fin 4) := [0, 1, 2, 3]

end Sys2Proof
end

