-- ==== Sys2Proof/Syntax.lean ====
section
/-! DEFINITION. Syntax.lean: the commands of the part, one constructor for each row of spec/opcode_table.json.
An order row carries the order's parameter fields as the numbers their units hold (spec/11, Parameter areas), so that a value
outside its range can be written and is checked by the unit (R195); an event row carries what the outside gives at that event. -/

namespace Sys2Proof

/-- An order in a unit's hands: the address of its record and its ALERT flag (spec/11, 11.2). -/
structure OrderRef where
  addr : Nat
  alert : Bool
deriving DecidableEq, Repr

/-- One 8-byte store of the host into shared memory. -/
structure HostStore where
  addr : Nat
  value : Word64
deriving DecidableEq, Repr

/-- SET ALERTS (R192). -/
structure SetAlertsP where
  writeStaging : Nat
  stagingLevel : Nat
  writePool : Nat
  poolLevel : Nat
deriving DecidableEq, Repr

/-- SET POD (R22). `change` is the set COMPARATOR, LIMITS, MIDDLE, WAKE, ACTIONS, PERIOD as bits 0..5; `actions` is the packed unit. -/
structure SetPodP where
  pod : Nat
  change : Nat
  threshold : Int
  hysteresis : Int
  highLimit : Int
  lowLimit : Int
  middleCount : Nat
  wakeSpan : Nat
  actions : Nat
  period : Nat
deriving DecidableEq, Repr

/-- POWER POD (R7). `direction` 1 is ON. -/
structure PowerPodP where
  pod : Nat
  direction : Nat
  warmSpan : Nat
deriving DecidableEq, Repr

/-- CLEAR POD (R21). -/
structure ClearPodP where
  pod : Nat
deriving DecidableEq, Repr

/-- SET STIMULUS (R34). -/
structure SetStimulusP where
  generator : Nat
  write : Nat
  unitExp : Nat
  period : Nat
  duty : Nat
  alignment : Nat
  polarity : Nat
  carrier : Nat
  carrierPeriod : Nat
  burst : Nat
  chaining : Nat
deriving DecidableEq, Repr

/-- RUN STIMULUS (R35). -/
structure RunStimulusP where
  generator : Nat
  action : Nat
deriving DecidableEq, Repr

/-- ARM (R68). -/
structure ArmP where
  channels : Nat
  intervalExp : Nat
  depth : Nat
  share : Nat
  mode : Nat
  watch : Nat
  idleSpan : Nat
deriving DecidableEq, Repr

/-- TAKE STATUS (R80) and RELEASE TAKE (R81). -/
structure TakeIdP where
  takeId : Nat
deriving DecidableEq, Repr

/-- One term position of a stage record (spec/11, 11.2): the bytes of its first unit, the rest of that unit, and its pattern unit. -/
structure TermP where
  kind : Nat
  sel : Nat
  arg : Nat
  rest : Nat
  mask : Nat
  value : Nat
deriving DecidableEq, Repr

/-- One stage record (R88, spec/11, 11.2). `rest` is every bit of unit 9 that no field names. -/
structure StageP where
  terms : List TermP
  combine : Nat
  metAction : Nat
  metTarget : Nat
  resume : Nat
  earlyAction : Nat
  earlyTarget : Nat
  lateAction : Nat
  lateTarget : Nat
  count : Nat
  mark : Nat
  stimAction : Nat
  stimGen : Nat
  rest : Nat
  winMin : Nat
  winMax : Nat
deriving DecidableEq, Repr

/-- SET SEQUENCE (R88). -/
structure SetSequenceP where
  count : Nat
  stages : List StageP
deriving DecidableEq, Repr

/-- SET LANE (R112). `params` holds the six protocol units; `excMask` the exception set. -/
structure SetLaneP where
  lane : Nat
  kind : Nat
  source : Nat
  chA : Nat
  chB : Nat
  chC : Nat
  params : List Nat
  excMask : Nat
  ringAddr : Nat
  capacity : Nat
  startCount : Nat
  trip : Nat
deriving DecidableEq, Repr

/-- SNAPSHOT LANE (R135). -/
structure SnapshotLaneP where
  lane : Nat
deriving DecidableEq, Repr

/-- RESUME LANE (R136). -/
structure ResumeLaneP where
  lane : Nat
  clear : Nat
  excMask : Nat
deriving DecidableEq, Repr

/-- SET MATCH (R140). -/
structure SetMatchP where
  slot : Nat
  enable : Nat
  lane : Nat
  index : Nat
  mask : Nat
  reference : Nat
  mode : Nat
deriving DecidableEq, Repr

/-- REPLAY (R149). -/
structure ReplayP where
  takeId : Nat
  rangeStart : Nat
  rangeEnd : Nat
  lanes : Nat
  search : Nat
  capacity : Nat
deriving DecidableEq, Repr

/-- EXPORT (R160). -/
structure ExportP where
  takeId : Nat
  firstBlock : Nat
  count : Nat
  dest : Nat
  capacity : Nat
deriving DecidableEq, Repr

/-- RENDER (R163). `traces` holds the trace list units. -/
structure RenderP where
  source : Nat
  winStart : Nat
  width : Nat
  cols : Nat
  traceCount : Nat
  traces : List Nat
  tableA : Nat
  tableB : Nat
deriving DecidableEq, Repr

/-- SHOW (R176). -/
structure ShowP where
  table : Nat
deriving DecidableEq, Repr

/-- SET PANEL (R173). `bands` holds the band units, `palette` the two palette units. -/
structure SetPanelP where
  enable : Nat
  overlay : Nat
  stride : Nat
  origin : Nat
  width : Nat
  bandCount : Nat
  bands : List Nat
  palette : List Word64
deriving DecidableEq, Repr

/-- The readers of capture memory that use the port (R64). -/
inductive Reader where
  | replay
  | exporter
  | renderer
deriving DecidableEq, Repr

/-- The shared-memory accesses of the part that can fail (R194). -/
inductive LinkAccess where
  | orderHeader
  | orderParams
  | controlBlock
  | reportPage
  | resultArea
  | laneRing
  | exportDest
  | columnTable
  | overlayRead
  | tableRead
deriving DecidableEq, Repr

/-- The commands of the part. An order row is the moment its unit is handed the order; `o` is the order's record. -/
inductive Instr where
  /-- POWER_ON_RESET. -/
  | powerOnReset
  /-- PART_RESET: the host writes `value` to PART STATE. -/
  | partReset (value : BitVec 32)
  /-- LINK_RESET. -/
  | linkReset
  /-- LINK_BASE_WRITE. -/
  | linkBaseWrite (value : Word64)
  /-- NUDGE: a write of `value` to POST COUNT, after the host's stores `stores`. -/
  | nudge (value : BitVec 32) (stores : List HostStore)
  /-- ALERT_CAUSE_WRITE. -/
  | alertCauseWrite (value : BitVec 32)
  /-- ALERT_MASK_WRITE. -/
  | alertMaskWrite (value : BitVec 32)
  /-- ORDER_TAKE, after the host's stores `stores`. -/
  | orderTake (stores : List HostStore)
  /-- DISPATCHER_WAIT_ENDS. -/
  | dispatcherWaitEnds
  /-- NOTE. -/
  | note (o : OrderRef)
  /-- HALT. -/
  | halt (o : OrderRef)
  /-- SET_ALERTS. -/
  | setAlerts (o : OrderRef) (p : SetAlertsP)
  /-- SET_POD. -/
  | setPod (o : OrderRef) (p : SetPodP)
  /-- POWER_POD. -/
  | powerPod (o : OrderRef) (p : PowerPodP)
  /-- CLEAR_POD. -/
  | clearPod (o : OrderRef) (p : ClearPodP)
  /-- SET_STIMULUS. -/
  | setStimulus (o : OrderRef) (p : SetStimulusP)
  /-- RUN_STIMULUS. -/
  | runStimulus (o : OrderRef) (p : RunStimulusP)
  /-- ARM. -/
  | arm (o : OrderRef) (p : ArmP)
  /-- STOP. -/
  | stop (o : OrderRef)
  /-- FORCE. -/
  | force (o : OrderRef)
  /-- TAKE_STATUS. -/
  | takeStatus (o : OrderRef) (p : TakeIdP)
  /-- RELEASE_TAKE. -/
  | releaseTake (o : OrderRef) (p : TakeIdP)
  /-- SET_SEQUENCE. -/
  | setSequence (o : OrderRef) (p : SetSequenceP)
  /-- SET_LANE. -/
  | setLane (o : OrderRef) (p : SetLaneP)
  /-- SNAPSHOT_LANE. -/
  | snapshotLane (o : OrderRef) (p : SnapshotLaneP)
  /-- RESUME_LANE. -/
  | resumeLane (o : OrderRef) (p : ResumeLaneP)
  /-- SET_MATCH. -/
  | setMatch (o : OrderRef) (p : SetMatchP)
  /-- REPLAY. -/
  | replay (o : OrderRef) (p : ReplayP)
  /-- EXPORT. -/
  | exportOrder (o : OrderRef) (p : ExportP)
  /-- RENDER. -/
  | render (o : OrderRef) (p : RenderP)
  /-- SHOW. -/
  | showTable (o : OrderRef) (p : ShowP)
  /-- SET_PANEL. -/
  | setPanel (o : OrderRef) (p : SetPanelP)
  /-- WARM_TIMER_EXPIRY of one pod. -/
  | warmTimerExpiry (pod : Fin 4)
  /-- WAKE_TIMER_EXPIRY of one pod. -/
  | wakeTimerExpiry (pod : Fin 4)
  /-- MONITOR_PERIOD_EXPIRY: the analog levels of channels 0..31 in 10 mV steps. -/
  | monitorPeriodExpiry (analog : List Int)
  /-- POD_SENSE_CHANGE: the two senses of one pod as they now stand. -/
  | podSenseChange (pod : Fin 4) (probeAbsent : Bool) (hot : Bool)
  /-- PERIOD_END of one generator. -/
  | periodEnd (gen : Fin 4)
  /-- SAMPLE_INTERVAL: the 32 comparator levels at the first tick of the interval. -/
  | sampleInterval (levels : Chans)
  /-- FRAME_IDLE_EXPIRY of one lane. -/
  | frameIdleExpiry (lane : Fin 4)
  /-- WINDOW_MAXIMUM_JUDGED. -/
  | windowMaximumJudged
  /-- IDLE_TIMER_EXPIRY. -/
  | idleTimerExpiry
  /-- WAKE_EDGE: the 32 comparator levels at the edge. -/
  | wakeEdge (levels : Chans)
  /-- CAPTURE_WRITER_ACCESS. -/
  | captureWriterAccess
  /-- TAKE_ENTERS_ENDED. -/
  | takeEntersEnded
  /-- READER_ACCESS_COMPLETE of one reader. -/
  | readerAccessComplete (reader : Reader)
  /-- REPLAY_INTERVAL. -/
  | replayInterval
  /-- BLOCK_FREED of the releasing take with this id. -/
  | blockFreed (takeId : Nat)
  /-- FRAME_START, after the host's stores `stores`. -/
  | frameStart (stores : List HostStore)
  /-- STAGE_REPORT_DELAY_EXPIRY. -/
  | stageReportDelayExpiry
  /-- SHARED_MEMORY_ACCESS_FAILURE: the step `during`, in the course of which the access number `nth` (from 0) of kind `access` fails. -/
  | sharedMemoryAccessFailure (access : LinkAccess) (nth : Nat) (during : Instr)
  /-- TICK: `count` ticks in a row. -/
  | tick (count : Nat)
  /-- UNIT_END of one generator. -/
  | unitEnd (gen : Fin 4)
deriving DecidableEq, Repr

end Sys2Proof
end

