-- ==== Sys2Proof/Decode.lean ====
section
/-! DEFINITION. Decode.lean: the commands that a word of spec/opcode_table.json spells. No row of the table gives bits, so no word spells one. -/

namespace Sys2Proof

/-- The command that `nbits` bits of the table spell as `w`: none, for no row gives bits. -/
def decodeTableWord (_nbits _w : Nat) : Option Instr := none

end Sys2Proof
end

