-- ==== Sys2Proof/Config.lean ====
section
/-! DEFINITION. Config.lean: the sizes and spans the manual fixes for every part. The manual leaves no value to an implementation and
none undefined after a step, so there is no free value here (notes/assumptions/4.md). -/

namespace Sys2Proof.Config

/-- Blocks of capture memory (spec/04, R57). -/
def blockCount : Nat := 4096
/-- Records of one block (spec/04, R49). -/
def blockRecords : Nat := 16384
/-- Records the staging FIFO holds (R44). -/
def stagingSize : Nat := 4096
/-- The fill to which an overflow drains before recovery (R46). -/
def recoveryFill : Nat := 2047
/-- The fill above which the writer is granted first (R64). -/
def writerFirstFill : Nat := 2048
/-- The largest delta (R41). -/
def maxDelta : Nat := 2 ^ 28 - 1
/-- Records one reader access delivers (R64). -/
def readerBurst : Nat := 64
/-- Ticks of one µs. -/
def ticksPerUs : Nat := 1000
/-- Ticks of one ms. -/
def ticksPerMs : Nat := 1000000
/-- Ticks between frame starts (R173). -/
def framePeriod : Nat := 16666667
/-- Ticks between two reports of the current stage, 10 µs (R109). -/
def stageReportGap : Nat := 10000
/-- Orders the export engine queues (R159). -/
def exportQueue : Nat := 4
/-- The largest difference of a posted count from the consumed count (R183). -/
def maxOwed : Nat := 4096

end Sys2Proof.Config
end

