-- ==== Sys2Proof/Machine/State.lean ====
section
/-! DEFINITION. Machine/State.lean: every piece of state the manual gives the part, as plain data, and its value after power-on reset.
Views that the manual computes from other state (unknown channels, idle, fill, record count, hold of a reader, alert line) are functions in
Machine/, so that each thing is stored once (notes/assumptions/5.md). -/

namespace Sys2Proof.Machine

/-! ## Shared memory -/

/-- Shared memory: (address, byte) pairs, addresses strictly rising, no byte 0 listed. An unlisted address reads 0 (notes/assumptions/6.md). -/
abbrev Mem := List Host.Cell

/-! ## Orders -/

/-- The outcome codes of spec/10, without the code 0 of an order not yet complete. -/
inductive Outcome where
  | ok
  | partly
  | badKind
  | badField
  | busy
  | wrongState
  | noTakeSlot
  | noBlocks
  | noSuchTake
  | podOff
  | cancelled
  | superseded
  | linkFault
deriving DecidableEq, Repr

/-- The order kinds of spec/11, 11.2. -/
inductive OrderKind where
  | note
  | halt
  | setAlerts
  | setPod
  | powerPod
  | clearPod
  | setStimulus
  | runStimulus
  | arm
  | stop
  | force
  | takeStatus
  | releaseTake
  | setSequence
  | setLane
  | snapshotLane
  | resumeLane
  | setMatch
  | replay
  | exportOrder
  | render
  | showTable
  | setPanel
deriving DecidableEq, Repr

/-- The states of the dispatcher (R182). -/
inductive DispState where
  | halted
  | idle
  | following
  | broken
  | stalled
deriving DecidableEq, Repr

/-- The dispatcher (R181), with the register LINK BASE (R179) and the two addresses it takes from the control block (10.2).
`cursorOutcome` is the outcome written with DONE into the cursor record, none while the record is TAKEN. `found` is the usable address of the next
record that a nudge in BROKEN found, with which the take goes on (R185). -/
structure Dispatcher where
  state : DispState
  linkBase : Word64
  posted : BitVec 32
  consumed : BitVec 32
  cursor : Option Nat
  cursorOutcome : Option Outcome
  held : Option Nat
  firstOrder : Nat
  pageAddr : Nat
  found : Option Nat
deriving DecidableEq, Repr

/-- The eight alert causes in bit order (R191, spec/11, 11.1). -/
inductive Cause where
  | order
  | chain
  | link
  | pod
  | take
  | lane
  | pool
  | staging
deriving DecidableEq, Repr

/-- Alert causes and mask (R191), one bit per cause. -/
structure Alerts where
  causes : BitVec 8
  mask : BitVec 8
deriving DecidableEq, Repr

/-- The report writer (R193): the image of the page as last handed over, the units handed over in the present step that are written even if they are as
before, and the fields that are handed over at a limited rate (R56: fill and lost records; R109: current stage and stack depth). -/
structure Report where
  image : List Word64
  handed : List Nat
  fill : Nat
  lost : Nat
  seqState : Nat
  stage : Nat
  depth : Nat
  stageWritten : Option Tick
deriving DecidableEq, Repr

/-! ## Pods -/

/-- The power states of a pod (R3). -/
inductive Power where
  | off
  | warming
  | on
  | watch
deriving DecidableEq, Repr

/-- The actions of the action table (R15), weakest first. -/
inductive FaultAction where
  | ignore
  | mark
  | markAndEnd
  | isolate
deriving DecidableEq, Repr

/-- A comparator set (R2): threshold and hysteresis in 10 mV steps. -/
structure CompSet where
  threshold : Int
  hysteresis : Int
deriving DecidableEq, Repr

/-- A source record (R14). `openRec` is the action of the FAULT record that is open for the source in the current take, none while none is open:
it is the action in force, or ISOLATE where the record was restated for the latch (R17, R47). -/
structure SourceRec where
  active : Bool
  mask : BitVec 8
  action : FaultAction
  openRec : Option FaultAction
  holdsLatch : Bool
deriving DecidableEq, Repr

/-- A pod controller (R2). A timer is the tick at which it expires, none while stopped. `probeAbsent` and `hotSense` are the pod's two sense inputs. -/
structure Pod where
  power : Power
  warmTimer : Option Tick
  wakeSpan : Nat
  wakeTimer : Option Tick
  applied : CompSet
  staged : CompSet
  stagedPending : Bool
  generation : BitVec 16
  highLimit : Int
  lowLimit : Int
  middleCount : Nat
  actions : Five FaultAction
  sources : Five SourceRec
  latch : Bool
  probeAbsent : Bool
  hotSense : Bool
deriving DecidableEq, Repr

/-- The monitor's fields of one channel (R10). -/
structure ChannelMon where
  last : Int
  overRun : Nat
  underRun : Nat
  middleRun : Nat
deriving DecidableEq, Repr

/-- The pod monitor (R10): period in ms, the tick of the next expiry, 32 channels. -/
structure Monitor where
  period : Nat
  expiry : Tick
  channels : List ChannelMon
deriving DecidableEq, Repr

/-! ## Stimulus generators -/

/-- Generator states (R24). -/
inductive GenState where
  | stopped
  | running
  | silenced
deriving DecidableEq, Repr

/-- The two alignments (R25, R26). -/
inductive Alignment where
  | edge
  | centre
deriving DecidableEq, Repr

/-- The carriers (R27). -/
inductive Carrier where
  | none
  | half
  | third
  | quarter
deriving DecidableEq, Repr

/-- A generator's settings (SET STIMULUS). -/
structure GenSettings where
  unitExp : Nat
  period : Nat
  duty : Nat
  alignment : Alignment
  activeLow : Bool
  carrier : Carrier
  carrierPeriod : Nat
  burst : Nat
deriving DecidableEq, Repr

/-- A stimulus generator (R24). `unitStart` is the tick at which the present unit began and `activeSince` the tick, counted over the wraps of the
tick count, at which the output last became active (the phases of R25 and R27). -/
structure Gen where
  state : GenState
  counter : Nat
  down : Bool
  periodsDone : Nat
  applied : GenSettings
  staged : GenSettings
  stagedPending : Bool
  output : Bool
  unitStart : Tick
  activeSince : Nat
deriving DecidableEq, Repr

/-! ## Records of capture memory -/

/-- Relations of a match slot (R142). -/
inductive Relation where
  | less
  | greater
  | equal
  | unordered
deriving DecidableEq, Repr

/-- What a capture record carries beside its delta (spec/11, 11.3). `rels` holds eight entries, none for a slot outside the bound-slot mask. -/
inductive RecBody where
  | anchor (tick : Tick)
  | change (levels : Chans)
  | gap (lost : Nat) (wake : Bool) (trigger : Bool) (pods : BitVec 4)
  | fault (pod : Fin 4) (source : FaultSource) (begins : Bool) (action : FaultAction) (mask : BitVec 8)
  | mark (stage : Nat) (staged : Bool)
  | frameOpen (lane : Fin 4)
  | frameClose (lane : Fin 4) (errored : Bool) (split : Bool) (interrupted : Bool) (empty : Bool) (rels : List (Option Relation))
  | watch
  | wake (levels : Chans)
deriving DecidableEq, Repr

/-- A capture record. An ANCHOR has delta 0 and no delta field (R41). -/
structure CapRec where
  delta : Nat
  body : RecBody
deriving DecidableEq, Repr

/-- A record admitted to staging, with its time and its take (R41, R42). -/
structure Staged where
  record : CapRec
  time : Tick
  takeId : Nat
deriving DecidableEq, Repr

/-- A record read back from a take, with its time in ticks. -/
structure TimedRec where
  time : Nat
  body : RecBody
deriving DecidableEq, Repr

/-! ## Sampler and staging FIFO -/

/-- Sampler states (R38). -/
inductive SamplerState where
  | idle
  | sampling
  | watch
  | waking
deriving DecidableEq, Repr

/-- The sampler (R38). `comparators` holds the comparator levels last given and `givenLatched` the pods whose latch was set then; `latched` the pods
whose latch was set at the latest interval; `watchLevels` the levels held at watch entry (R52); `wakingPods` and `wakingTrigger` gather what the GAP
of R54 carries; `onAgain` is the latest tick at which a wake timer has brought a listed pod back to ON in the present WAKING (R54); `formedAt` is the
interval whose level vector was formed last (R39). -/
structure Sampler where
  state : SamplerState
  intervalExp : Nat
  origin : Tick
  channels : Chans
  current : Chans
  previous : Chans
  streamTime : Tick
  restateDue : Bool
  idleTimer : Option Tick
  idleSpan : Option Nat
  wakeLatch : Option (Chans × Tick)
  comparators : Chans
  givenLatched : BitVec 4
  latched : BitVec 4
  watchLevels : Chans
  wakingPods : BitVec 4
  wakingTrigger : Bool
  onAgain : Option Tick
  formedAt : Option Tick
deriving DecidableEq, Repr

/-- The staging FIFO (R44). -/
structure Staging where
  records : List Staged
  overflow : Bool
  lost : Nat
  triggerInLoss : Bool
  changedPods : BitVec 4
  tripLevel : Nat
  tripArmed : Bool
deriving DecidableEq, Repr

/-! ## Capture memory -/

/-- An entry of the block table that is not FREE (R57); a FREE block has no entry, for every field of one has its reset value.
`records` are the records written, oldest first, and the record count is their number. -/
structure Block where
  sealedIn : Bool
  takeId : Nat
  seqNo : Nat
  firstTick : Tick
  lastTick : Tick
  generations : Four (BitVec 16)
  holdCount : Nat
  revocable : Bool
  records : List CapRec
deriving DecidableEq, Repr

/-- The clients of the capture memory port in rotation order (R64). -/
inductive Client where
  | writer
  | replay
  | exporter
  | renderer
deriving DecidableEq, Repr

/-- An access granted and not yet complete (R65). `stale`: its reader's right has ended, and its data is discarded.
`drops`: the block whose hold drops when the access completes. `frees`: the front block whose drop waits for it (R63, R71). -/
structure Grant where
  client : Client
  stale : Bool
  drops : Option Nat
  frees : Option Nat
deriving DecidableEq, Repr

/-- The block pool (R57, R58, R61, R64): the entries of blocks that are not FREE by index, the free list head first, the trip, the port. -/
structure Pool where
  blocks : List (Nat × Block)
  free : List Nat
  tripLevel : Nat
  tripArmed : Bool
  lastGranted : Client
  inFlight : Option Grant
deriving DecidableEq, Repr

/-- The capture writer (R49): its filling block by index and the time of the last record it wrote. -/
structure Writer where
  filling : Option Nat
  lastTime : Tick
deriving DecidableEq, Repr

/-- Take states (R67). -/
inductive TakeState where
  | empty
  | waiting
  | pretrig
  | posttrig
  | ended
  | releasing
deriving DecidableEq, Repr

/-- Trigger modes (R66). -/
inductive TrigMode where
  | sequence
  | immediate
  | forceOnly
deriving DecidableEq, Repr

/-- Trigger sources (R73). -/
inductive TrigSource where
  | sequence
  | force
  | immediate
deriving DecidableEq, Repr

/-- A trigger position (R74). `place` is a block sequence number and a record index. -/
structure TrigPos where
  tick : Tick
  source : TrigSource
  place : Option (Nat × Nat)
  inGap : Bool
deriving DecidableEq, Repr

/-- End reasons (R77). -/
inductive EndReason where
  | filled
  | short
  | stopped
  | faulted
deriving DecidableEq, Repr

/-- A take entry (R66). `stops` are the STOP orders waiting on the take (R79); `endTime` the time of the interval in which it ended (R50);
`laneRecords` the lanes that have inserted a record into it (R168). -/
structure Take where
  id : Nat
  state : TakeState
  channels : Chans
  intervalExp : Nat
  depth : Nat
  share : Nat
  mode : TrigMode
  idleSpan : Option Nat
  firstSeq : Nat
  sealedCount : Nat
  acquired : Nat
  trigger : Option TrigPos
  endReason : Option EndReason
  lost : Nat
  gaps : Nat
  stackLost : Bool
  stackEmpty : Bool
  openPods : BitVec 4
  armOrder : Option OrderRef
  stops : List OrderRef
  endTime : Tick
  laneRecords : BitVec 4
deriving DecidableEq, Repr

/-- The take table (R66): eight entries, the next id value, and the id the report page shows (R84). -/
structure TakeTable where
  entries : List Take
  nextId : Nat
  shown : Nat
deriving DecidableEq, Repr

/-! ## Trigger sequencer -/

/-- Edge directions (R91). -/
inductive EdgeDir where
  | rising
  | falling
  | either
deriving DecidableEq, Repr

/-- Stage actions (R99). -/
inductive StageAction where
  | next
  | enter
  | ret
  | fire
  | restart
deriving DecidableEq, Repr

/-- A term of a stage (R88). `rels` is the relation set, LESS, GREATER, EQUAL, UNORDERED as bits 0..3. -/
inductive Term where
  | pattern (mask : Chans) (value : Chans)
  | edge (channel : Nat) (dir : EdgeDir)
  | relation (slot : Nat) (rels : BitVec 4)
  | podFault (pod : Fin 4)
deriving DecidableEq, Repr

/-- A loaded stage (R88). `stimulus` is true for START. -/
structure Stage where
  terms : List Term
  anyOf : Bool
  count : Nat
  winMin : Nat
  winMax : Nat
  metAction : StageAction
  metTarget : Nat
  resume : Nat
  earlyAction : StageAction
  earlyTarget : Nat
  lateAction : StageAction
  lateTarget : Nat
  mark : Bool
  stimulus : Option (Bool × Fin 4)
deriving DecidableEq, Repr

/-- Sequencer states (R86). -/
inductive SeqState where
  | unloaded
  | loaded
  | running
  | done
deriving DecidableEq, Repr

/-- The claim on the sequencer (R87). -/
inductive Serving where
  | none
  | capture
  | search
deriving DecidableEq, Repr

/-- The events of one interval (R89): relations by slot, and pods with a POD FAULT event. -/
structure SeqEvents where
  rels : List (Nat × Relation)
  pods : BitVec 4
deriving DecidableEq, Repr

/-- The interval the sequencer evaluated last: its vector, the previous levels it was judged against, whether the condition had held
before, the events seen, and whether its occurrence is counted. A later event of the same interval is judged against it (R92, R93). -/
structure Evaluated where
  time : Tick
  levels : Chans
  known : Chans
  prevLevels : Chans
  prevKnown : Chans
  heldBefore : Bool
  events : SeqEvents
  counted : Bool
deriving DecidableEq, Repr

/-- The trigger sequencer (R85). The return stack is newest first. `events` are the events handed over since the last evaluation. -/
structure Sequencer where
  state : SeqState
  serving : Serving
  servingTake : Nat
  stages : List Stage
  stage : Nat
  firstPending : Bool
  startTime : Tick
  count : Nat
  heldBefore : Bool
  prevLevels : Chans
  prevKnown : Chans
  inGap : Bool
  stack : List Nat
  stackLost : Bool
  stackEmpty : Bool
  events : SeqEvents
  evaluated : Option Evaluated
deriving DecidableEq, Repr

/-! ## Decode lanes and match slots -/

/-- ASYNC parity (SET LANE). -/
inductive Parity where
  | none
  | even
  | odd
deriving DecidableEq, Repr

/-- A protocol kind with its parameters (SET LANE). -/
inductive Proto where
  | none
  | async (idle : Bool) (bitTime : Nat) (dataBits : Nat) (parity : Parity) (stopBits : Nat) (frameIdle : Nat)
  | clocked (falling : Bool) (wordLen : Nat) (lsbFirst : Bool) (selActive : Bool) (idleGap : Nat)
  | twoWire
  | pulse (active : Bool) (leader : Nat) (threshold : Nat) (wordLen : Nat) (idleGap : Nat)
deriving DecidableEq, Repr

/-- A lane's configuration (R112). -/
structure LaneConfig where
  proto : Proto
  live : Bool
  chA : Nat
  chB : Nat
  chC : Option Nat
deriving DecidableEq, Repr

/-- Lane states (R111). -/
inductive LaneState where
  | off
  | idle
  | attached
  | replaying
  | held
deriving DecidableEq, Repr

/-- Tags of a field (R122). -/
inductive Tag where
  | complete
  | partly
  | errored
deriving DecidableEq, Repr

/-- A field stack entry (R110). -/
structure Field where
  tag : Tag
  bits : Nat
  value : BitVec 32
  ack : Bool
  parityBad : Bool
  stopBad : Bool
  offset : Nat
deriving DecidableEq, Repr

/-- The word in progress (R110). -/
structure WordIP where
  active : Bool
  value : BitVec 32
  bits : Nat
  start : Tick
  ack : Bool
  parityBad : Bool
  stopBad : Bool
  taint : Bool
deriving DecidableEq, Repr

/-- A lane's protocol decoder: phase, open frame, stack and word of R110, and what the protocol rules imply.
`hasPrev` and the three previous levels serve edges (R114). `armed`: the idle level has been handed (R115). `bitIndex`: the next ASYNC sample point.
`measure`: the tick at which the idle measure runs out. `edgeStart`, `edgeLevel`, `edgeTaint`: a pulse (R120) or a first clock rise (R118) under way.
`ackTaken`: the acknowledge bit is taken. `afterGap`: the next vector is the first after a gap span (R121). -/
structure Decoder where
  inFrame : Bool
  frameStart : Tick
  seqNo : BitVec 16
  stack : List Field
  word : WordIP
  continues : Bool
  hasPrev : Bool
  prevA : Bool
  prevB : Bool
  prevC : Bool
  armed : Bool
  bitIndex : Nat
  measure : Option Tick
  edgeStart : Option Tick
  edgeLevel : Bool
  edgeTaint : Bool
  ackTaken : Bool
  afterGap : Bool
deriving DecidableEq, Repr

/-- The seven exceptions of a lane in bit order (spec/11, Parameter areas). -/
inductive Exc where
  | framing
  | parity
  | longFrame
  | emptyFrame
  | unordered
  | ringFull
  | signalFault
deriving DecidableEq, Repr

/-- A decode lane (R110). `pendingRecs` are the replay records waiting for ring space, oldest first. `resumedAt` is the interval in which a RESUME LANE
put the lane back to live work: it takes vectors again from the next one (R136). -/
structure Lane where
  state : LaneState
  heldReplay : Bool
  attached : Nat
  config : LaneConfig
  channelsAbsent : Bool
  dec : Decoder
  sticky : BitVec 7
  excMask : BitVec 7
  ringAddr : Nat
  capacity : Nat
  written : BitVec 32
  returned : BitVec 32
  lost : Nat
  lostBefore : Bool
  trip : Nat
  tripArmed : Bool
  pendingRecs : List (List Word64)
  suspended : Bool
  position : Tick
  replayFrames : Nat
  resumedAt : Option Tick
deriving DecidableEq, Repr

/-- A match slot (R139). -/
structure MatchSlot where
  enabled : Bool
  lane : Fin 4
  index : Nat
  mask : BitVec 32
  reference : BitVec 32
  strict : Bool
deriving DecidableEq, Repr

/-! ## Replay, export, rendering -/

/-- An open fault record of a reader: action and mask (R153). -/
abbrev OpenFault := Option (FaultAction × BitVec 8)

/-- The phases of the replay engine (R148). -/
inductive ReplayPhase where
  | scan
  | leadIn
  | feeding
  | closing
deriving DecidableEq, Repr

/-- The replay engine (R148). It is RUNNING while `running`. `readCount`: records of the take read so far in the phase. `front`: the front uncertainty.
`nextInterval`: the next grid interval to hand. `noticed`: gap notices handed. `closed`: the end of the range has been reported to the lanes.
`doneLanes` and `frameCounts`: what the lanes have handed back (R157). `hits` oldest first. -/
structure Replay where
  running : Bool
  phase : ReplayPhase
  order : Option OrderRef
  takeId : Nat
  first : Nat
  last : Nat
  lanes : BitVec 4
  search : Bool
  capacity : Nat
  held : Option Nat
  readCount : Nat
  levels : Chans
  known : Chans
  faults : Four (Five OpenFault)
  front : Four (Five OpenFault)
  frontPods : BitVec 4
  inGap : Bool
  noticed : Nat
  hits : List (Tick × Nat)
  furtherHits : Nat
  blocksFinished : Nat
  lastHanded : Option Nat
  nextInterval : Nat
  doneLanes : BitVec 4
  frameCounts : Four Nat
  stackLost : Bool
  stackEmpty : Bool
deriving DecidableEq, Repr

/-- An accepted EXPORT (R160), its run clipped. -/
structure ExportJob where
  order : OrderRef
  takeId : Nat
  firstBlock : Nat
  count : Nat
  dest : Nat
  capacity : Nat
deriving DecidableEq, Repr

/-- The export engine (R159): the queue, the running order at its head, and the running order's progress. `index`: records of the held block copied. -/
structure Exporter where
  queue : List ExportJob
  nextSeq : Nat
  copied : Nat
  bytes : Nat
  held : Option Nat
  index : Nat
deriving DecidableEq, Repr

/-- A trace of a RENDER (R163). -/
inductive TraceSel where
  | channel (n : Nat)
  | lane (k : Fin 4) (slot : Nat)
deriving DecidableEq, Repr

/-- Renderer states (R162). -/
inductive RenderState where
  | idle
  | building
  | waitingFrame
deriving DecidableEq, Repr

/-- A run of records read from one front: where it starts, whether blocks before it are lost, the fault state found by the SCAN (R151). -/
structure RenderPart where
  start : Nat
  recycled : Bool
  front : Four (Five OpenFault)
  records : List TimedRec
deriving DecidableEq, Repr

/-- What a generation left behind (R170). -/
structure LastGen where
  number : Nat
  tableB : Bool
  outOfSpan : Bool
  stale : Bool
deriving DecidableEq, Repr

/-- The trace renderer (R162), and the progress of its generation: the number it bears, whether it is the final one, its span's last block,
what it has read (`parts` behind `cur`), the ticks revoked (R169), the trigger tick and open-fault mask at its start. `lastWhole` is the number
of the last generation written whole, as the report page shows it (R178). `silent` are the lanes that had inserted no record into the take at its start (R168). -/
structure Renderer where
  state : RenderState
  order : Option OrderRef
  live : Bool
  takeId : Nat
  winStart : Nat
  width : Nat
  cols : Nat
  traces : List TraceSel
  tableA : Nat
  tableB : Nat
  targetB : Bool
  started : Bool
  nextGen : Nat
  span : Option (Nat × Nat)
  spanLastSeq : Nat
  sealPending : Bool
  finalDue : Bool
  completed : Nat
  lastGen : Option LastGen
  held : Option Nat
  index : Nat
  number : Nat
  isFinal : Bool
  scanning : Bool
  scanned : List TimedRec
  reached : Nat
  parts : List RenderPart
  cur : RenderPart
  revoked : List (Nat × Nat)
  trigTick : Option Nat
  openPods : BitVec 4
  silent : BitVec 4
  colsWritten : Nat
  lastWhole : Nat
deriving DecidableEq, Repr

/-! ## Panel -/

/-- A band of the panel (R172). -/
structure Band where
  trace : Nat
  top : Nat
  height : Nat
deriving DecidableEq, Repr

/-- A panel configuration (R172). -/
structure PanelConfig where
  overlay : Nat
  stride : Nat
  origin : Nat
  width : Nat
  bands : List Band
  palette : List (BitVec 16)
deriving DecidableEq, Repr

/-- What the panel drew at its latest frame start: the configuration, the shown table, shared memory as it read it, and what it could not read (R174, R177).
The picture is `DrawnFrame.pixel` of it. -/
structure DrawnFrame where
  config : PanelConfig
  table : Option Nat
  memory : Mem
  overlayFailed : Bool
  tableFailed : Bool
deriving DecidableEq, Repr

/-- The panel scanout (R172). `pendingTable` carries true for origin SHOW. `nextFrame` is the tick of the next frame start. -/
structure Panel where
  scanning : Bool
  config : PanelConfig
  staged : Option PanelConfig
  shown : Option Nat
  pendingTable : Option (Nat × Bool)
  waitingShow : Option OrderRef
  frameCount : BitVec 32
  nextFrame : Tick
  drawn : Option DrawnFrame
deriving DecidableEq, Repr

/-! ## The part -/

/-- The whole part, shared memory as it stands between the two sides, and the commands waiting (front first). `wraps` counts how often the tick count
has run past 2^56 − 1, so that spans longer than its run can be told (R27).
`failPlan` is the failure a SHARED_MEMORY_ACCESS_FAILURE step has in store; it is empty between steps (R194). -/
structure State where
  tick : Tick
  wraps : Nat
  disp : Dispatcher
  alerts : Alerts
  report : Report
  pods : Four Pod
  monitor : Monitor
  gens : Four Gen
  chain01 : Bool
  chain23 : Bool
  sampler : Sampler
  staging : Staging
  writer : Writer
  pool : Pool
  takes : TakeTable
  seq : Sequencer
  lanes : Four Lane
  slots : List MatchSlot
  replay : Replay
  exporter : Exporter
  render : Renderer
  panel : Panel
  shared : Mem
  failPlan : List (LinkAccess × Nat)
  pending : List Instr
deriving DecidableEq, Repr

/-- The reasons for which the machine stops with a fault. The manual names none: every command leaves the part running. -/
inductive Fault where
deriving DecidableEq, Repr

/-- The reasons for which a step is refused. -/
inductive Refusal where
  /-- Raised by an arm of exec whose command has no meaning yet. Safe: nothing is claimed of the command. No arm raises it now. -/
  | notModelled (mnemonic : String)
deriving DecidableEq, Repr

/-! ## Reset values -/

/-- A source record after reset (R2). Its action in force is read only while it is active. -/
def SourceRec.reset : SourceRec := ⟨false, 0, .ignore, none, false⟩

/-- A pod after reset (R2). The senses start as probe present and temperature normal (notes/assumptions/3.md). -/
def Pod.reset : Pod where
  power := .off
  warmTimer := none
  wakeSpan := 20
  wakeTimer := none
  applied := ⟨140, 5⟩
  staged := ⟨140, 5⟩
  stagedPending := false
  generation := 0
  highLimit := 150
  lowLimit := -50
  middleCount := 4
  actions := ⟨.isolate, .isolate, .mark, .mark, .isolate⟩
  sources := Five.all SourceRec.reset
  latch := false
  probeAbsent := false
  hotSense := false

/-- A channel of the monitor after reset and at its pod's entry to ON from WARMING (R10). -/
def ChannelMon.reset : ChannelMon := ⟨0, 3, 3, 0⟩

/-- The monitor after reset (R10): the first period starts at the reset. -/
def Monitor.reset : Monitor where
  period := 10
  expiry := BitVec.ofNat 56 (10 * Config.ticksPerMs)
  channels := List.replicate 32 ChannelMon.reset

/-- Generator settings after reset (R24). -/
def GenSettings.reset : GenSettings := ⟨0, 0, 0, .edge, false, .none, 2, 0⟩

/-- A generator after reset (R24). -/
def Gen.reset : Gen where
  state := .stopped
  counter := 0
  down := false
  periodsDone := 0
  applied := GenSettings.reset
  staged := GenSettings.reset
  stagedPending := false
  output := false
  unitStart := 0
  activeSince := 0

/-- The sampler after reset (R38). -/
def Sampler.reset : Sampler where
  state := .idle
  intervalExp := 0
  origin := 0
  channels := 0
  current := 0
  previous := 0
  streamTime := 0
  restateDue := false
  idleTimer := none
  idleSpan := none
  wakeLatch := none
  comparators := 0
  givenLatched := 0
  latched := 0
  watchLevels := 0
  wakingPods := 0
  wakingTrigger := false
  onAgain := none
  formedAt := none

/-- The staging FIFO after reset (R44). -/
def Staging.reset : Staging where
  records := []
  overflow := false
  lost := 0
  triggerInLoss := false
  changedPods := 0
  tripLevel := 3072
  tripArmed := true

/-- The block pool after reset (R57, R58, R61, R64): every block FREE, the free list in index order, the writer first in the rotation.
R61 gives the trip level and no value for trip armed: it starts set, as every block is free (DESIGN CHOICE, notes/assumptions/32.md). -/
def Pool.reset : Pool where
  blocks := []
  free := List.range Config.blockCount
  tripLevel := 256
  tripArmed := true
  lastGranted := .renderer
  inFlight := none

/-- An EMPTY take entry (R66). -/
def Take.reset : Take where
  id := 0
  state := .empty
  channels := 0
  intervalExp := 0
  depth := 2
  share := 0
  mode := .sequence
  idleSpan := none
  firstSeq := 0
  sealedCount := 0
  acquired := 0
  trigger := none
  endReason := none
  lost := 0
  gaps := 0
  stackLost := false
  stackEmpty := false
  openPods := 0
  armOrder := none
  stops := []
  endTime := 0
  laneRecords := 0

/-- The take table after reset (R66). -/
def TakeTable.reset : TakeTable := ⟨List.replicate 8 Take.reset, 1, 0⟩

/-- No events. -/
def SeqEvents.none : SeqEvents := ⟨[], 0⟩

/-- The sequencer after reset (R85). -/
def Sequencer.reset : Sequencer where
  state := .unloaded
  serving := .none
  servingTake := 0
  stages := []
  stage := 0
  firstPending := false
  startTime := 0
  count := 0
  heldBefore := false
  prevLevels := 0
  prevKnown := 0
  inGap := false
  stack := []
  stackLost := false
  stackEmpty := false
  events := SeqEvents.none
  evaluated := Option.none

/-- No word in progress. -/
def WordIP.none : WordIP := ⟨false, 0, 0, 0, false, false, false, false⟩

/-- A decoder in HUNTING with an empty stack and no word (R110, R112, R113, R137). -/
def Decoder.reset : Decoder where
  inFrame := false
  frameStart := 0
  seqNo := 0
  stack := []
  word := WordIP.none
  continues := false
  hasPrev := false
  prevA := false
  prevB := false
  prevC := false
  armed := false
  bitIndex := 0
  measure := none
  edgeStart := none
  edgeLevel := false
  edgeTaint := false
  ackTaken := false
  afterGap := false

/-- A configuration cleared: kind NONE, source OFF (R110). -/
def LaneConfig.reset : LaneConfig := ⟨.none, false, 0, 0, none⟩

/-- A lane after reset (R110): RING FULL (bit 5) and EMPTY FRAME (bit 3) masked. -/
def Lane.reset : Lane where
  state := .off
  heldReplay := false
  attached := 0
  config := LaneConfig.reset
  channelsAbsent := false
  dec := Decoder.reset
  sticky := 0
  excMask := 0x28
  ringAddr := 0
  capacity := 0
  written := 0
  returned := 0
  lost := 0
  lostBefore := false
  trip := 0
  tripArmed := true
  pendingRecs := []
  suspended := false
  position := 0
  replayFrames := 0
  resumedAt := none

/-- A match slot after reset (R139). -/
def MatchSlot.reset : MatchSlot := ⟨false, 0, 0, 0, 0, false⟩

/-- The replay engine IDLE with every field cleared (R148). -/
def Replay.reset : Replay where
  running := false
  phase := .leadIn
  order := none
  takeId := 0
  first := 0
  last := 0
  lanes := 0
  search := false
  capacity := 0
  held := none
  readCount := 0
  levels := 0
  known := 0
  faults := Four.all (Five.all none)
  front := Four.all (Five.all none)
  frontPods := 0
  inGap := false
  noticed := 0
  hits := []
  furtherHits := 0
  blocksFinished := 0
  lastHanded := none
  nextInterval := 0
  doneLanes := 0
  frameCounts := Four.all 0
  stackLost := false
  stackEmpty := false

/-- The export engine with an empty queue (R159). -/
def Exporter.reset : Exporter := ⟨[], 0, 0, 0, none, 0⟩

/-- No records read. -/
def RenderPart.empty : RenderPart := ⟨0, false, Four.all (Five.all none), []⟩

/-- The renderer after reset (R162). -/
def Renderer.reset : Renderer where
  state := .idle
  order := none
  live := false
  takeId := 0
  winStart := 0
  width := 1
  cols := 16
  traces := []
  tableA := 0
  tableB := 0
  targetB := false
  started := false
  nextGen := 1
  span := none
  spanLastSeq := 0
  sealPending := false
  finalDue := false
  completed := 0
  lastGen := none
  held := none
  index := 0
  number := 0
  isFinal := false
  scanning := false
  scanned := []
  reached := 0
  parts := []
  cur := RenderPart.empty
  revoked := []
  trigTick := none
  openPods := 0
  silent := 0
  colsWritten := 0
  lastWhole := 0

/-- The panel configuration after reset (R172). -/
def PanelConfig.reset : PanelConfig := ⟨0, 1600, 0, 800, [], List.replicate 8 0⟩

/-- The panel after reset (R172). -/
def Panel.reset : Panel where
  scanning := false
  config := PanelConfig.reset
  staged := none
  shown := none
  pendingTable := none
  waitingShow := none
  frameCount := 0
  nextFrame := 0
  drawn := none

/-- The dispatcher after any reset (R181, R179). -/
def Dispatcher.reset : Dispatcher where
  state := .halted
  linkBase := 0
  posted := 0
  consumed := 0
  cursor := none
  cursorOutcome := none
  held := none
  firstOrder := 0
  pageAddr := 0
  found := none

/-- The report writer after reset: every unit of its image is written anew when the dispatcher leaves HALTED (R184). -/
def Report.reset : Report where
  image := List.replicate 64 0
  handed := []
  fill := 0
  lost := 0
  seqState := 0
  stage := 0
  depth := 0
  stageWritten := none

/-- The part right after power-on reset. -/
def State.reset : State where
  tick := 0
  wraps := 0
  disp := Dispatcher.reset
  alerts := ⟨0, 0⟩
  report := Report.reset
  pods := Four.all Pod.reset
  monitor := Monitor.reset
  gens := Four.all Gen.reset
  chain01 := false
  chain23 := false
  sampler := Sampler.reset
  staging := Staging.reset
  writer := ⟨none, 0⟩
  pool := Pool.reset
  takes := TakeTable.reset
  seq := Sequencer.reset
  lanes := Four.all Lane.reset
  slots := List.replicate 8 MatchSlot.reset
  replay := Replay.reset
  exporter := Exporter.reset
  render := Renderer.reset
  panel := Panel.reset
  shared := []
  failPlan := []
  pending := []

end Sys2Proof.Machine
end

