-- ==== Sys2Proof/Machine/Ops.lean ====
section
/-! DEFINITION. Machine/Ops.lean: the named operations every block shares: tick arithmetic, bits, shared memory, accesses that may fail,
alert causes, take and block look-up, and the completion of an order. A state operation is written as ONE record update whose conditions stand
inside its fields, so that what it leaves alone is plain to read and true by rfl. -/

namespace Sys2Proof.Machine

/-! ## Ticks (R1) -/

/-- `n` ticks after `t`, modulo 2^56. -/
def tickAdd (t : Tick) (n : Nat) : Tick := t + BitVec.ofNat 56 n

/-- Ticks from `a` on to `b`, modulo 2^56. -/
def ticksFrom (a b : Tick) : Nat := (b - a).toNat

/-- `a` is at or before `b`, for ticks less than half the count's run apart. -/
def atOrBefore (a b : Tick) : Bool := decide (ticksFrom a b < 2 ^ 55)

/-- A timer that expires at the tick it holds has expired. A stopped timer has not. -/
def timerDue (timer : Option Tick) (now : Tick) : Bool :=
  match timer with
  | none => false
  | some t => atOrBefore t now

/-- The ticks since power-on or part reset, counted over the wraps of the tick count. -/
def State.longTick (s : State) : Nat := s.wraps * 2 ^ 56 + s.tick.toNat

/-- A tick at or before the present one, as a number on that count. -/
def State.longOf (s : State) (t : Tick) : Nat := s.longTick - ticksFrom t s.tick

/-- The time left of a timer, in ticks. -/
def timeLeft (timer : Option Tick) (now : Tick) : Nat :=
  match timer with
  | none => 0
  | some t => if atOrBefore t now then 0 else ticksFrom now t

/-- The time of the grid interval that holds `t` (spec/03, 3.1): interval i begins at the origin plus i times 2^k ticks. -/
def gridFloor (origin : Tick) (k : Nat) (t : Tick) : Tick :=
  tickAdd origin (ticksFrom origin t / 2 ^ k * 2 ^ k)

/-! ## Bits -/

/-- Bit `i` alone, `w` bits wide. -/
def bit (w i : Nat) : BitVec w := 1#w <<< i

/-- Set or clear bit `i`. -/
def setBit {w : Nat} (v : BitVec w) (i : Nat) (b : Bool) : BitVec w :=
  if b then v ||| bit w i else v &&& ~~~(bit w i)

/-- A bit as a number. -/
def bnat (b : Bool) : Nat := if b then 1 else 0

/-- The number `n` placed at bit `at_` of a unit. -/
def place (n at_ : Nat) : Nat := n * 2 ^ at_

/-- Bits `lo` to `lo + len - 1` of a number. -/
def field (n lo len : Nat) : Nat := n / 2 ^ lo % 2 ^ len

/-- Bits from `lo` on of a number. -/
def above (n lo : Nat) : Nat := n / 2 ^ lo

/-- `n + 1`, at most `m`. -/
def satSucc (n m : Nat) : Nat := if n < m then n + 1 else m

/-- `n + d`, at most `m`. -/
def satAdd (n d m : Nat) : Nat := if n + d < m then n + d else m

/-- The largest 32-bit number, at which 32-bit saturating counters stop. -/
def max32 : Nat := 2 ^ 32 - 1

/-! ## Shared memory -/

/-- The byte at address `a`. An unlisted address reads 0. -/
def Mem.get : Mem → Nat → Byte
  | [], _ => 0
  | (x, y) :: rest, a => if a = x then y else if a < x then 0 else Mem.get rest a

/-- Memory with byte `b` at address `a`. The canonical form is kept: writing 0 removes the entry. -/
def Mem.put : Mem → Nat → Byte → Mem
  | [], a, b => if b = 0 then [] else [(a, b)]
  | (x, y) :: rest, a, b =>
    if a < x then (if b = 0 then (x, y) :: rest else (a, b) :: (x, y) :: rest)
    else if a = x then (if b = 0 then rest else (a, b) :: rest)
    else (x, y) :: Mem.put rest a b

/-- Every entry is above `lo`, addresses rise strictly, no byte is 0. -/
def Mem.wfFrom : Option Nat → Mem → Bool
  | _, [] => true
  | lo, (x, y) :: rest =>
    (match lo with | none => true | some l => decide (l < x)) && decide (y ≠ 0) && Mem.wfFrom (some x) rest

/-- The canonical form of a memory. -/
def Mem.wf (m : Mem) : Bool := Mem.wfFrom none m

/-- Shared-memory addresses are 64-bit (spec/00, Conventions); an address past the last wraps (notes/assumptions/6.md). -/
def wrapAddr (a : Nat) : Nat := a % 2 ^ 64

/-- Memory with `bytes` from address `a` on. -/
def Mem.putBytes (m : Mem) (a : Nat) : List Byte → Mem
  | [] => m
  | b :: rest => Mem.putBytes (m.put (wrapAddr a) b) (a + 1) rest

/-- The byte number `i` of a number. -/
def byteOf (n i : Nat) : Byte := BitVec.ofNat 8 (n / 256 ^ i)

/-- The 8 bytes of a unit, least significant first (spec/11). -/
def unitBytes (u : Word64) : List Byte :=
  [byteOf u.toNat 0, byteOf u.toNat 1, byteOf u.toNat 2, byteOf u.toNat 3,
   byteOf u.toNat 4, byteOf u.toNat 5, byteOf u.toNat 6, byteOf u.toNat 7]

/-- Memory with unit `u` at address `a`. -/
def Mem.putUnit (m : Mem) (a : Nat) (u : Word64) : Mem := m.putBytes a (unitBytes u)

/-- Memory with units from address `a` on. -/
def Mem.putUnits (m : Mem) (a : Nat) : List Word64 → Mem
  | [] => m
  | u :: rest => Mem.putUnits (m.putUnit a u) (a + 8) rest

/-- The number that `n` bytes from address `a` spell, least significant first. -/
def Mem.getNat (m : Mem) (a : Nat) : Nat → Nat
  | 0 => 0
  | n + 1 => (m.get (wrapAddr a)).toNat + 256 * Mem.getNat m (a + 1) n

/-- The unit at address `a`. -/
def Mem.getUnit (m : Mem) (a : Nat) : Word64 := BitVec.ofNat 64 (m.getNat a 8)

/-- `n` units from address `a` on. -/
def Mem.getUnits (m : Mem) (a : Nat) : Nat → List Word64
  | 0 => []
  | n + 1 => m.getUnit a :: Mem.getUnits m (a + 8) n

/-- The host's stores, in order. -/
def Mem.hostStores (m : Mem) : List HostStore → Mem
  | [] => m
  | st :: rest => Mem.hostStores (m.putUnit st.addr st.value) rest

/-- Shared memory after the host's stores. -/
def State.hostStores (s : State) (stores : List HostStore) : State :=
  { s with shared := s.shared.hostStores stores }

/-- An address the part takes: nonzero and a multiple of 8 (spec/00, Conventions). -/
def usableAddr (a : Nat) : Bool := a != 0 && a % 8 == 0

/-! ## Accesses that may fail (R194) -/

/-- One access of kind `a`: whether it fails, and what failures remain in store. -/
def takeAccess (a : LinkAccess) : List (LinkAccess × Nat) → Bool × List (LinkAccess × Nat)
  | [] => (false, [])
  | (x, n) :: rest =>
    if x = a then (match n with | 0 => (true, rest) | m + 1 => (false, (x, m) :: rest))
    else ((takeAccess a rest).1, (x, n) :: (takeAccess a rest).2)

/-- The next access of kind `a` fails. -/
def State.fails (s : State) (a : LinkAccess) : Bool := (takeAccess a s.failPlan).1

/-- The access of kind `a` is made. -/
def State.accessed (s : State) (a : LinkAccess) : State :=
  { s with failPlan := (takeAccess a s.failPlan).2 }

/-! ## Alert causes (R191) -/

/-- The bit of a cause. -/
def Cause.index : Cause → Nat
  | .order => 0
  | .chain => 1
  | .link => 2
  | .pod => 3
  | .take => 4
  | .lane => 5
  | .pool => 6
  | .staging => 7

/-- The causes with one more set. -/
def Alerts.raise (a : Alerts) (c : Cause) : Alerts := { a with causes := a.causes ||| bit 8 c.index }

/-- The causes with one more set if `b`. -/
def Alerts.raiseIf (a : Alerts) (b : Bool) (c : Cause) : Alerts :=
  { a with causes := if b then a.causes ||| bit 8 c.index else a.causes }

/-- Raise a cause, whether or not it is set. -/
def State.raise (s : State) (c : Cause) : State := { s with alerts := s.alerts.raise c }

/-- Raise a cause if `b`. -/
def State.raiseIf (s : State) (b : Bool) (c : Cause) : State := { s with alerts := s.alerts.raiseIf b c }

/-- The numbers of the page's units that are written at an event even if their content is as before (spec/11, 11.6). -/
def unitPosted : Nat := 1
def unitCapture : Nat := 7
def unitFree : Nat := 8
def unitLost : Nat := 8
def unitSeq : Nat := 9
def unitLane (k : Fin 4) : Nat := 10 + k.val
def unitLaneLost (k : Fin 4) : Nat := 14 + k.val
def unitShown : Nat := 18
def unitPanel : Nat := 19
def unitGeneration : Nat := 20

/-- Units of the report page are handed over: the report writer writes them at the end of the step, changed or not (R193). -/
def Report.handing (r : Report) (us : List Nat) : Report := { r with handed := r.handed ++ us }

/-- A lost record count is handed over, also one that the page already shows (R56). -/
def Report.handLost (r : Report) (lost : Nat) : Report := { r.handing [unitLost] with lost := lost }

/-- The staging fill has gone from `before` to `fill`: it is handed over when it becomes 0 or 4,096, or differs by 256 or more from the one handed last (R56). -/
def Report.handFill (r : Report) (before fill : Nat) : Report :=
  if (before ≠ fill ∧ (fill = 0 ∨ fill = Config.stagingSize)) ∨ r.fill + 256 ≤ fill ∨ fill + 256 ≤ r.fill then
    { r.handing [unitCapture] with fill := fill }
  else r

/-- Units of the report page are handed over. -/
def State.hands (s : State) (us : List Nat) : State := { s with report := s.report.handing us }

/-- The alert line is high while an unmasked cause is set (R191). -/
def State.alertLine (s : State) : Bool := s.alerts.causes &&& s.alerts.mask != 0

/-! ## The dispatcher's failures and order completion -/

/-- The dispatcher as a failure leaves it: HALTED, cursor and held order forgotten, counts and LINK BASE kept (R194). -/
def Dispatcher.afterFailure (d : Dispatcher) : Dispatcher :=
  { d with state := .halted, cursor := none, cursorOutcome := none, held := none, found := none }

/-- The dispatcher to HALTED through a failed access, and LINK raised (R194). -/
def State.linkHalt (s : State) : State :=
  { s with disp := s.disp.afterFailure, alerts := s.alerts.raise .link }

/-- The outcome codes of spec/11, 11.2. -/
def Outcome.code : Outcome → Nat
  | .ok => 1
  | .partly => 2
  | .badKind => 3
  | .badField => 4
  | .busy => 5
  | .wrongState => 6
  | .noTakeSlot => 7
  | .noBlocks => 8
  | .noSuchTake => 9
  | .podOff => 10
  | .cancelled => 11
  | .superseded => 12
  | .linkFault => 13

/-- The state codes of an order record (spec/11, 11.2). -/
def stTaken : Nat := 1
def stDone : Nat := 2
def stRetired : Nat := 3

/-- The state unit of an order record: the state in byte 0, the outcome in byte 1 (spec/11, 11.2; R197). -/
def stateUnit (st outcome : Nat) : Word64 := BitVec.ofNat 64 (st + place outcome 8)

/-- The parameter units of each kind (spec/11, 11.2). -/
def OrderKind.paramUnits : OrderKind → Nat
  | .note => 0
  | .halt => 0
  | .setAlerts => 4
  | .setPod => 10
  | .powerPod => 3
  | .clearPod => 1
  | .setStimulus => 11
  | .runStimulus => 2
  | .arm => 7
  | .stop => 0
  | .force => 0
  | .takeStatus => 1
  | .releaseTake => 1
  | .setSequence => 177
  | .setLane => 17
  | .snapshotLane => 1
  | .resumeLane => 3
  | .setMatch => 7
  | .replay => 6
  | .exportOrder => 5
  | .render => 39
  | .showTable => 1
  | .setPanel => 40

/-- The kind codes of spec/11, 11.2: 0 and codes above 0x17 are no kind (R195). -/
def OrderKind.ofCode (code : Nat) : Option OrderKind :=
  match code with
  | 0x01 => some .note
  | 0x02 => some .halt
  | 0x03 => some .setAlerts
  | 0x04 => some .setPod
  | 0x05 => some .powerPod
  | 0x06 => some .clearPod
  | 0x07 => some .setStimulus
  | 0x08 => some .runStimulus
  | 0x09 => some .arm
  | 0x0A => some .stop
  | 0x0B => some .force
  | 0x0C => some .takeStatus
  | 0x0D => some .releaseTake
  | 0x0E => some .setSequence
  | 0x0F => some .setLane
  | 0x10 => some .snapshotLane
  | 0x11 => some .resumeLane
  | 0x12 => some .setMatch
  | 0x13 => some .replay
  | 0x14 => some .exportOrder
  | 0x15 => some .render
  | 0x16 => some .showTable
  | 0x17 => some .setPanel
  | _ => none

/-- The address of a record's state unit. -/
def stateAddr (addr : Nat) : Nat := addr + 8

/-- The address of a record's link. -/
def linkAddr (addr : Nat) : Nat := addr + 0x10

/-- The address of a record's parameter area. -/
def paramAddr (addr : Nat) : Nat := addr + 0x18

/-- The address of a record's result area: straight after the kind's parameter units. -/
def resultAddr (addr : Nat) (kind : OrderKind) : Nat := addr + 0x18 + 8 * kind.paramUnits

/-- The completion's result write: whether it is made and fails. An order without a result area makes none. -/
def State.resultFails (s : State) (result : List Word64) : Bool :=
  if result.isEmpty then false else s.fails .resultArea

/-- What failures remain after the result write. -/
def State.planAfterResult (s : State) (result : List Word64) : List (LinkAccess × Nat) :=
  if result.isEmpty then s.failPlan else (takeAccess .resultArea s.failPlan).2

/-- The outcome a completion writes: LINK FAULT if the result write failed (R194). -/
def State.outcomeWritten (s : State) (outcome : Outcome) (result : List Word64) : Outcome :=
  if s.resultFails result then .linkFault else outcome

/-- The completion's state write fails. -/
def State.stateWriteFails (s : State) (result : List Word64) : Bool :=
  (takeAccess .orderHeader (s.planAfterResult result)).1

/-- An order completes (R187): the result area, then the outcome together with the state, DONE if the record is the cursor and RETIRED if not
or if `retire` (HALT, R189). ORDER is raised once the state is written if the order's ALERT flag is set. A failed result write gives LINK FAULT,
a failed state write halts the dispatcher and leaves the record as it stood (R194). -/
def State.completeAs (s : State) (o : OrderRef) (kind : OrderKind) (outcome : Outcome) (result : List Word64) (retire : Bool) : State :=
  let isCursor := decide (s.disp.cursor = some o.addr)
  let written := s.outcomeWritten outcome result
  let lost := s.stateWriteFails result
  let withResult := if s.resultFails result then s.shared else s.shared.putUnits (resultAddr o.addr kind) result
  let st := if isCursor && !retire then stDone else stRetired
  { s with
    shared := if lost then withResult else withResult.putUnit (stateAddr o.addr) (stateUnit st written.code)
    disp :=
      if lost then s.disp.afterFailure
      else { s.disp with cursorOutcome := if isCursor then some written else s.disp.cursorOutcome }
    alerts := (s.alerts.raiseIf (s.resultFails result || lost) .link).raiseIf (o.alert && !lost) .order
    failPlan := (takeAccess .orderHeader (s.planAfterResult result)).2 }

/-- The completion of every order but HALT. -/
def State.complete (s : State) (o : OrderRef) (kind : OrderKind) (outcome : Outcome) (result : List Word64) : State :=
  s.completeAs o kind outcome result false

/-- What a unit answers to an order: its state, and the outcome and result if the order completes at the take. -/
structure Reply where
  state : State
  outcome : Option Outcome
  result : List Word64

/-- A refusal: nothing changes, and no result is written (notes/assumptions/11.md). -/
def refuse (s : State) (outcome : Outcome) : Reply := ⟨s, some outcome, []⟩

/-- Completion with OK and no result. -/
def accept (s : State) : Reply := ⟨s, some .ok, []⟩

/-- The order stays in flight in its unit. -/
def inFlight (s : State) : Reply := ⟨s, none, []⟩

/-- Carry out a unit's answer: an order it completes is completed. -/
def Reply.finish (r : Reply) (o : OrderRef) (kind : OrderKind) : State :=
  match r.outcome with
  | none => r.state
  | some oc => r.state.complete o kind oc r.result

/-! ## Take look-up -/

/-- The index of the first entry of a list that satisfies `p`, counted from `i`. -/
def findIdxFrom {α : Type} (p : α → Bool) : List α → Nat → Option Nat
  | [], _ => none
  | x :: rest, i => if p x then some i else findIdxFrom p rest (i + 1)

/-- Entry `i` of a list with entry `x` put in its place. -/
def putAt {α : Type} : List α → Nat → α → List α
  | [], _, _ => []
  | _ :: rest, 0, x => x :: rest
  | y :: rest, i + 1, x => y :: putAt rest i x

/-- A take in WAITING, PRETRIG or POSTTRIG. -/
def Take.capturing (t : Take) : Bool := t.state == .waiting || t.state == .pretrig || t.state == .posttrig

/-- A take in PRETRIG or POSTTRIG. -/
def Take.sampling (t : Take) : Bool := t.state == .pretrig || t.state == .posttrig

/-- A take whose end reason is present in a capturing state is ending (R67). -/
def Take.ending (t : Take) : Bool := t.capturing && t.endReason.isSome

/-- The entry of the capturing take (R67). -/
def State.capIndex (s : State) : Option Nat := findIdxFrom Take.capturing s.takes.entries 0

/-- Take entry `i`. -/
def State.takeAt (s : State) (i : Nat) : Take := s.takes.entries.getD i Take.reset

/-- The capturing take. -/
def State.capTake (s : State) : Option Take := s.capIndex.map s.takeAt

/-- The state with take entry `i` replaced. -/
def State.setTake (s : State) (i : Nat) (t : Take) : State :=
  { s with takes := { s.takes with entries := putAt s.takes.entries i t } }

/-- The entry that holds a nonzero id. -/
def State.takeIndex (s : State) (id : Nat) : Option Nat :=
  findIdxFrom (fun t => t.id == id && id != 0) s.takes.entries 0

/-- The capturing take, if sources may insert records for it: in PRETRIG or POSTTRIG and not ending (R17, R42, R77). -/
def State.recordingIndex (s : State) : Option Nat :=
  match s.capIndex with
  | none => none
  | some i => if (s.takeAt i).sampling && (s.takeAt i).endReason.isNone then some i else none

/-- The time of the present sample interval of the capturing take. -/
def State.intervalTime (s : State) : Tick := gridFloor s.sampler.origin s.sampler.intervalExp s.tick

/-- The ticks of a sample interval of the capturing take. -/
def State.intervalTicks (s : State) : Nat := 2 ^ s.sampler.intervalExp

/-! ## Blocks -/

/-- The entry of block `i`, if it is not FREE. -/
def Pool.block (p : Pool) (i : Nat) : Option Block := (p.blocks.find? (fun e => e.1 == i)).map (fun e => e.2)

/-- The pool with the entry of block `i` replaced. -/
def Pool.setBlock (p : Pool) (i : Nat) (b : Block) : Pool :=
  { p with blocks := p.blocks.map (fun e => if e.1 == i then (i, b) else e) }

/-- The index of the block of a take with a sequence number. -/
def Pool.find (p : Pool) (takeId seqNo : Nat) : Option Nat :=
  (p.blocks.find? (fun e => e.2.takeId == takeId && e.2.seqNo == seqNo)).map (fun e => e.1)

/-- The block of a take with a sequence number. -/
def Pool.blockOf (p : Pool) (takeId seqNo : Nat) : Option Block :=
  (p.blocks.find? (fun e => e.2.takeId == takeId && e.2.seqNo == seqNo)).map (fun e => e.2)

/-- The record count of a block (R57). -/
def Block.recordCount (b : Block) : Nat := b.records.length

/-- The free count (R58). -/
def Pool.freeCount (p : Pool) : Nat := p.free.length

/-- The fill of the staging FIFO (R44). -/
def Staging.fill (f : Staging) : Nat := f.records.length

end Sys2Proof.Machine
end

