-- ==== Sys2Proof/Machine/Operands.lean ====
section
/-! DEFINITION. Machine/Operands.lean: the parameter fields of every order kind, read from the units of its record (spec/11, Parameter areas),
and the range check of each kind, which gives BAD FIELD (R195). A field is the number its whole unit holds, so a bit set above the field's width
puts the number out of its range. -/

namespace Sys2Proof

open Sys2Proof.Machine

/-! ## Reading parameter areas -/

/-- Unit `i` as a number. -/
def unitNat (us : List Word64) (i : Nat) : Nat := (us.getD i 0).toNat

/-- Unit `i` as a two's complement number over the whole unit (spec/11). -/
def unitInt (us : List Word64) (i : Nat) : Int := (us.getD i 0).toInt

/-- `n` units from unit `i` on, as numbers. -/
def unitsNat (us : List Word64) (i : Nat) : Nat → List Nat
  | 0 => []
  | n + 1 => unitNat us i :: unitsNat us (i + 1) n

/-- SET ALERTS. -/
def SetAlertsP.read (us : List Word64) : SetAlertsP := ⟨unitNat us 0, unitNat us 1, unitNat us 2, unitNat us 3⟩

/-- SET POD. -/
def SetPodP.read (us : List Word64) : SetPodP where
  pod := unitNat us 0
  change := unitNat us 1
  threshold := unitInt us 2
  hysteresis := unitInt us 3
  highLimit := unitInt us 4
  lowLimit := unitInt us 5
  middleCount := unitNat us 6
  wakeSpan := unitNat us 7
  actions := unitNat us 8
  period := unitNat us 9

/-- POWER POD. -/
def PowerPodP.read (us : List Word64) : PowerPodP := ⟨unitNat us 0, unitNat us 1, unitNat us 2⟩

/-- CLEAR POD. -/
def ClearPodP.read (us : List Word64) : ClearPodP := ⟨unitNat us 0⟩

/-- SET STIMULUS. -/
def SetStimulusP.read (us : List Word64) : SetStimulusP where
  generator := unitNat us 0
  write := unitNat us 1
  unitExp := unitNat us 2
  period := unitNat us 3
  duty := unitNat us 4
  alignment := unitNat us 5
  polarity := unitNat us 6
  carrier := unitNat us 7
  carrierPeriod := unitNat us 8
  burst := unitNat us 9
  chaining := unitNat us 10

/-- RUN STIMULUS. -/
def RunStimulusP.read (us : List Word64) : RunStimulusP := ⟨unitNat us 0, unitNat us 1⟩

/-- ARM. -/
def ArmP.read (us : List Word64) : ArmP :=
  ⟨unitNat us 0, unitNat us 1, unitNat us 2, unitNat us 3, unitNat us 4, unitNat us 5, unitNat us 6⟩

/-- TAKE STATUS and RELEASE TAKE. -/
def TakeIdP.read (us : List Word64) : TakeIdP := ⟨unitNat us 0⟩

/-- A term position: its kind unit `i` and its pattern unit `i + 1`. -/
def TermP.read (us : List Word64) (i : Nat) : TermP where
  kind := field (unitNat us i) 0 8
  sel := field (unitNat us i) 8 8
  arg := field (unitNat us i) 16 8
  rest := above (unitNat us i) 24
  mask := field (unitNat us (i + 1)) 0 32
  value := field (unitNat us (i + 1)) 32 32

/-- A stage record, its 11 units from unit `i` on. -/
def StageP.read (us : List Word64) (i : Nat) : StageP where
  terms := [TermP.read us i, TermP.read us (i + 2), TermP.read us (i + 4), TermP.read us (i + 6)]
  combine := field (unitNat us (i + 8)) 0 8
  metAction := field (unitNat us (i + 8)) 8 8
  metTarget := field (unitNat us (i + 8)) 16 8
  resume := field (unitNat us (i + 8)) 24 8
  earlyAction := field (unitNat us (i + 8)) 32 8
  earlyTarget := field (unitNat us (i + 8)) 40 8
  lateAction := field (unitNat us (i + 8)) 48 8
  lateTarget := field (unitNat us (i + 8)) 56 8
  count := field (unitNat us (i + 9)) 0 16
  mark := field (unitNat us (i + 9)) 16 1
  stimAction := field (unitNat us (i + 9)) 24 8
  stimGen := field (unitNat us (i + 9)) 32 8
  rest := field (unitNat us (i + 9)) 17 7 + above (unitNat us (i + 9)) 40
  winMin := field (unitNat us (i + 10)) 0 32
  winMax := field (unitNat us (i + 10)) 32 32

/-- `n` stage records from unit `i` on. -/
def readStages (us : List Word64) (i : Nat) : Nat → List StageP
  | 0 => []
  | n + 1 => StageP.read us i :: readStages us (i + 11) n

/-- SET SEQUENCE: sixteen stage records follow the count. -/
def SetSequenceP.read (us : List Word64) : SetSequenceP := ⟨unitNat us 0, readStages us 1 16⟩

/-- SET LANE. -/
def SetLaneP.read (us : List Word64) : SetLaneP where
  lane := unitNat us 0
  kind := unitNat us 1
  source := unitNat us 2
  chA := unitNat us 3
  chB := unitNat us 4
  chC := unitNat us 5
  params := unitsNat us 6 6
  excMask := unitNat us 12
  ringAddr := unitNat us 13
  capacity := unitNat us 14
  startCount := unitNat us 15
  trip := unitNat us 16

/-- SNAPSHOT LANE. -/
def SnapshotLaneP.read (us : List Word64) : SnapshotLaneP := ⟨unitNat us 0⟩

/-- RESUME LANE. -/
def ResumeLaneP.read (us : List Word64) : ResumeLaneP := ⟨unitNat us 0, unitNat us 1, unitNat us 2⟩

/-- SET MATCH. -/
def SetMatchP.read (us : List Word64) : SetMatchP :=
  ⟨unitNat us 0, unitNat us 1, unitNat us 2, unitNat us 3, unitNat us 4, unitNat us 5, unitNat us 6⟩

/-- REPLAY. -/
def ReplayP.read (us : List Word64) : ReplayP :=
  ⟨unitNat us 0, unitNat us 1, unitNat us 2, unitNat us 3, unitNat us 4, unitNat us 5⟩

/-- EXPORT. -/
def ExportP.read (us : List Word64) : ExportP :=
  ⟨unitNat us 0, unitNat us 1, unitNat us 2, unitNat us 3, unitNat us 4⟩

/-- RENDER. -/
def RenderP.read (us : List Word64) : RenderP where
  source := unitNat us 0
  winStart := unitNat us 1
  width := unitNat us 2
  cols := unitNat us 3
  traceCount := unitNat us 4
  traces := unitsNat us 5 32
  tableA := unitNat us 37
  tableB := unitNat us 38

/-- SHOW. -/
def ShowP.read (us : List Word64) : ShowP := ⟨unitNat us 0⟩

/-- SET PANEL. -/
def SetPanelP.read (us : List Word64) : SetPanelP where
  enable := unitNat us 0
  overlay := unitNat us 1
  stride := unitNat us 2
  origin := unitNat us 3
  width := unitNat us 4
  bandCount := unitNat us 5
  bands := unitsNat us 6 32
  palette := [us.getD 38 0, us.getD 39 0]

/-! ## Ranges -/

/-- `lo ≤ n ≤ hi`. -/
def inRange (n lo hi : Nat) : Bool := decide (lo ≤ n ∧ n ≤ hi)

/-- `lo ≤ n ≤ hi`. -/
def inRangeInt (n lo hi : Int) : Bool := decide (lo ≤ n ∧ n ≤ hi)

/-- Lane, pod or generator number `n` as one of four (numbers above 3 are refused before). -/
def fin4 (n : Nat) : Fin 4 := Fin.ofNat 4 n

/-- SET ALERTS (R192): write codes YES or NO, and the levels that are read. -/
def SetAlertsP.valid (p : SetAlertsP) : Bool :=
  inRange p.writeStaging 0 1 && inRange p.writePool 0 1 &&
  (p.writeStaging == 0 || inRange p.stagingLevel 1 4096) &&
  (p.writePool == 0 || inRange p.poolLevel 0 4096)

/-- Group `i` of SET POD's change set is asked for. -/
def SetPodP.changes (p : SetPodP) (i : Nat) : Bool := p.change.testBit i

/-- The action codes of SET POD (spec/11). -/
def faultActionOf (code : Nat) : FaultAction :=
  match code with
  | 0 => .ignore
  | 1 => .mark
  | 2 => .markAndEnd
  | _ => .isolate

/-- SET POD (R22): the pod, the change set and every field of a group in it. -/
def SetPodP.valid (p : SetPodP) : Bool :=
  inRange p.pod 0 3 && inRange p.change 0 63 &&
  (!p.changes 0 || (inRangeInt p.threshold (-600) 600 && inRangeInt p.hysteresis 0 25)) &&
  (!p.changes 1 || (inRangeInt p.highLimit (-300) 300 && inRangeInt p.lowLimit (-300) 300 && decide (p.lowLimit ≤ p.highLimit))) &&
  (!p.changes 2 || inRange p.middleCount 1 15) &&
  (!p.changes 3 || inRange p.wakeSpan 1 255) &&
  (!p.changes 4 || (inRange (field p.actions 0 8) 0 3 && inRange (field p.actions 8 8) 0 3 && inRange (field p.actions 16 8) 0 3 &&
      inRange (field p.actions 24 8) 0 3 && inRange (field p.actions 32 8) 0 3 && above p.actions 40 == 0)) &&
  (!p.changes 5 || inRange p.period 1 255)

/-- The action table of SET POD: bytes 0 to 4 in the order OVER, UNDER, MIDDLE, LOST, HOT. -/
def SetPodP.actionTable (p : SetPodP) : Five FaultAction :=
  ⟨faultActionOf (field p.actions 0 8), faultActionOf (field p.actions 8 8), faultActionOf (field p.actions 16 8),
   faultActionOf (field p.actions 24 8), faultActionOf (field p.actions 32 8)⟩

/-- POWER POD (R7, step 1). -/
def PowerPodP.valid (p : PowerPodP) : Bool :=
  inRange p.pod 0 3 && inRange p.direction 0 1 && (p.direction == 0 || inRange p.warmSpan 1 255)

/-- SET STIMULUS (R34, step 1): settings are checked only when they are written, the carrier period only with a carrier. -/
def SetStimulusP.valid (p : SetStimulusP) : Bool :=
  inRange p.generator 0 3 && inRange p.write 0 1 && inRange p.chaining 0 2 &&
  (p.write == 0 ||
    (inRange p.unitExp 0 15 && inRange p.period 0 65535 && inRange p.duty 0 65535 && inRange p.alignment 0 1 &&
     inRange p.polarity 0 1 && inRange p.carrier 0 3 && (p.carrier == 0 || inRange p.carrierPeriod 2 65535) && inRange p.burst 0 65535))

/-- The settings of SET STIMULUS. -/
def SetStimulusP.settings (p : SetStimulusP) : GenSettings where
  unitExp := p.unitExp
  period := p.period
  duty := p.duty
  alignment := if p.alignment == 0 then .edge else .centre
  activeLow := p.polarity == 1
  carrier := match p.carrier with | 0 => .none | 1 => .half | 2 => .third | _ => .quarter
  carrierPeriod := p.carrierPeriod
  burst := p.burst

/-- RUN STIMULUS (R35, step 1). -/
def RunStimulusP.valid (p : RunStimulusP) : Bool := inRange p.generator 0 3 && inRange p.action 0 2

/-- ARM (R68, step 1): the idle span is checked when watch is ON. -/
def ArmP.valid (p : ArmP) : Bool :=
  inRange p.channels 1 (2 ^ 32 - 1) && inRange p.intervalExp 0 20 && inRange p.depth 2 4096 && decide (p.share < p.depth) &&
  inRange p.mode 0 2 && inRange p.watch 0 1 && (p.watch == 0 || inRange p.idleSpan 1 65535)

/-- The trigger modes in the order ARM lists them. -/
def trigModeOf (code : Nat) : TrigMode :=
  match code with
  | 0 => .sequence
  | 1 => .immediate
  | _ => .forceOnly

/-! ### Stage records (R88) -/

/-- A term position whose kind is not 0 (R195): ranges of the fields its kind reads. -/
def TermP.valid (t : TermP) : Bool :=
  match t.kind with
  | 1 => t.rest == 0
  | 2 => inRange t.sel 0 31 && inRange t.arg 0 2 && t.rest == 0
  | 3 => inRange t.sel 0 7 && inRange t.arg 1 15 && t.rest == 0
  | 4 => inRange t.sel 0 3 && t.rest == 0
  | _ => false

/-- The present term positions of a stage. -/
def StageP.present (p : StageP) : List TermP := p.terms.filter (fun t => t.kind != 0)

/-- A stage record under a stage count (R88, step 1). Fields that an action does not read are not checked. -/
def StageP.valid (n : Nat) (p : StageP) : Bool :=
  inRange p.present.length 1 4 && p.present.all TermP.valid && inRange p.combine 0 1 &&
  inRange p.count 1 65535 && inRange p.metAction 0 4 &&
  (!(p.metAction == 0 || p.metAction == 1) || decide (p.metTarget < n)) &&
  (p.metAction != 1 || decide (p.resume < n)) &&
  (p.earlyAction == 0 || p.earlyAction == 3 || p.earlyAction == 4) && (p.earlyAction != 0 || decide (p.earlyTarget < n)) &&
  (p.lateAction == 0 || p.lateAction == 3 || p.lateAction == 4) && (p.lateAction != 0 || decide (p.lateTarget < n)) &&
  inRange p.mark 0 1 && inRange p.stimAction 0 2 && (p.stimAction == 0 || inRange p.stimGen 0 3) && p.rest == 0 &&
  inRange p.winMin 0 max32 && inRange p.winMax 0 max32 &&
  (p.winMin == 0 || p.winMax == 0 || decide (p.winMin ≤ p.winMax))

/-- SET SEQUENCE (R88, step 1): records beyond the stage count are not read. -/
def SetSequenceP.valid (p : SetSequenceP) : Bool :=
  inRange p.count 1 16 && p.stages.length ≥ p.count && (p.stages.take p.count).all (StageP.valid p.count)

/-- The term of a valid position. -/
def TermP.term (t : TermP) : Term :=
  match t.kind with
  | 1 => .pattern (BitVec.ofNat 32 t.mask) (BitVec.ofNat 32 t.value)
  | 2 => .edge t.sel (match t.arg with | 0 => .rising | 1 => .falling | _ => .either)
  | 3 => .relation t.sel (BitVec.ofNat 4 t.arg)
  | _ => .podFault (fin4 t.sel)

/-- The action codes of spec/11: NEXT 0, ENTER 1, RETURN 2, FIRE 3, RESTART 4. -/
def stageActionOf (code : Nat) : StageAction :=
  match code with
  | 0 => .next
  | 1 => .enter
  | 2 => .ret
  | 3 => .fire
  | _ => .restart

/-- The stage of a valid record. -/
def StageP.stage (p : StageP) : Stage where
  terms := p.present.map TermP.term
  anyOf := p.combine == 1
  count := p.count
  winMin := p.winMin
  winMax := p.winMax
  metAction := stageActionOf p.metAction
  metTarget := p.metTarget
  resume := p.resume
  earlyAction := stageActionOf p.earlyAction
  earlyTarget := p.earlyTarget
  lateAction := stageActionOf p.lateAction
  lateTarget := p.lateTarget
  mark := p.mark == 1
  stimulus :=
    match p.stimAction with
    | 0 => none
    | 1 => some (true, fin4 p.stimGen)
    | _ => some (false, fin4 p.stimGen)

/-! ### SET LANE (R112) -/

/-- Protocol unit `i`. -/
def SetLaneP.par (p : SetLaneP) (i : Nat) : Nat := p.params.getD i 0

/-- The channels the kind reads are in range, and no two of them are equal. -/
def SetLaneP.channelsValid (p : SetLaneP) : Bool :=
  match p.kind with
  | 1 => inRange p.chA 0 31
  | 2 => inRange p.chA 0 31 && inRange p.chB 0 31 && p.chA != p.chB &&
      (p.chC == 255 || (inRange p.chC 0 31 && p.chC != p.chA && p.chC != p.chB))
  | 3 => inRange p.chA 0 31 && inRange p.chB 0 31 && p.chA != p.chB
  | 4 => inRange p.chA 0 31
  | _ => false

/-- The protocol parameters of the kind, each in its range. -/
def SetLaneP.paramsValid (p : SetLaneP) : Bool :=
  match p.kind with
  | 1 => inRange (p.par 0) 0 1 && inRange (p.par 1) 8 16777216 && inRange (p.par 2) 5 9 && inRange (p.par 3) 0 2 &&
      inRange (p.par 4) 1 2 && inRange (p.par 5) 1 255
  | 2 => inRange (p.par 0) 0 1 && inRange (p.par 1) 4 32 && inRange (p.par 2) 0 1 &&
      (p.chC == 255 || inRange (p.par 3) 0 1) && (p.chC != 255 || inRange (p.par 4) 1 16777216)
  | 3 => true
  | 4 => inRange (p.par 0) 0 1 && inRange (p.par 1) 2 16777216 && inRange (p.par 2) 1 (p.par 1 - 1) && inRange (p.par 3) 4 32 &&
      inRange (p.par 4) 1 16777216
  | _ => false

/-- The powers of two from 64 to 65,536. -/
def ringCapacities : List Nat := [64, 128, 256, 512, 1024, 2048, 4096, 8192, 16384, 32768, 65536]

/-- SET LANE (R112, step 1). With kind NONE only the lane number and the kind are read. -/
def SetLaneP.valid (p : SetLaneP) : Bool :=
  inRange p.lane 0 3 && inRange p.kind 0 4 &&
  (p.kind == 0 ||
    (inRange p.source 0 1 && p.channelsValid && p.paramsValid && inRange p.excMask 0 127 &&
     usableAddr p.ringAddr && ringCapacities.contains p.capacity && inRange p.startCount 0 max32 && decide (p.trip ≤ p.capacity)))

/-- The protocol of a valid SET LANE. -/
def SetLaneP.proto (p : SetLaneP) : Proto :=
  match p.kind with
  | 1 => .async (p.par 0 == 1) (p.par 1) (p.par 2) (match p.par 3 with | 0 => .none | 1 => .even | _ => .odd) (p.par 4) (p.par 5)
  | 2 => .clocked (p.par 0 == 1) (p.par 1) (p.par 2 == 1) (p.par 3 == 1) (p.par 4)
  | 3 => .twoWire
  | 4 => .pulse (p.par 0 == 1) (p.par 1) (p.par 2) (p.par 3) (p.par 4)
  | _ => .none

/-- The configuration of a valid SET LANE: source LIVE has code 0, channel C code 255 is NONE (spec/11). -/
def SetLaneP.config (p : SetLaneP) : LaneConfig where
  proto := p.proto
  live := p.source == 0
  chA := p.chA
  chB := p.chB
  chC := if p.kind == 2 && p.chC != 255 then some p.chC else none

/-- RESUME LANE (R136): its sets are checked with the lane number (R195). -/
def ResumeLaneP.valid (p : ResumeLaneP) : Bool := inRange p.lane 0 3 && inRange p.clear 0 127 && inRange p.excMask 0 127

/-- SET MATCH (R140, step 1). With enable NO only the slot and the enable code are read. -/
def SetMatchP.valid (p : SetMatchP) : Bool :=
  inRange p.slot 0 7 && inRange p.enable 0 1 &&
  (p.enable == 0 ||
    (inRange p.lane 0 3 && inRange p.index 0 7 && inRange p.mask 0 max32 && inRange p.reference 0 max32 && inRange p.mode 0 1))

/-- The slot of a valid SET MATCH with enable YES: STRICT has code 0. -/
def SetMatchP.slotOf (p : SetMatchP) : MatchSlot where
  enabled := true
  lane := fin4 p.lane
  index := p.index
  mask := BitVec.ofNat 32 p.mask
  reference := BitVec.ofNat 32 p.reference
  strict := p.mode == 0

/-- The largest tick. -/
def maxTick : Nat := 2 ^ 56 - 1

/-- REPLAY (R149, step 1): the capacity is read for search YES. -/
def ReplayP.valid (p : ReplayP) : Bool :=
  inRange p.takeId 1 255 && inRange p.rangeStart 0 maxTick && inRange p.rangeEnd p.rangeStart maxTick && inRange p.lanes 0 15 &&
  inRange p.search 0 1 && (p.search == 1 || p.lanes != 0) && (p.search == 0 || inRange p.capacity 0 64)

/-- EXPORT (R160, step 1). -/
def ExportP.valid (p : ExportP) : Bool :=
  inRange p.takeId 1 255 && inRange p.firstBlock 0 max32 && inRange p.count 1 4096 && usableAddr p.dest && decide (p.dest < 2 ^ 64) &&
  inRange p.capacity 8 (2 ^ 40) && p.capacity % 8 == 0

/-- A trace list unit (spec/11): bit 8 tells LANE from CHANNEL, bits 0..4 the number, bits 16..18 the slot, which a CHANNEL does not read. -/
def traceValid (u : Nat) : Bool :=
  field u 5 3 == 0 && field u 9 7 == 0 && above u 19 == 0 &&
  (field u 8 1 == 0 || inRange (field u 0 5) 0 3)

/-- The trace of a valid unit. -/
def traceOf (u : Nat) : TraceSel :=
  if field u 8 1 == 1 then .lane (fin4 (field u 0 5)) (field u 16 3) else .channel (field u 0 5)

/-- RENDER (R163, step 1). Source 0 is LIVE; table B is read for LIVE. -/
def RenderP.valid (p : RenderP) : Bool :=
  inRange p.source 0 255 && inRange p.winStart 0 maxTick && inRange p.width 1 max32 && inRange p.cols 16 1024 &&
  inRange p.traceCount 1 32 && p.traces.length ≥ p.traceCount && (p.traces.take p.traceCount).all traceValid &&
  decide (p.winStart + p.cols * p.width - 1 ≤ maxTick) && usableAddr p.tableA && decide (p.tableA < 2 ^ 64) &&
  (p.source != 0 || (usableAddr p.tableB && decide (p.tableB < 2 ^ 64) && p.tableB != p.tableA))

/-- The traces of a valid RENDER. -/
def RenderP.traceList (p : RenderP) : List TraceSel := (p.traces.take p.traceCount).map traceOf

/-- A band unit (spec/11): trace in byte 0, top row in bits 16..24, height in bits 32..38. -/
def bandOf (u : Nat) : Band := ⟨field u 0 8, field u 16 9, field u 32 7⟩

/-- A band within its ranges and on the panel (R172). -/
def bandValid (u : Nat) : Bool :=
  inRange (bandOf u).trace 0 31 && inRange (bandOf u).top 0 479 && inRange (bandOf u).height 4 64 &&
  decide ((bandOf u).top + (bandOf u).height ≤ 480) && field u 8 8 == 0 && field u 25 7 == 0 && above u 39 == 0

/-- SET PANEL (R173). -/
def SetPanelP.valid (p : SetPanelP) : Bool :=
  inRange p.enable 0 1 && usableAddr p.overlay && decide (p.overlay < 2 ^ 64) && inRange p.stride 1600 65536 && p.stride % 8 == 0 &&
  inRange p.origin 0 799 && inRange p.width 1 800 && decide (p.origin + p.width ≤ 800) &&
  inRange p.bandCount 0 32 && p.bands.length ≥ p.bandCount && (p.bands.take p.bandCount).all bandValid

/-- Four palette colours of a unit, lowest at the low end. -/
def coloursOf (u : Word64) : List (BitVec 16) :=
  [BitVec.ofNat 16 u.toNat, BitVec.ofNat 16 (above u.toNat 16), BitVec.ofNat 16 (above u.toNat 32), BitVec.ofNat 16 (above u.toNat 48)]

/-- The configuration of a valid SET PANEL. -/
def SetPanelP.config (p : SetPanelP) : PanelConfig where
  overlay := p.overlay
  stride := p.stride
  origin := p.origin
  width := p.width
  bands := (p.bands.take p.bandCount).map bandOf
  palette := coloursOf (p.palette.getD 0 0) ++ coloursOf (p.palette.getD 1 0)

end Sys2Proof
end

