-- ==== Sys2Proof/Machine/Flags.lean ====
section
/-! DEFINITION. Machine/Flags.lean: the flags and masks the manual computes from other state: unknown channels (R16), action level (R15),
open-fault pods (R17), trip flags (R48, R61, R130), idle (R28), exception bits (R132). -/

namespace Sys2Proof.Machine

/-! ## Pods -/

/-- The rank of an action, weakest 0 (R15). -/
def FaultAction.rank : FaultAction → Nat
  | .ignore => 0
  | .mark => 1
  | .markAndEnd => 2
  | .isolate => 3

/-- An action that makes its channels unknown by its mask (R16). -/
def FaultAction.masks (a : FaultAction) : Bool := a == .mark || a == .markAndEnd

/-- The mask a source adds to its pod's unknown channels (R16). -/
def SourceRec.unknown (r : SourceRec) : BitVec 8 := if r.active && r.action.masks then r.mask else 0

/-- The action level of one source: 0 for NONE, then IGNORE 1 to ISOLATE 4 (R15, spec/11, 11.6). -/
def SourceRec.level (r : SourceRec) : Nat := if r.active then r.action.rank + 1 else 0

/-- The pod's unknown channels (R16): every channel while the latch is set, else the masks of sources in force at MARK or MARK AND END. -/
def Pod.unknown (p : Pod) : BitVec 8 :=
  if p.latch then 0xFF
  else p.sources.overLimit.unknown ||| p.sources.under.unknown ||| p.sources.middle.unknown ||| p.sources.lost.unknown ||| p.sources.hot.unknown

/-- The pod's action level (R15). -/
def Pod.actionLevel (p : Pod) : Nat :=
  max (max (max p.sources.overLimit.level p.sources.under.level) (max p.sources.middle.level p.sources.lost.level)) p.sources.hot.level

/-- The pod has an open record or a set latch (R17, take end). -/
def Pod.openFault (p : Pod) : Bool := p.latch || p.sources.toList.any (fun r => r.openRec.isSome)

/-- Eight bits of one pod at their place among the 32 channels. -/
def atPod (p : Fin 4) (m : BitVec 8) : Chans := (BitVec.zeroExtend 32 m) <<< (8 * p.val)

/-- The eight channels of pod `p` in a 32-channel mask. -/
def podBits (p : Fin 4) (m : Chans) : BitVec 8 := BitVec.ofNat 8 (m.toNat / 2 ^ (8 * p.val))

/-- Pod `p` has a channel in the mask. -/
def podIn (p : Fin 4) (m : Chans) : Bool := podBits p m != 0

/-- Four flags as a mask. -/
def maskOf4 (f : Fin 4 → Bool) : BitVec 4 :=
  BitVec.ofNat 4 (bnat (f 0) + 2 * bnat (f 1) + 4 * bnat (f 2) + 8 * bnat (f 3))

/-- The union of the pods' unknown channels (R16), the sampler's unknown mask (R38). -/
def State.podsUnknown (s : State) : Chans :=
  atPod 0 s.pods.n0.unknown ||| atPod 1 s.pods.n1.unknown ||| atPod 2 s.pods.n2.unknown ||| atPod 3 s.pods.n3.unknown

/-- The channels unknown in the present interval: the pods' unknown channels, and every unlisted channel (R39). -/
def State.unknownNow (s : State) : Chans := s.podsUnknown ||| ~~~s.sampler.channels

/-- The mask of pods with a fault still open (R17). -/
def State.openFaultPods (s : State) : BitVec 4 := maskOf4 (fun p => (s.pods.get p).openFault)

/-- The mask of pods whose latch is set. -/
def State.latchedPods (s : State) : BitVec 4 := maskOf4 (fun p => (s.pods.get p).latch)

/-- A pod's channels present their comparator levels (R39): WARMING, ON or WATCH, and the latch clear. -/
def Pod.presents (p : Pod) : Bool := p.power != .off && !p.latch

/-- The presented levels of the comparator levels `c` (R6, R19, R39). -/
def State.presented (s : State) (c : Chans) : Chans :=
  c &&& (atPod 0 (if s.pods.n0.presents then 0xFF else 0) ||| atPod 1 (if s.pods.n1.presents then 0xFF else 0) |||
    atPod 2 (if s.pods.n2.presents then 0xFF else 0) ||| atPod 3 (if s.pods.n3.presents then 0xFF else 0))

/-- Every pod with a channel in the mask satisfies `f`. -/
def State.podsOf (s : State) (m : Chans) (f : Pod → Bool) : Bool :=
  fourOrder.all (fun p => !podIn p m || f (s.pods.get p))

/-- Some pod with a channel in the mask satisfies `f`. -/
def State.somePodOf (s : State) (m : Chans) (f : Pod → Bool) : Bool :=
  fourOrder.any (fun p => podIn p m && f (s.pods.get p))

/-! ## Trips -/

/-- The staging trip after a drain, a discard or a write of the level: armed again at the level or below (R48). -/
def Staging.rearm (f : Staging) : Staging := { f with tripArmed := f.tripArmed || decide (f.fill ≤ f.tripLevel) }

/-- The pool trip after the free count rose: armed again at the level or above (R61). -/
def Pool.rearm (p : Pool) : Pool := { p with tripArmed := p.tripArmed || decide (p.tripLevel ≤ p.freeCount) }

/-- The fill of a lane ring, modulo 2^32 (R127). -/
def Lane.fill (l : Lane) : Nat := (l.written - l.returned).toNat

/-- The free units of a lane ring (R127). -/
def Lane.freeUnits (l : Lane) : Nat := l.capacity - l.fill

/-! ## Lanes -/

/-- The bit of an exception (spec/11). -/
def Exc.index : Exc → Nat
  | .framing => 0
  | .parity => 1
  | .longFrame => 2
  | .emptyFrame => 3
  | .unordered => 4
  | .ringFull => 5
  | .signalFault => 6

/-- The mask of one exception. -/
def Exc.bits (x : Exc) : BitVec 7 := bit 7 x.index

/-- A lane at work: ATTACHED, REPLAYING or HELD (R140). -/
def Lane.atWork (l : Lane) : Bool := l.state == .attached || l.state == .replaying || l.state == .held

/-- A lane whose work is a replay: REPLAYING, or HELD from one. -/
def Lane.inReplay (l : Lane) : Bool := l.state == .replaying || (l.state == .held && l.heldReplay)

/-- The channels a lane's kind reads (SET LANE). -/
def LaneConfig.channels (c : LaneConfig) : List Nat :=
  match c.proto with
  | .none => []
  | .async .. => [c.chA]
  | .pulse .. => [c.chA]
  | .twoWire => [c.chA, c.chB]
  | .clocked .. => c.chA :: c.chB :: (match c.chC with | none => [] | some n => [n])

/-- The lane's channels are all in the mask. -/
def LaneConfig.within (c : LaneConfig) (m : Chans) : Bool := c.channels.all (fun n => m.getLsbD n)

/-- One of the lane's channels is in the mask. -/
def LaneConfig.touches (c : LaneConfig) (m : Chans) : Bool := c.channels.any (fun n => m.getLsbD n)

end Sys2Proof.Machine
end

