-- ==== Sys2Proof/Machine/Generators.lean ====
section
/-! DEFINITION. Machine/Generators.lean: the four stimulus generators (spec/02): their waveform, staging, chaining, silencing and orders.
A chained pair acts as one generator, held by its odd member; the even member's state mirrors it (R31). -/

namespace Sys2Proof.Machine

/-! ## Pairs (R31) -/

/-- The even member of the pair that holds `g`. -/
def evenOf (g : Fin 4) : Fin 4 :=
  match g with
  | 0 => 0
  | 1 => 0
  | 2 => 2
  | 3 => 2

/-- The odd member of the pair that holds `g`. -/
def oddOf (g : Fin 4) : Fin 4 :=
  match g with
  | 0 => 1
  | 1 => 1
  | 2 => 3
  | 3 => 3

/-- The chained flag of the pair that holds `g`. -/
def State.chained (s : State) (g : Fin 4) : Bool :=
  match g with
  | 0 => s.chain01
  | 1 => s.chain01
  | 2 => s.chain23
  | 3 => s.chain23

/-- The generator that controls `g`: the odd member of a chained pair, else `g` itself. -/
def State.control (s : State) (g : Fin 4) : Fin 4 := if s.chained g then oddOf g else g

/-- The pods whose connectors the unit of `u` depends on (R32, R33). -/
def State.unitPods (s : State) (u : Fin 4) : List (Fin 4) := if s.chained u then [evenOf u, oddOf u] else [u]

/-- The applied settings the unit of `u` follows: for a pair, the odd member's with period and duty joined to 32 bits. -/
def State.genApplied (s : State) (u : Fin 4) : GenSettings :=
  { (s.gens.get u).applied with
    period :=
      if s.chained u then (s.gens.get (evenOf u)).applied.period * 65536 + (s.gens.get u).applied.period
      else (s.gens.get u).applied.period
    duty :=
      if s.chained u then (s.gens.get (evenOf u)).applied.duty * 65536 + (s.gens.get u).applied.duty
      else (s.gens.get u).applied.duty }

/-- A RUNNING unit with applied period 0 is idle (R28). -/
def State.genIdle (s : State) (u : Fin 4) : Bool := (s.gens.get u).state == .running && (s.genApplied u).period == 0

/-! ## The waveform (R25 to R28) -/

/-- The output is active at a counter value under the applied settings. -/
def GenSettings.activeAt (a : GenSettings) (counter : Nat) : Bool :=
  if a.period = 0 then false
  else match a.alignment with
    | .edge => decide (counter < a.duty)
    | .centre => decide (a.period - a.duty ≤ counter)

/-- The generator with its output set; the carrier phase restarts when the output becomes active (R27). -/
def Gen.withOutput (g : Gen) (active : Bool) (now : Nat) : Gen :=
  { g with output := active, activeSince := if active && !g.output then now else g.activeSince }

/-- The ticks at the active level in each carrier period: C/n rounded down, never less than 1 (R27). -/
def carrierOn (c : Carrier) (period : Nat) : Nat :=
  match c with
  | .none => period
  | .half => max 1 (period / 2)
  | .third => max 1 (period / 3)
  | .quarter => max 1 (period / 4)

/-- The carrier wave is at the active level, at a tick of the count over the wraps, so that the wave runs unbroken however long the output is active (R27).
DESIGN CHOICE (notes/assumptions/29.md): a carrier or carrier period that changes while the output stays active, from NONE too, takes the phase that all
ticks since the output became active give in the new period. -/
def carrierActive (a : GenSettings) (since now : Nat) : Bool :=
  match a.carrier with
  | .none => true
  | c => decide ((now - since) % a.carrierPeriod < carrierOn c a.carrierPeriod)

/-- The level of connector `g`, true for high (R24, R27, R31). -/
def State.connectorHigh (s : State) (g : Fin 4) : Bool :=
  if s.chained g && g == evenOf g then (s.gens.get g).applied.activeLow
  else
    ((s.gens.get g).output && carrierActive (s.gens.get g).applied (s.gens.get g).activeSince s.longTick) !=
      (s.gens.get g).applied.activeLow

/-! ## State changes of a unit -/

/-- A pending staged set is copied into the applied set (R30). -/
def Gen.applyPending (g : Gen) : Gen :=
  { g with applied := if g.stagedPending then g.staged else g.applied, stagedPending := false }

/-- The pending sets of a unit's members are applied together (R30, R31). -/
def State.unitApply (s : State) (u : Fin 4) : State :=
  { s with gens :=
      if s.chained u then
        (s.gens.set (evenOf u) (s.gens.get (evenOf u)).applyPending).set (oddOf u) (s.gens.get (oddOf u)).applyPending
      else s.gens.set u (s.gens.get u).applyPending }

/-- The controlling generator replaced, and the even member of a pair mirroring its state. -/
def State.setUnit (s : State) (u : Fin 4) (g : Gen) : State :=
  { s with gens :=
      if s.chained u then (s.gens.set (evenOf u) { s.gens.get (evenOf u) with state := g.state }).set u g
      else s.gens.set u g }

/-- The unit's first period begins now: counter 0, direction UP, unit phase now (R28, R35). -/
def State.beginPhase (s : State) (u : Fin 4) : State :=
  s.setUnit u
    (Gen.withOutput { s.gens.get u with counter := 0, down := false, unitStart := s.tick } ((s.genApplied u).activeAt 0) s.longTick)

/-- The unit enters RUNNING from its start: periods done 0 (R29, R35 steps 6 and 7). -/
def State.startUnit (s : State) (u : Fin 4) : State :=
  (s.setUnit u { s.gens.get u with state := .running, periodsDone := 0 }).beginPhase u

/-- The unit enters STOPPED with its output inactive and pending sets applied (R30, R35). -/
def State.stopUnit (s : State) (u : Fin 4) : State :=
  (s.unitApply u).setUnit u { (s.unitApply u).gens.get u with state := .stopped, output := false }

/-- The unit enters SILENCED from any state (R33). -/
def State.silenceUnit (s : State) (u : Fin 4) : State :=
  (s.unitApply u).setUnit u
    { (s.unitApply u).gens.get u with state := .silenced, output := false, counter := 0, down := false, periodsDone := 0 }

/-- Pod `p` enters OFF: a RUNNING unit on its connector enters STOPPED (R32). -/
def State.podOffStops (s : State) (p : Fin 4) : State :=
  if (s.gens.get (s.control p)).state = .running then s.stopUnit (s.control p) else s

/-- The latch of pod `p` sets: the unit on its connector is silenced (R33). -/
def State.podSilences (s : State) (p : Fin 4) : State := s.silenceUnit (s.control p)

/-! ## Units and periods -/

/-- The tick at which the unit's present time unit ends. -/
def State.unitBoundary (s : State) (u : Fin 4) : Tick := tickAdd (s.gens.get u).unitStart (2 ^ (s.genApplied u).unitExp)

/-- The present time unit is the last of its period (R25, R26). -/
def State.lastUnit (s : State) (u : Fin 4) : Bool :=
  match (s.genApplied u).alignment with
  | .edge => decide ((s.genApplied u).period ≤ (s.gens.get u).counter + 1)
  | .centre => (s.gens.get u).down && (s.gens.get u).counter == 0

/-- The end of a time unit of `u` is due: `u` controls itself, is RUNNING and not idle, and its unit has run out. -/
def State.unitDue (s : State) (u : Fin 4) : Bool :=
  s.control u == u && (s.gens.get u).state == .running && !s.genIdle u && atOrBefore (s.unitBoundary u) s.tick

/-- The counter moves on within a period; in CENTRE alignment it turns at the top (R25, R26). -/
def State.unitAdvance (s : State) (u : Fin 4) : State :=
  let g := s.gens.get u
  let a := s.genApplied u
  let turns := a.alignment == .centre && !g.down && decide (a.period ≤ g.counter + 1)
  let counter := if turns then g.counter else if g.down then g.counter - 1 else g.counter + 1
  s.setUnit u
    (Gen.withOutput { g with counter := counter, down := g.down || turns, unitStart := s.unitBoundary u } (a.activeAt counter)
      (s.longOf (s.unitBoundary u)))

/-- The new period begins at the boundary `at_` under the applied settings (R29). -/
def State.nextPeriod (s : State) (u : Fin 4) (at_ : Tick) : State :=
  s.setUnit u
    (Gen.withOutput { s.gens.get u with counter := 0, down := false, unitStart := at_ } ((s.genApplied u).activeAt 0) (s.longOf at_))

/-- A period end (R29): periods done, then the pending set, then the burst check, else the next period. -/
def State.unitPeriodEnd (s : State) (u : Fin 4) : State :=
  let at_ := s.unitBoundary u
  let s1 := s.setUnit u { s.gens.get u with periodsDone := satSucc (s.gens.get u).periodsDone 65535 }
  let s2 := s1.unitApply u
  let s3 := s2.nextPeriod u at_
  if (s2.genApplied u).burst ≠ 0 ∧ (s2.genApplied u).burst ≤ (s2.gens.get u).periodsDone then
    s3.setUnit u { s3.gens.get u with state := .stopped, output := false }
  else s3

/-! ## SET STIMULUS and RUN STIMULUS -/

/-- The pair's chained flag set to `b`; a change leaves both counters and periods done 0 (R31, R34). R31 names no direction there: the model sets both
to UP (DESIGN CHOICE, notes/assumptions/29.md). -/
def State.setChained (s : State) (g : Fin 4) (b : Bool) : State :=
  if s.chained g = b then s
  else
    { s with
      chain01 := if g.val < 2 then b else s.chain01
      chain23 := if g.val < 2 then s.chain23 else b
      gens :=
        (s.gens.set (evenOf g) { s.gens.get (evenOf g) with counter := 0, down := false, periodsDone := 0 }).set (oddOf g)
          { s.gens.get (oddOf g) with counter := 0, down := false, periodsDone := 0 } }

/-- Settings written to generator `g` (R30): staged while its unit is RUNNING and not idle, else applied at once; a nonzero period
wakes an idle unit as if it had just started (R28). R28 lists counter, direction and unit phase there: the model keeps periods done (DESIGN CHOICE,
notes/assumptions/29.md). -/
def State.writeSettings (s : State) (g : Fin 4) (a : GenSettings) : State :=
  let u := s.control g
  if (s.gens.get u).state = .running ∧ s.genIdle u = false then
    { s with gens := s.gens.set g { s.gens.get g with staged := a, stagedPending := true } }
  else
    let s1 : State := { s with gens := s.gens.set g { s.gens.get g with staged := a, applied := a, stagedPending := false } }
    if (s1.gens.get u).state = .running ∧ s1.genIdle u = false then s1.beginPhase u else s1

/-- The pair of `g` has a generator RUNNING or SILENCED. -/
def State.pairBusy (s : State) (g : Fin 4) : Bool :=
  (s.gens.get (evenOf g)).state != .stopped || (s.gens.get (oddOf g)).state != .stopped

/-- SET STIMULUS (R34). -/
def setStimulusOrder (p : SetStimulusP) (s : State) : Reply :=
  if !p.valid then refuse s .badField
  else if p.chaining != 0 && s.pairBusy (fin4 p.generator) then refuse s .busy
  else
    let s1 := if p.chaining = 0 then s else s.setChained (fin4 p.generator) (p.chaining == 1)
    accept (if p.write = 1 then s1.writeSettings (fin4 p.generator) p.settings else s1)

/-- What RUN STIMULUS and the sequencer ask of a generator. -/
inductive StimAction where
  | start
  | stop
  | restart
deriving DecidableEq, Repr

/-- START, STOP or RESTART of generator `g` (R35, steps 2 to 7): the state and the outcome. -/
def State.stimulate (s : State) (g : Fin 4) (act : StimAction) : State × Outcome :=
  if s.chained g && g == evenOf g then (s, .wrongState)
  else match act with
    | .stop => (if (s.gens.get g).state = .running then s.stopUnit g else s, .ok)
    | .start =>
      if (s.unitPods g).any (fun p => (s.pods.get p).power == .off) then (s, .podOff)
      else match (s.gens.get g).state with
        | .running => (s, .ok)
        | .stopped => (s.startUnit g, .ok)
        | .silenced => if (s.unitPods g).any (fun p => (s.pods.get p).latch) then (s, .wrongState) else (s.startUnit g, .ok)
    | .restart =>
      if (s.unitPods g).any (fun p => (s.pods.get p).power == .off) then (s, .podOff)
      else match (s.gens.get g).state with
        | .silenced => (s, .wrongState)
        | .running => ((s.unitApply g).startUnit g, .ok)
        | .stopped => ((s.unitApply g).startUnit g, .ok)

/-- The action codes of RUN STIMULUS. -/
def stimActionOf (code : Nat) : StimAction :=
  match code with
  | 0 => .start
  | 1 => .stop
  | _ => .restart

/-- RUN STIMULUS (R35). -/
def runStimulusOrder (p : RunStimulusP) (s : State) : Reply :=
  if !p.valid then refuse s .badField
  else ⟨(s.stimulate (fin4 p.generator) (stimActionOf p.action)).1, some (s.stimulate (fin4 p.generator) (stimActionOf p.action)).2, []⟩

/-- A stage's stimulus action in a capture run (R36): what RUN STIMULUS would refuse has no effect. -/
def State.stageStimulus (s : State) (a : Option (Bool × Fin 4)) : State :=
  match a with
  | none => s
  | some (isStart, g) => (s.stimulate g (if isStart then .start else .stop)).1

end Sys2Proof.Machine
end

