-- ==== Sys2Proof/Machine/Staging.lean ====
section
/-! DEFINITION. Machine/Staging.lean: the staging FIFO (spec/03, 3.2 and 3.3): deltas, admission and loss, the fault restatement, recovery from
overflow, and the capture record layout of spec/11. -/

namespace Sys2Proof.Machine

/-! ## Records as units (spec/11, 11.3) -/

/-- The code of a source. -/
def sourceCode : FaultSource → Nat
  | .overLimit => 0
  | .under => 1
  | .middle => 2
  | .lost => 3
  | .hot => 4

/-- The code of a relation. -/
def Relation.code : Relation → Nat
  | .less => 0
  | .greater => 1
  | .equal => 2
  | .unordered => 3

/-- The bound-slot mask of eight relation positions, slot i at bit i. -/
def boundMask : List (Option Relation) → Nat
  | [] => 0
  | r :: rest => bnat r.isSome + 2 * boundMask rest

/-- Two bits a slot, slot 0 lowest; a position outside the mask is 0 (R145). -/
def relationBits : List (Option Relation) → Nat
  | [] => 0
  | r :: rest => (match r with | none => 0 | some x => x.code) + 4 * relationBits rest

/-- The kind code of a record (bits 60..63). -/
def RecBody.code : RecBody → Nat
  | .anchor .. => 0
  | .change .. => 1
  | .gap .. => 2
  | .fault .. => 3
  | .mark .. => 4
  | .frameOpen .. => 5
  | .frameClose .. => 6
  | .watch => 7
  | .wake .. => 8

/-- The content of a record: bits 0..55 for an ANCHOR, from bit 28 on for every other kind. -/
def RecBody.content : RecBody → Nat
  | .anchor t => t.toNat
  | .change l => place l.toNat 28
  | .gap lost isWake trig pods => place (lost % 2 ^ 24) 28 + place (bnat isWake) 52 + place (bnat trig) 53 + place pods.toNat 54
  | .fault p src begins act m =>
    place p.val 28 + place (sourceCode src) 30 + place (bnat begins) 33 + place act.rank 34 + place m.toNat 36
  | .mark stage staged => place (stage % 16) 28 + place (bnat staged) 32
  | .frameOpen k => place k.val 28
  | .frameClose k err spl int emp rels =>
    place k.val 28 + place (bnat err) 30 + place (bnat spl) 31 + place (bnat int) 32 + place (bnat emp) 33 +
      place (boundMask rels) 34 + place (relationBits rels) 42
  | .watch => 0
  | .wake l => place l.toNat 28

/-- A capture record as an export delivers it. -/
def CapRec.unit (r : CapRec) : Word64 := BitVec.ofNat 64 (r.delta % 2 ^ 28 + r.body.content + place r.body.code 60)

/-! ## Admission (R41, R45, R48) -/

/-- An ANCHOR, which has no delta. -/
def RecBody.isAnchor : RecBody → Bool
  | .anchor _ => true
  | _ => false

/-- A MARK with reason FIRE. -/
def RecBody.isFire : RecBody → Bool
  | .mark _ staged => !staged
  | _ => false

/-- The pod of a FAULT record, as a mask. -/
def RecBody.faultPod : RecBody → BitVec 4
  | .fault p .. => bit 4 p.val
  | _ => 0

/-- The time a record is given: the time of its interval, and never before the stream time (R41, R42). Neither lies after the present interval, so the
later of the two is the one fewer ticks behind it. -/
def State.recordTime (s : State) (t : Tick) : Tick :=
  if ticksFrom t s.intervalTime ≤ ticksFrom s.sampler.streamTime s.intervalTime then t else s.sampler.streamTime

/-- The delta of a record of time `t` (R41). -/
def State.deltaAt (s : State) (t : Tick) : Nat := ticksFrom s.sampler.streamTime t / 2 ^ s.sampler.intervalExp

/-- The record needs an ANCHOR before it (R41). -/
def State.needsAnchor (s : State) (t : Tick) (b : RecBody) : Bool := !b.isAnchor && decide (Config.maxDelta < s.deltaAt t)

/-- The entries an admission appends. -/
def State.admitted (s : State) (id : Nat) (t : Tick) (b : RecBody) : List Staged :=
  if s.needsAnchor t b then [⟨⟨0, .anchor t⟩, t, id⟩, ⟨⟨0, b⟩, t, id⟩]
  else [⟨⟨if b.isAnchor then 0 else s.deltaAt t, b⟩, t, id⟩]

/-- A record offered to staging is admitted (R45): NORMAL, and room for what it appends. -/
def State.admits (s : State) (t : Tick) (b : RecBody) : Bool :=
  !s.staging.overflow && decide (s.staging.fill + (if s.needsAnchor t b then 2 else 1) ≤ Config.stagingSize)

/-- The FIFO after an admission. The STAGING trip is taken when the fill passes its level (R48). -/
def State.stagingAdmitting (s : State) (id : Nat) (t : Tick) (b : RecBody) : Staging :=
  let records := s.staging.records ++ s.admitted id t b
  { s.staging with
    records := records
    tripArmed := s.staging.tripArmed && decide (records.length ≤ s.staging.tripLevel) }

/-- The FIFO after a discard (R45): OVERFLOW with its count, its trigger and its pods. -/
def Staging.discarding (f : Staging) (b : RecBody) : Staging :=
  { f with
    overflow := true
    lost := satSucc f.lost max32
    triggerInLoss := f.triggerInLoss || b.isFire
    changedPods := f.changedPods ||| b.faultPod }

/-- A record of time `t` for take entry `i` is offered to staging (R45). The page is handed the fill or the lost records as R56 gives. -/
def State.offer (s : State) (i : Nat) (t0 : Tick) (b : RecBody) : State :=
  let t := s.recordTime t0
  let b := if b.isAnchor then .anchor t else b
  let ok := s.admits t b
  let lost := satSucc (s.takeAt i).lost max32
  let f := if ok then s.stagingAdmitting (s.takeAt i).id t b else s.staging.discarding b
  { s with
    staging := f
    sampler := { s.sampler with streamTime := if ok then t else s.sampler.streamTime }
    takes := { s.takes with
      entries := if ok then s.takes.entries else putAt s.takes.entries i { s.takeAt i with lost := lost } }
    alerts := s.alerts.raiseIf (ok && s.staging.tripArmed && !f.tripArmed) .staging
    report := if ok then s.report.handFill s.staging.fill f.fill else if lost % 256 == 0 then s.report.handLost lost else s.report }

/-- A source inserts a record, which it may only while a take is in PRETRIG or POSTTRIG and not ending (R42). -/
def State.insert (s : State) (t : Tick) (b : RecBody) : State :=
  match s.recordingIndex with
  | none => s
  | some i => s.offer i t b

/-! ## Fault records and the restatement (R17, R47) -/

/-- The pod with one source record replaced. -/
def State.setSource (s : State) (p : Fin 4) (src : FaultSource) (r : SourceRec) : State :=
  { s with pods := s.pods.set p { s.pods.get p with sources := (s.pods.get p).sources.set src r } }

/-- What a FAULT begin carries: the action in force and the mask, all eight channels for ISOLATE (R17). -/
def SourceRec.begins (r : SourceRec) : FaultAction × BitVec 8 := (r.action, if r.action = .isolate then 0xFF else r.mask)

/-- What the entry to PRETRIG restates of a source (R17): ISOLATE and all eight channels if it holds the set latch, else its action in force and mask
if it is active at MARK or above. -/
def SourceRec.entryFault (r : SourceRec) (latch : Bool) : Option (FaultAction × BitVec 8) :=
  if r.holdsLatch && latch then some (.isolate, 0xFF) else if r.active && r.action != .ignore then some r.begins else none

/-- What the restatement after a GAP says of a source (R47): its action in force and mask if it is active at MARK or above, else ISOLATE and all eight
channels if its ISOLATE record is open and the latch is still set. -/
def SourceRec.gapFault (r : SourceRec) (latch : Bool) : Option (FaultAction × BitVec 8) :=
  if r.active && r.action != .ignore then some r.begins else if r.openRec == some .isolate && latch then some (.isolate, 0xFF) else none

/-- A FAULT begin of source `src` of pod `p` with action and mask `what`; the record open in the take is then this one. Nothing while no take is
sampling (R17). -/
def State.faultBegin (s : State) (t : Tick) (p : Fin 4) (src : FaultSource) (what : FaultAction × BitVec 8) : State :=
  match s.recordingIndex with
  | none => s
  | some i => (s.setSource p src { (s.pods.get p).sources.get src with openRec := some what.1 }).offer i t (.fault p src true what.1 what.2)

/-- A FAULT end of source `src` with `act` and mask `m`; its record is then closed. -/
def State.faultEnd (s : State) (t : Tick) (p : Fin 4) (src : FaultSource) (act : FaultAction) (m : BitVec 8) : State :=
  match s.recordingIndex with
  | none => s
  | some i =>
    (s.setSource p src { (s.pods.get p).sources.get src with openRec := none }).offer i t (.fault p src false act m)

/-- A source of a restatement: `what` gives what is said of it, if anything. -/
def State.restateSource (what : SourceRec → Bool → Option (FaultAction × BitVec 8)) (t : Tick) (p : Fin 4) (s : State) (src : FaultSource) : State :=
  match what ((s.pods.get p).sources.get src) (s.pods.get p).latch with
  | none => s
  | some w => s.faultBegin t p src w

/-- One pod of a restatement, sources in the order OVER, UNDER, MIDDLE, LOST, HOT. -/
def State.restatePod (s : State) (what : SourceRec → Bool → Option (FaultAction × BitVec 8)) (t : Tick) (p : Fin 4) : State :=
  FaultSource.order.foldl (State.restateSource what t p) s

/-- The fault restatement, pod by pod: `SourceRec.entryFault` at entry to PRETRIG (R17), `SourceRec.gapFault` after a GAP (R47). R47 gives the order;
that R17's restatement has the same one is the model's choice (notes/assumptions/21.md). -/
def State.restateFaults (s : State) (what : SourceRec → Bool → Option (FaultAction × BitVec 8)) (t : Tick) : State :=
  fourOrder.foldl (fun s p => s.restatePod what t p) s

/-! ## Recovery (R46) -/

/-- The GAP that ends an overflow. -/
def Staging.gapBody (f : Staging) : RecBody := .gap (min f.lost (2 ^ 24 - 1)) false f.triggerInLoss f.changedPods

/-- The FIFO back in NORMAL with its overflow state cleared. -/
def Staging.normal (f : Staging) : Staging := { f with overflow := false, lost := 0, triggerInLoss := false, changedPods := 0 }

/-- The trigger position with its in-gap flag set (R46, R74). -/
def Take.triggerInGap (t : Take) : Take := { t with trigger := t.trigger.map (fun p => { p with inGap := true }) }

/-- One more GAP in the take's gap count (R46, R54). -/
def State.countGap (s : State) (i : Nat) : State := s.setTake i { s.takeAt i with gaps := satSucc (s.takeAt i).gaps 65535 }

/-- Recovery from OVERFLOW for take entry `i` at time `t`: GAP, ANCHOR, restatement, and the next interval restates the levels. -/
def State.recover (s : State) (i : Nat) (t : Tick) : State :=
  let gap := s.staging.gapBody
  let s1 : State := { s with staging := s.staging.normal }
  let s2 := ((s1.offer i t gap).offer i t (.anchor t)).restateFaults SourceRec.gapFault t
  let s2b := if s.staging.triggerInLoss then s2.setTake i (s2.takeAt i).triggerInGap else s2
  let s3 := s2b.countGap i
  { s3 with
    sampler := { s3.sampler with restateDue := true }
    report := s3.report.handLost (s3.takeAt i).lost }

end Sys2Proof.Machine
end

