-- ==== Sys2Proof/Machine/Pool.lean ====
section
/-! DEFINITION. Machine/Pool.lean: the block pool (spec/04, 4.1 to 4.3): acquisition, seal, drop, holds, the freeing of a releasing take, and the port's arbiter. -/

namespace Sys2Proof.Machine

/-! ## Blocks and the free list -/

/-- The pool with block `i` FREE again at the tail of the free list (R58, R61). -/
def Pool.freeBlock (p : Pool) (i : Nat) : Pool :=
  Pool.rearm { p with blocks := p.blocks.filter (fun e => e.1 != i), free := p.free ++ [i] }

/-- A pod's staged comparator set is applied if it is pending (R8, R9). -/
def Pod.applyStaged (p : Pod) : Pod :=
  if p.stagedPending then { p with applied := p.staged, stagedPending := false, generation := p.generation + 1 } else p

/-- Every pending comparator set is applied (R9). -/
def State.applyStagedSets (s : State) : State := { s with pods := s.pods.map Pod.applyStaged }

/-- The entry of a block acquired for a take (R59). -/
def acquiredBlock (t : Take) (pods : Four Pod) : Block where
  sealedIn := false
  takeId := t.id
  seqNo := t.acquired
  firstTick := 0
  lastTick := 0
  generations := pods.map (fun p => p.generation)
  holdCount := 0
  revocable := false
  records := []

/-- Block `b` at the head of the free list becomes the filling block of take entry `i`, after pending comparator sets are applied (R59, R61), and the page is
handed the free count (R58). The blocks acquired, and the sequence numbers given from them, run modulo 2^32: the model's choice (R66, notes/assumptions/36.md). -/
def State.acquireBlock (s : State) (i b : Nat) (rest : List Nat) : State :=
  let pods := s.pods.map Pod.applyStaged
  let trips := s.pool.tripArmed && decide (rest.length < s.pool.tripLevel)
  { s with
    pods := pods
    pool := { s.pool with
      blocks := s.pool.blocks ++ [(b, acquiredBlock (s.takeAt i) pods)]
      free := rest
      tripArmed := s.pool.tripArmed && !trips }
    writer := { s.writer with filling := some b }
    takes := { s.takes with
      entries := putAt s.takes.entries i { s.takeAt i with acquired := ((s.takeAt i).acquired + 1) % 2 ^ 32 } }
    alerts := s.alerts.raiseIf trips .pool
    report := s.report.handing [unitFree] }

/-- The pool acquires a filling block for take entry `i`. It is asked only while the free list holds a block. -/
def State.acquire (s : State) (i : Nat) : State :=
  match s.pool.free with
  | [] => s
  | b :: rest => s.acquireBlock i b rest

/-- The filling block `b` is sealed into the sequence of take entry `i`, the capturing take's, and the page is handed the sealed count (R60, R84). -/
def State.sealBlock (s : State) (i b : Nat) : State :=
  { s with
    pool := match s.pool.block b with
      | none => s.pool
      | some e => s.pool.setBlock b { e with sealedIn := true }
    writer := { s.writer with filling := none }
    takes := { s.takes with
      entries := putAt s.takes.entries i { s.takeAt i with sealedCount := (s.takeAt i).sealedCount + 1 } }
    report := s.report.handing [unitCapture] }

/-- The front block of the sealed sequence of take entry `i`, as an index. -/
def State.frontBlock (s : State) (i : Nat) : Option Nat :=
  if (s.takeAt i).sealedCount = 0 then none else s.pool.find (s.takeAt i).id (s.takeAt i).firstSeq

/-- The take entry without its front block. The first block sequence number runs modulo 2^32: the model's choice (R66, notes/assumptions/36.md). -/
def Take.withoutFront (t : Take) : Take :=
  { t with firstSeq := (t.firstSeq + 1) % 2 ^ 32, sealedCount := t.sealedCount - 1 }

/-- The units a freed front block changes: the free count, and the sealed count if the take is the one the page shows (R58, R84). -/
def State.freedUnits (s : State) (i : Nat) : List Nat := if (s.takeAt i).id = s.takes.shown then [unitCapture, unitFree] else [unitFree]

/-- The front block `b` of take entry `i` returns to the tail of the free list (R71, R83), and the page is handed the counts. -/
def State.freeFront (s : State) (i b : Nat) : State :=
  { s with
    pool := s.pool.freeBlock b
    takes := { s.takes with entries := putAt s.takes.entries i (s.takeAt i).withoutFront }
    report := s.report.handing (s.freedUnits i) }

/-- The empty filling block `b` of an ended take returns to the free list (R60), and the page is handed the free count (R58). -/
def State.freeFilling (s : State) (b : Nat) : State :=
  { s with pool := s.pool.freeBlock b, writer := { s.writer with filling := none }, report := s.report.handing [unitFree] }

/-! ## Holds (R62, R63) -/

/-- The take with an id is RELEASING. -/
def State.releasing (s : State) (id : Nat) : Bool :=
  match s.takeIndex id with
  | none => false
  | some i => (s.takeAt i).state == .releasing

/-- The block of take `id` with sequence number `seq` on which a hold can be placed (R62). -/
def State.holdable (s : State) (id seq : Nat) : Option Nat :=
  match s.pool.find id seq, s.pool.blockOf id seq with
  | some i, some b => if b.sealedIn && !s.releasing id then some i else none
  | _, _ => none

/-- A hold more on a block. -/
def Block.held (b : Block) (revocable : Bool) : Block :=
  { b with holdCount := b.holdCount + 1, revocable := b.revocable || revocable }

/-- A hold less on a block; the renderer's takes the revocable flag with it. -/
def Block.unheld (b : Block) (renderer : Bool) : Block :=
  { b with holdCount := b.holdCount - 1, revocable := b.revocable && !renderer }

/-- A hold is placed on block `i`. -/
def State.placeHold (s : State) (i : Nat) (revocable : Bool) : State :=
  { s with pool := match s.pool.block i with
      | none => s.pool
      | some b => s.pool.setBlock i (b.held revocable) }

/-- A reader's hold on block `i` drops. -/
def State.dropHold (s : State) (i : Nat) (renderer : Bool) : State :=
  { s with pool := match s.pool.block i with
      | none => s.pool
      | some b => s.pool.setBlock i (b.unheld renderer) }

/-- A hold drops, if there is one. -/
def State.dropHoldOpt (s : State) (h : Option Nat) (renderer : Bool) : State :=
  match h with
  | none => s
  | some i => s.dropHold i renderer

/-- The client of a reader. -/
def Reader.client : Reader → Client
  | .replay => .replay
  | .exporter => .exporter
  | .renderer => .renderer

/-- A reader's access is in flight. -/
def State.accessInFlight (s : State) (c : Client) : Bool :=
  match s.pool.inFlight with
  | none => false
  | some g => g.client == c && !g.stale

/-- An access of a client that has lost its right is in flight. -/
def State.staleAccess (s : State) (c : Client) : Bool :=
  match s.pool.inFlight with
  | none => false
  | some g => g.client == c && g.stale

/-- A reader loses its right to block `h`: its hold drops now, or when its access in flight completes (R65). -/
def State.endRight (s : State) (c : Client) (h : Option Nat) : State :=
  if s.accessInFlight c then
    { s with pool := { s.pool with inFlight := s.pool.inFlight.map (fun g => { g with stale := true, drops := h }) } }
  else s.dropHoldOpt h (c == .renderer)

/-! ## Releasing (R83) -/

/-- The front block of a RELEASING take that no reader holds. -/
def State.freeable (s : State) (i : Nat) : Option Nat :=
  if (s.takeAt i).state ≠ .releasing then none
  else match s.frontBlock i with
    | none => none
    | some b =>
      match s.pool.block b with
      | none => none
      | some e => if e.holdCount = 0 then some b else none

/-- A RELEASING take whose sealed count is 0 becomes EMPTY (R83). -/
def State.emptyIfDone (s : State) (i : Nat) : State :=
  if (s.takeAt i).state = .releasing ∧ (s.takeAt i).sealedCount = 0 then s.setTake i Take.reset else s

/-! ## The port (R64) -/

/-- The clients in rotation order after `c`. -/
def rotationAfter : Client → List Client
  | .writer => [.replay, .exporter, .renderer, .writer]
  | .replay => [.exporter, .renderer, .writer, .replay]
  | .exporter => [.renderer, .writer, .replay, .exporter]
  | .renderer => [.writer, .replay, .exporter, .renderer]

/-- The grant of the arbiter among the waiting clients: the writer above the fill of 2,048, else the first in the rotation. -/
def Pool.choose (p : Pool) (fill : Nat) (waits : Client → Bool) : Option Client :=
  if Config.writerFirstFill < fill ∧ waits .writer then some .writer
  else (rotationAfter p.lastGranted).find? waits

/-- A free port grants an access. -/
def State.grant (s : State) (waits : Client → Bool) : State :=
  { s with pool :=
      match s.pool.inFlight, s.pool.choose s.staging.fill waits with
      | none, some c => { s.pool with inFlight := some ⟨c, false, none, none⟩, lastGranted := c }
      | _, _ => s.pool }

/-- The access in flight completes: a stale one lets its hold drop (R65). -/
def State.portFree (s : State) : State :=
  match s.pool.inFlight with
  | none => s
  | some g => State.dropHoldOpt { s with pool := { s.pool with inFlight := none } } g.drops (g.client == .renderer)

end Sys2Proof.Machine
end

