-- ==== Sys2Proof/Machine/Rebuild.lean ====
section
/-! DEFINITION. Machine/Rebuild.lean: what a reader of a stored take rebuilds from its records (spec/08, 8.2): times, levels, open fault records,
the SCAN's front state, gap spans, POD FAULT events. Pure functions of the records; the readers themselves are in Replay.lean and Render.lean. -/

namespace Sys2Proof.Machine

/-! ## Records with their times (R41) -/

/-- The time of a record that follows one of time `t`, in a take of interval exponent `k`. -/
def CapRec.timeAfter (k t : Nat) (r : CapRec) : Nat :=
  match r.body with
  | .anchor a => a.toNat
  | _ => t + r.delta * 2 ^ k

/-- The records of a block with their times. Its first record is an ANCHOR (R49). -/
def timedFrom (k : Nat) : Nat → List CapRec → List TimedRec
  | _, [] => []
  | t, r :: rest => ⟨r.timeAfter k t, r.body⟩ :: timedFrom k (r.timeAfter k t) rest

/-- The records of a block with their times. -/
def Block.timed (b : Block) (k : Nat) : List TimedRec := timedFrom k 0 b.records

/-- `n` sealed blocks of take `id` from sequence number `seq` on. -/
def Pool.blocksFrom (p : Pool) (id seq : Nat) : Nat → List Block
  | 0 => []
  | n + 1 =>
    match p.blockOf id seq with
    | none => p.blocksFrom id ((seq + 1) % 2 ^ 32) n
    | some b => b :: p.blocksFrom id ((seq + 1) % 2 ^ 32) n

/-- The sealed sequence of a take (R66). -/
def State.sealedBlocks (s : State) (t : Take) : List Block := s.pool.blocksFrom t.id t.firstSeq t.sealedCount

/-- Every record of a take's sealed sequence, in stream order. -/
def State.takeRecords (s : State) (t : Take) : List TimedRec :=
  (s.sealedBlocks t).flatMap (fun b => b.timed t.intervalExp)

/-- The recorded span of a take: the first tick of its front block and the last tick of its last sealed block (R150). -/
def State.recordedSpan (s : State) (t : Take) : Option (Nat × Nat) :=
  match s.sealedBlocks t, (s.sealedBlocks t).getLast? with
  | b :: _, some z => some (b.firstTick.toNat, z.lastTick.toNat)
  | _, _ => none

/-! ## Restatements by their place in the stream (R153) -/

/-- Where a reader stands in the stream: after a GAP at a time, before its ANCHOR; or in the restatement after that ANCHOR. -/
inductive Place where
  | plain
  | afterGap (time : Nat)
  | restating (time : Nat)
deriving DecidableEq, Repr

/-- The place after a record. A block-start ANCHOR does not end a restatement. A reader starts in `plain`, also at the front of a recycled take (the model's
choice, notes/assumptions/26.md). -/
def Place.next (p : Place) (r : TimedRec) : Place :=
  match r.body, p with
  | .gap .., _ => .afterGap r.time
  | .anchor _, .afterGap t => if r.time = t then .restating t else .plain
  | .anchor _, .restating t => .restating t
  | .fault _ _ true _ _, .restating t => if r.time = t then .restating t else .plain
  | _, _ => .plain

/-- The record is a FAULT begin of the restatement after a GAP, met at place `p`. -/
def Place.restates (p : Place) (r : TimedRec) : Bool :=
  match r.body, p with
  | .fault _ _ true _ _, .restating t => decide (r.time = t)
  | _, _ => false

/-! ## The SCAN (R151) -/

/-- The front state of each source noted so far: none while no FAULT record of it is met. -/
abbrev FrontNotes := Four (Five (Option OpenFault))

/-- No record met. -/
def noNotes : FrontNotes := Four.all (Five.all none)

/-- The notes after a record: the first FAULT record of a source opens it at the front if it is an end or a restated begin. -/
def noteFault (p : Place) (n : FrontNotes) (r : TimedRec) : FrontNotes :=
  match r.body with
  | .fault pod src begins act m =>
    match (n.get pod).get src with
    | some _ => n
    | none => n.set pod ((n.get pod).set src (some (if !begins || p.restates r then some (act, m) else none)))
  | _ => n

/-- The notes of a run of records. -/
def scanNotes : Place → FrontNotes → List TimedRec → FrontNotes
  | _, n, [] => n
  | p, n, r :: rest => scanNotes (p.next r) (noteFault p n r) rest

/-- Every source has been met. -/
def FrontNotes.full (n : FrontNotes) : Bool := n.toList.all (fun f => f.toList.all Option.isSome)

/-- The fault state at the front: a source not met is closed. -/
def FrontNotes.faults (n : FrontNotes) : Four (Five OpenFault) :=
  n.map (fun f => ⟨f.overLimit.getD none, f.under.getD none, f.middle.getD none, f.lost.getD none, f.hot.getD none⟩)

/-- The fault state at the front of a recycled take, from its records. -/
def frontFaults (rs : List TimedRec) : Four (Five OpenFault) := (scanNotes .plain noNotes rs).faults

/-- Every source closed. -/
def noFaults : Four (Five OpenFault) := Four.all (Five.all none)

/-! ## Levels and fault records (R152, R153) -/

/-- What a reader has rebuilt. -/
structure Rebuilt where
  levels : Chans
  known : Chans
  faults : Four (Five OpenFault)
  place : Place

/-- Nothing rebuilt yet, with the fault state at the front. -/
def Rebuilt.start (front : Four (Five OpenFault)) : Rebuilt := ⟨0, 0, front, .plain⟩

/-- One record applied, in a take with channel list `list`. -/
def Rebuilt.apply (list : Chans) (x : Rebuilt) (r : TimedRec) : Rebuilt :=
  let y := { x with place := x.place.next r }
  match r.body with
  | .change l => { y with levels := l &&& list, known := list }
  | .wake l => { y with levels := l &&& list, known := list }
  | .gap .. => { y with known := 0 }
  | .anchor _ =>
    match x.place with
    | .afterGap t => if r.time = t then { y with faults := noFaults } else y
    | _ => y
  | .fault pod src begins act m =>
    { y with faults := x.faults.set pod ((x.faults.get pod).set src (if begins then some (act, m) else none)) }
  | _ => y

/-- Every record of time `t` or earlier applied. -/
def rebuiltAt (list : Chans) (x : Rebuilt) (rs : List TimedRec) (t : Nat) : Rebuilt :=
  (rs.takeWhile (fun r => r.time ≤ t)).foldl (Rebuilt.apply list) x

/-- The channels one open fault record makes unknown. -/
def faultChannels : OpenFault → BitVec 8
  | none => 0
  | some (.isolate, _) => 0xFF
  | some (.ignore, _) => 0
  | some (_, m) => m

/-- The channels of one pod that open fault records make unknown. -/
def podFaultChannels (f : Five OpenFault) : BitVec 8 :=
  faultChannels f.overLimit ||| faultChannels f.under ||| faultChannels f.middle ||| faultChannels f.lost ||| faultChannels f.hot

/-- The channels that open fault records make unknown. -/
def faultedChannels (f : Four (Five OpenFault)) : Chans :=
  atPod 0 (podFaultChannels f.n0) ||| atPod 1 (podFaultChannels f.n1) ||| atPod 2 (podFaultChannels f.n2) ||| atPod 3 (podFaultChannels f.n3)

/-- All channels of the pods of a mask. -/
def podsChannels (m : BitVec 4) : Chans :=
  atPod 0 (if m.getLsbD 0 then 0xFF else 0) ||| atPod 1 (if m.getLsbD 1 then 0xFF else 0) |||
    atPod 2 (if m.getLsbD 2 then 0xFF else 0) ||| atPod 3 (if m.getLsbD 3 then 0xFF else 0)

/-- The channels unknown in an interval (R152). `frontPods` is the open-fault pod mask of a recycled take. -/
def Rebuilt.unknown (x : Rebuilt) (list : Chans) (frontPods : BitVec 4) : Chans :=
  ~~~list ||| ~~~x.known ||| faultedChannels x.faults ||| podsChannels frontPods

/-! ## Gap spans (R154) -/

/-- A gap span: from tick `start` up to but not including the GAP's time. -/
structure GapSpan where
  start : Nat
  time : Nat
  wake : Bool
deriving DecidableEq, Repr

/-- The start of a span of reason OVERFLOW: `rev` are the records before the GAP, latest first. An ANCHOR of the GAP's own time is the one that R41 puts
before it and is passed over (notes/assumptions/26.md). -/
def overflowStart (k front gapTime : Nat) : List TimedRec → Nat
  | [] => front
  | r :: rest =>
    match r.body with
    | .anchor _ => if r.time = gapTime then overflowStart k front gapTime rest else r.time
    | .change _ => r.time + 2 ^ k
    | _ => r.time

/-- A record behind which the sampler samples or begins a watch: a WATCH, a CHANGE, a GAP of reason WAKE. What ended the present watch stands after the
latest of them; a record before it belongs to an older watch, if the present one's WATCH was lost (R45, notes/assumptions/26.md). -/
def RecBody.startsWatch : RecBody → Bool
  | .watch => true
  | .change _ => true
  | .gap _ isWake _ _ => isWake
  | _ => false

/-- The time of the WAKE that ended the present watch; the records are latest first. -/
def wakeBack : List TimedRec → Option Nat
  | [] => none
  | r :: rest =>
    match r.body with
    | .wake _ => some r.time
    | b => if b.startsWatch then none else wakeBack rest

/-- The records before a MARK FIRE, latest first, let it have ended a watch: they begin with one, or with a loss or a front behind which its WATCH may
lie; behind a CHANGE or a GAP of reason WAKE the sampler was SAMPLING. -/
def mayWatch : List TimedRec → Bool
  | [] => true
  | r :: rest =>
    match r.body with
    | .watch => true
    | .change _ => false
    | .gap _ wake _ _ => !wake
    | _ => mayWatch rest

/-- The time of the MARK FIRE that ended the present watch; the records are latest first. -/
def fireBack : List TimedRec → Option Nat
  | [] => none
  | r :: rest =>
    match r.body with
    | .mark _ false => if mayWatch rest then some r.time else none
    | b => if b.startsWatch then none else fireBack rest

/-- The time of the record that ended the watch before a GAP of reason WAKE (R154). With the GAP's trigger flag clear no trigger fired in WAKING (R54), so a
MARK FIRE behind which no GAP of reason WAKE stands ended the watch (R55), and a WAKE before it belongs to an older one. Otherwise it is the WAKE. -/
def watchEnd (trigger : Bool) (rev : List TimedRec) : Option Nat :=
  match (if trigger then none else fireBack rev) with
  | some t => some t
  | none => wakeBack rev

/-- The start of a span of reason WAKE. -/
def wakeStart (k front gapTime : Nat) (trigger : Bool) (rev : List TimedRec) : Nat :=
  match watchEnd trigger rev with
  | some t => t + 2 ^ k
  | none => overflowStart k front gapTime rev

/-- The gap spans of a run of records, in stream order; `rev` are the records passed, latest first. A span that would start past its GAP, because what it
starts behind stands in the GAP's own interval, starts at that interval and is empty; its gap notice is handed there all the same, before the interval's
vector: the model's choice (notes/assumptions/26.md). -/
def gapSpansFrom (k front : Nat) : List TimedRec → List TimedRec → List GapSpan
  | _, [] => []
  | rev, r :: rest =>
    match r.body with
    | .gap _ wake trigger _ =>
      ⟨min (if wake then wakeStart k front r.time trigger rev else overflowStart k front r.time rev) r.time, r.time, wake⟩ ::
        gapSpansFrom k front (r :: rev) rest
    | _ => gapSpansFrom k front (r :: rev) rest

/-- The gap spans of a run of records whose front is at tick `front`. -/
def gapSpans (k front : Nat) (rs : List TimedRec) : List GapSpan := gapSpansFrom k front [] rs

/-- Spans that meet, made one: no vector stands between them (R154). -/
def mergeSpans : List GapSpan → List GapSpan
  | [] => []
  | g :: rest =>
    match mergeSpans rest with
    | [] => [g]
    | h :: more => if h.start ≤ g.time then ⟨min g.start h.start, h.time, h.wake⟩ :: more else g :: h :: more

/-- The last span of a take whose last record is a GAP: no vector follows, not even that of the GAP's interval (R50, R154). -/
def endSpan (k : Nat) : List GapSpan → List GapSpan
  | [] => []
  | [g] => [{ g with time := g.time + 2 ^ k }]
  | g :: rest => g :: endSpan k rest

/-- The last of some records is a GAP. -/
def endsInGap (rs : List TimedRec) : Bool :=
  match rs.getLast? with
  | none => false
  | some r => (match r.body with | .gap .. => true | _ => false)

/-- The stretches of a take in which a replay hands no vector, in order. -/
def silentSpans (k front : Nat) (rs : List TimedRec) : List GapSpan :=
  if endsInGap rs then endSpan k (mergeSpans (gapSpans k front rs)) else mergeSpans (gapSpans k front rs)

/-- Tick `t` lies in a gap span. -/
def inSpans (spans : List GapSpan) (t : Nat) : Bool := spans.any (fun g => decide (g.start ≤ t ∧ t < g.time))

/-! ## POD FAULT events (R153) -/

/-- The pods with a FAULT begin at time `t` that is an activation: neither restated after a GAP nor, with `skipFront`, of the take's first interval (R153).
Restated begins at the front of a recycled take, whose GAP and ANCHOR stood in a dropped block, follow no GAP that is read and count as activations: the
model's choice (notes/assumptions/26.md). -/
def podEventsFrom (skipFront : Option Nat) (t : Nat) : Place → List TimedRec → BitVec 4
  | _, [] => 0
  | p, r :: rest =>
    (match r.body with
      | .fault pod _ true _ _ =>
        if r.time = t ∧ !p.restates r ∧ skipFront ≠ some t then bit 4 pod.val else 0
      | _ => 0) ||| podEventsFrom skipFront t (p.next r) rest

/-- The time of the first interval of a take, if its front was never dropped. -/
def State.frontInterval (s : State) (t : Take) : Option Nat :=
  if t.firstSeq = 0 then (s.recordedSpan t).map (fun sp => sp.1) else none

end Sys2Proof.Machine
end

