-- ==== Sys2Proof/Machine/Cells.lean ====
section
/-! DEFINITION. Machine/Cells.lean: the cells of a column table from what a generation has read (R166 to R169), and the table's layout (spec/11, 11.5).
Pure functions; the generation itself is in Render.lean. -/

namespace Sys2Proof.Machine

/-! ## Timelines -/

/-- A timeline: from each tick on, a value; ticks rise. -/
abbrev Timeline (α : Type) := List (Nat × α)

/-- From tick `t` on the value is `x`, whatever stood there. -/
def Timeline.cut {α : Type} (l : Timeline α) (t : Nat) (x : α) : Timeline α := l.filter (fun e => e.1 < t) ++ [(t, x)]

/-- The value at tick `t`. -/
def Timeline.atTick {α : Type} (l : Timeline α) (t : Nat) : Option α := ((l.filter (fun e => e.1 ≤ t)).getLast?).map (fun e => e.2)

/-- The ticks of the column at which the value may differ: its first tick and every change within it. -/
def Timeline.ticksIn {α : Type} (l : Timeline α) (a b : Nat) : List Nat :=
  a :: (l.filter (fun e => decide (a < e.1 ∧ e.1 ≤ b))).map (fun e => e.1)

/-- The changes at the ticks of the column. -/
def Timeline.changesIn {α : Type} (l : Timeline α) (a b : Nat) : List Nat :=
  (l.filter (fun e => decide (a ≤ e.1 ∧ e.1 ≤ b))).map (fun e => e.1)

/-- Where the watch stands: none, watching, or watching with the trigger fired in it. -/
inductive WatchPhase where
  | off
  | watching
  | fired
deriving DecidableEq, Repr

/-- The watch after a record (R167): a watch ends at its WAKE, or at the next GAP when a trigger ended it, as a MARK FIRE tells or, where that was lost, the
GAP's trigger flag (R45). A watch whose WAKE was lost ends at the latest at a GAP of reason WAKE or a CHANGE, which tell that the sampler samples again
(the model's choice, notes/assumptions/27.md). -/
def WatchPhase.next (w : WatchPhase) (b : RecBody) : WatchPhase :=
  match b, w with
  | .watch, _ => .watching
  | .wake _, _ => .off
  | .mark _ false, .watching => .fired
  | .gap _ wake trigger _, .watching => if wake || trigger then .off else .watching
  | .gap .., .fired => .off
  | .change _, _ => .off
  | _, w => w

/-- What the channel cells read of one moment: levels, unknown channels, channels in open fault records, and whether the moment is in a watch span. -/
structure ChanMoment where
  levels : Chans
  unknown : Chans
  faulted : Chans
  watch : Bool
deriving DecidableEq, Repr

/-- What a moment is, from what is rebuilt. -/
def momentOf (list : Chans) (frontPods : BitVec 4) (x : Rebuilt) (w : WatchPhase) : ChanMoment :=
  ⟨x.levels, x.unknown list frontPods, faultedChannels x.faults, w != .off⟩

/-- The channel timeline of a run of records. -/
def chanTimelineFrom (list : Chans) (frontPods : BitVec 4) : Rebuilt → WatchPhase → Timeline ChanMoment → List TimedRec → Timeline ChanMoment
  | _, _, l, [] => l
  | x, w, l, r :: rest =>
    let y := x.apply list r
    let v := w.next r.body
    chanTimelineFrom list frontPods y v (l.cut r.time (momentOf list frontPods y v)) rest

/-- The channel timeline of a part. A part begins with no watch, so that a watch whose WATCH stood in a revoked block marks nothing behind it: the model's
choice (notes/assumptions/27.md). -/
def RenderPart.chanTimeline (list : Chans) (openPods : BitVec 4) (p : RenderPart) : Timeline ChanMoment :=
  let pods := if p.recycled then openPods else 0
  let x := Rebuilt.start p.front
  chanTimelineFrom list pods x .off [(p.start, momentOf list pods x .off)] p.records

/-- A lane's frame state (R168). -/
inductive FrameState where
  | unknown
  | closed
  | opened
deriving DecidableEq, Repr

/-- The frame timeline of lane `k` after a record; `gap` is the start of the span of a GAP of reason OVERFLOW. A frame is open at its closing tick. -/
def frameStep (lane : Fin 4) (gap : Option Nat) (l : Timeline FrameState) (r : TimedRec) : Timeline FrameState :=
  match r.body with
  | .frameOpen j => if j = lane then l.cut r.time .opened else l
  | .frameClose j _ split _ _ _ =>
    if j ≠ lane then l
    else if split then l.cut r.time .opened
    else (l.cut r.time .opened).cut (r.time + 1) .closed
  | .gap .. => (match gap with | none => l | some g => l.cut g .unknown)
  | _ => l

/-- The frame timeline of lane `lane` over a run of records; `rev` are the records passed, latest first. -/
def frameTimelineFrom (k front : Nat) (lane : Fin 4) : List TimedRec → Timeline FrameState → List TimedRec → Timeline FrameState
  | _, l, [] => l
  | rev, l, r :: rest =>
    let gap := match r.body with
      | .gap _ false _ _ => some (min (overflowStart k front r.time rev) r.time)
      | _ => none
    frameTimelineFrom k front lane (r :: rev) (frameStep lane gap l r) rest

/-- The frame timeline of a part; `quiet` tells that no frame stands open at its start. -/
def RenderPart.frameTimeline (k : Nat) (lane : Fin 4) (quiet : Bool) (p : RenderPart) : Timeline FrameState :=
  frameTimelineFrom k p.start lane [] [(p.start, if quiet then .closed else .unknown)] p.records

/-! ## Cells -/

/-- All that the cells of a generation are made from. -/
structure CellSource where
  k : Nat
  list : Chans
  openPods : BitVec 4
  span : Option (Nat × Nat)
  parts : List RenderPart
  revoked : List (Nat × Nat)
  trigger : Option Nat
  silent : BitVec 4

/-- The timelines of the parts: a part's timeline ends where the next part starts. What stands at the end of the records read of a part, a watch span or an open
fault record, so goes on over the ticks of a revoked block and sets WATCH or FAULT there, up to the block's last tick: the model's choice (notes/assumptions/27.md). -/
def partTimelines {α : Type} (f : RenderPart → Timeline α) : List RenderPart → List (Timeline α)
  | [] => []
  | [p] => [f p]
  | p :: q :: rest => (f p).filter (fun e => e.1 < q.start) :: partTimelines f (q :: rest)

/-- Parts joined. -/
def joinTimelines {α : Type} (f : RenderPart → Timeline α) (parts : List RenderPart) : Timeline α := (partTimelines f parts).flatten

/-- The gap spans of all parts. -/
def CellSource.gaps (c : CellSource) : List GapSpan := c.parts.flatMap (fun p => gapSpans c.k p.start p.records)

/-- The records of all parts. -/
def CellSource.records (c : CellSource) : List TimedRec := c.parts.flatMap (fun p => p.records)

/-- The ticks `a` to `b` meet the ticks `x` to `y`. -/
def meets (a b x y : Nat) : Bool := decide (a ≤ y ∧ x ≤ b)

/-- Some tick of the column is outside the span. -/
def CellSource.partlyOut (c : CellSource) (a b : Nat) : Bool :=
  match c.span with
  | none => true
  | some (f, l) => decide (a < f ∨ l < b)

/-- The column lies wholly outside the span. -/
def CellSource.whollyOut (c : CellSource) (a b : Nat) : Bool :=
  match c.span with
  | none => true
  | some (f, l) => !meets a b f l

/-- The column overlaps a revoked block. -/
def CellSource.stale (c : CellSource) (a b : Nat) : Bool := c.revoked.any (fun r => meets a b r.1 r.2)

/-- The column overlaps a gap span. -/
def CellSource.overGap (c : CellSource) (a b : Nat) : Bool :=
  c.gaps.any (fun g => decide (g.start < g.time) && meets a b g.start (g.time - 1))

/-- The column overlaps a GAP's interval. -/
def CellSource.overGapInterval (c : CellSource) (a b : Nat) : Bool := c.gaps.any (fun g => meets a b g.time (g.time + 2 ^ c.k - 1))

/-- The trigger position lies in the column. -/
def CellSource.hasTrigger (c : CellSource) (a b : Nat) : Bool :=
  match c.trigger with
  | none => false
  | some t => meets a b t t

/-- The ticks of the column that lie in the span, none if there are none. -/
def CellSource.clip (c : CellSource) (a b : Nat) : Option (Nat × Nat) :=
  match c.span with
  | none => none
  | some (f, l) => if max a f ≤ min b l then some (max a f, min b l) else none

/-- The moments of the column within the span satisfy `f` somewhere. A watch span or an open fault record that no record ends is taken to the span's last
tick and not past it (the model's choice, notes/assumptions/27.md). -/
def CellSource.someMoment (c : CellSource) (l : Timeline ChanMoment) (a b : Nat) (f : ChanMoment → Bool) : Bool :=
  match c.clip a b with
  | none => false
  | some (x, y) => (l.ticksIn x y).any (fun t => match l.atTick t with | none => false | some m => f m)

/-- Channel `n` is known at tick `t`, revocation apart, with its level. -/
def CellSource.knownLevel (c : CellSource) (gaps : List GapSpan) (l : Timeline ChanMoment) (n t : Nat) : Option Bool :=
  if c.partlyOut t t || inSpans gaps t then none
  else match l.atTick t with
    | none => none
    | some m => if m.unknown.getLsbD n then none else some (m.levels.getLsbD n)

/-- Channel `n` has a transition at tick `t` (R166), on the timeline of one part: before a part's start every level is unknown (R169). -/
def CellSource.transition (c : CellSource) (gaps : List GapSpan) (l : Timeline ChanMoment) (n t : Nat) : Bool :=
  if t = 0 then false
  else match c.knownLevel gaps l n (t - 1), c.knownLevel gaps l n t with
    | some x, some y => x != y
    | _, _ => false

/-- The largest transition count of a cell. -/
def maxCellCount : Nat := 63

/-- A cell: summary, count, and the markers TRIGGER, GAP, WATCH, FAULT, FRAME START, FRAME ERROR, MATCH EQUAL, STALE. -/
structure Cell where
  summary : Nat
  count : Nat
  trigger : Bool
  gap : Bool
  watch : Bool
  fault : Bool
  frameStart : Bool
  frameError : Bool
  matchEqual : Bool
  stale : Bool
deriving DecidableEq, Repr

/-- The summaries LOW, HIGH, MIXED, UNKNOWN. -/
def sumLow : Nat := 0
def sumHigh : Nat := 1
def sumMixed : Nat := 2
def sumUnknown : Nat := 3

/-- The 16 bits of a cell (spec/11, 11.5). -/
def Cell.bits (x : Cell) : BitVec 16 :=
  BitVec.ofNat 16 (x.summary + place (min x.count maxCellCount) 2 + place (bnat x.trigger) 8 + place (bnat x.gap) 9 + place (bnat x.watch) 10 +
    place (bnat x.fault) 11 + place (bnat x.frameStart) 12 + place (bnat x.frameError) 13 + place (bnat x.matchEqual) 14 + place (bnat x.stale) 15)

/-- The transitions of channel `n` in the column of ticks `a` to `b`, part by part. -/
def CellSource.transitions (c : CellSource) (n a b : Nat) : Nat :=
  ((partTimelines (RenderPart.chanTimeline c.list c.openPods) c.parts).map
    (fun l => ((l.changesIn a b).filter (c.transition c.gaps l n)).length)).sum

/-- The cell of a CHANNEL trace over the column of ticks `a` to `b` (R166, R167). -/
def CellSource.channelCell (c : CellSource) (n a b : Nat) : Cell :=
  let l := joinTimelines (RenderPart.chanTimeline c.list c.openPods) c.parts
  let count := c.transitions n a b
  let unknown := c.partlyOut a b || c.overGap a b || c.stale a b || c.someMoment l a b (fun m => m.unknown.getLsbD n)
  let high := match l.atTick a with | none => false | some m => m.levels.getLsbD n
  { summary := if unknown then sumUnknown else if count ≠ 0 then sumMixed else if high then sumHigh else sumLow
    count := count
    trigger := c.hasTrigger a b
    gap := c.overGap a b || c.overGapInterval a b
    watch := c.someMoment l a b (fun m => m.watch)
    fault := c.someMoment l a b (fun m => m.faulted.getLsbD n)
    frameStart := false
    frameError := false
    matchEqual := false
    stale := c.stale a b }

/-- A record of lane `lane` whose time lies in the column and satisfies `f`. -/
def CellSource.someRecord (c : CellSource) (a b : Nat) (f : RecBody → Bool) : Bool := c.records.any (fun r => meets a b r.time r.time && f r.body)

/-- The relation EQUAL for slot `slot` among a record's relation positions. -/
def slotEqual (rels : List (Option Relation)) (slot : Nat) : Bool := rels.getD slot none == some .equal

/-- No frame of lane `lane` stands open at the start of part `p`: the lane has inserted no record into the take, and the part starts at the take's front
(R168, last sentence). A part that starts behind a revoked block has every frame state unknown (R169). -/
def CellSource.quietAt (c : CellSource) (lane : Fin 4) (p : RenderPart) : Bool :=
  c.silent.getLsbD lane.val && (match c.span with | none => false | some (f, _) => p.start == f)

/-- The cell of a LANE trace with slot `slot` over the column of ticks `a` to `b` (R167, R168). -/
def CellSource.laneCell (c : CellSource) (lane : Fin 4) (slot a b : Nat) : Cell :=
  let l := joinTimelines (fun p => p.frameTimeline c.k lane (c.quietAt lane p)) c.parts
  let states := (l.ticksIn a b).map (fun t => (l.atTick t).getD .unknown)
  let closes := c.records.filter (fun r => meets a b r.time r.time && (match r.body with | .frameClose j _ split _ _ _ => j == lane && !split | _ => false))
  let chans := joinTimelines (RenderPart.chanTimeline c.list c.openPods) c.parts
  { summary :=
      if c.partlyOut a b || c.stale a b || states.any (fun x => x == .unknown) then sumUnknown
      else if states.all (fun x => x == .closed) then sumLow
      else if states.all (fun x => x == .opened) then sumHigh
      else sumMixed
    count := closes.length
    trigger := c.hasTrigger a b
    gap := c.overGap a b || c.overGapInterval a b
    watch := c.someMoment chans a b (fun m => m.watch)
    fault := false
    frameStart := c.someRecord a b (fun x => match x with | .frameOpen j => j == lane | _ => false)
    frameError := c.someRecord a b (fun x => match x with | .frameClose j err _ int _ _ => j == lane && (err || int) | _ => false)
    matchEqual := c.someRecord a b (fun x => match x with | .frameClose j _ _ _ _ rels => j == lane && slotEqual rels slot | _ => false)
    stale := c.stale a b }

/-- The cell of a trace. -/
def CellSource.cell (c : CellSource) (tr : TraceSel) (a b : Nat) : Cell :=
  match tr with
  | .channel n => c.channelCell n a b
  | .lane k slot => c.laneCell k slot a b

/-! ## How far the cells are determined -/

/-- Tick `t`, or the interval after the record that ended the watch, whichever is earlier. -/
def behindWatch (k t : Nat) (watchEnded : Option Nat) : Nat :=
  match watchEnded with
  | none => t
  | some w => min t (w + 2 ^ k)

/-- The ticks below this are determined by the records read: later records cannot change them. A GAP read next may open a span behind an ANCHOR that
stands last, and one of reason WAKE, with its trigger flag clear or set, from the interval after what ended the watch. -/
def RenderPart.limit (k : Nat) (p : RenderPart) : Nat :=
  match p.records.getLast? with
  | none => p.start
  | some r =>
    let rev := p.records.reverse
    behindWatch k (behindWatch k (min r.time (overflowStart k p.start r.time rev)) (watchEnd false rev)) (watchEnd true rev)

/-! ## The table (spec/11, 11.5) -/

/-- The header of a table. -/
def tableHeader (generation cols traces winStart width : Nat) (outOfSpan stale : Bool) : List Word64 :=
  [BitVec.ofNat 64 (generation + place cols 32 + place traces 48 + place (bnat outOfSpan) 56 + place (bnat stale) 57),
   BitVec.ofNat 64 winStart, BitVec.ofNat 64 width, 0]

/-- The address of the cell of trace `t` and column `c`. -/
def cellAddr (table cols t c : Nat) : Nat := table + 32 + 2 * (t * cols + c)

end Sys2Proof.Machine
end

