-- ==== Sys2Proof/Machine/Decoder.lean ====
section
/-! DEFINITION. Machine/Decoder.lean: the four protocol decoders of a lane (R114 to R124), as a function of one handed interval: the decoder it leaves,
and in order the frames it opens, the records it emits and the exceptions it raises. Rings, relations and stream records are in Lanes.lean. -/

namespace Sys2Proof.Machine

/-- An emission of R123 or R124: the fields of one frame record and the frame it belongs to. -/
structure Emission where
  fields : List Field
  split : Bool
  continues : Bool
  interrupted : Bool
  seqNo : BitVec 16
  start : Tick
deriving DecidableEq, Repr

/-- What a decoder gives out. -/
inductive LaneOut where
  | opened
  | emitted (e : Emission)
  | raised (x : Exc)
deriving DecidableEq, Repr

/-- A decoder and what it has given out so far. -/
structure DecStep where
  dec : Decoder
  outs : List LaneOut

/-- One more thing given out. -/
def DecStep.out (d : DecStep) (o : LaneOut) : DecStep := { d with outs := d.outs ++ [o] }

/-- One more thing given out if `b`. -/
def DecStep.outIf (d : DecStep) (b : Bool) (o : LaneOut) : DecStep := if b then d.out o else d

/-- The decoder changed. -/
def DecStep.set (d : DecStep) (x : Decoder) : DecStep := { d with dec := x }

/-! ## Stack, frames (R122 to R124) -/

/-- The largest offset of a field (R110). -/
def maxOffset : Nat := 2097151

/-- The tag of a pushed word (R122): `atGap` for a push at a gap notice, `cut` for one a frame close cut short. -/
def tagOf (w : WordIP) (atGap cut : Bool) : Tag :=
  if w.taint || w.parityBad || w.stopBad || atGap then .errored else if cut then .partly else .complete

/-- The stack entry of the word in progress. -/
def Decoder.entry (d : Decoder) (atGap cut : Bool) : Field where
  tag := tagOf d.word atGap cut
  bits := d.word.bits
  value := d.word.value
  ack := d.word.ack
  parityBad := d.word.parityBad
  stopBad := d.word.stopBad
  offset := min (ticksFrom d.frameStart d.word.start) maxOffset

/-- The record part that a full stack leaves as (R123). -/
def Decoder.part (d : Decoder) : Emission := ⟨d.stack, true, d.continues, false, d.seqNo, d.frameStart⟩

/-- The word in progress is pushed (R122); a full stack splits first (R123). -/
def DecStep.push (x : DecStep) (atGap cut : Bool) : DecStep :=
  let d := x.dec
  let full := decide (8 ≤ d.stack.length)
  let f := d.entry atGap cut
  let y : DecStep :=
    { dec := { d with
        stack := if full then [f] else d.stack ++ [f]
        continues := d.continues || full
        word := WordIP.none
        ackTaken := false }
      outs := x.outs ++ (if full then [.emitted d.part, .raised .longFrame] else []) }
  ((y.outIf d.word.parityBad (.raised .parity)).outIf d.word.stopBad (.raised .framing)).outIf (d.word.taint || atGap) (.raised .signalFault)

/-- A frame opens with start tick `t`. -/
def DecStep.openFrame (x : DecStep) (t : Tick) : DecStep :=
  { dec := { x.dec with inFrame := true, frameStart := t }, outs := x.outs ++ [.opened] }

/-- A word in progress that a close pushes has at least one bit. The start bit of an ASYNC word is its bit 0 (R115, R124, notes/assumptions/17.md). -/
def Decoder.wordHasBits (d : Decoder) (p : Proto) : Bool :=
  match p with
  | .async .. => d.word.active && decide (1 ≤ d.bitIndex)
  | _ => d.word.active && decide (1 ≤ d.word.bits)

/-- The last record of a frame (R124). -/
def Decoder.lastRecord (d : Decoder) (interrupted : Bool) : Emission := ⟨d.stack, false, d.continues, interrupted, d.seqNo, d.frameStart⟩

/-- The frame closes (R124): a word cut short is pushed, the last record is emitted, and the decoder enters HUNTING. -/
def DecStep.close (x : DecStep) (p : Proto) (interrupted : Bool) : DecStep :=
  let y := if x.dec.wordHasBits p then x.push false true else x
  let d := y.dec
  { dec := { d with
      inFrame := false
      stack := []
      continues := false
      seqNo := d.seqNo + 1
      word := WordIP.none
      ackTaken := false
      edgeStart := match p with | .twoWire => none | _ => d.edgeStart
      measure := none }
    outs := y.outs ++ .emitted (d.lastRecord interrupted) :: (if d.stack.isEmpty then [.raised .emptyFrame] else []) }

/-- The interval that begins at `t` and lasts 2^k ticks holds, or lies past, the tick the idle measure runs out at. -/
def Decoder.measureDue (d : Decoder) (k : Nat) (t : Tick) : Bool :=
  match d.measure with
  | none => false
  | some m => atOrBefore m (tickAdd t (2 ^ k - 1))

/-! ## One interval, kind by kind -/

/-- What a lane reads of one handed interval: its length exponent, its time, the levels of its three channels, and whether one of its channels is unknown. -/
structure LaneInput where
  k : Nat
  t : Tick
  a : Bool
  b : Bool
  c : Bool
  unknown : Bool

/-- The word in progress is tainted by an unknown channel (R114). -/
def Decoder.taintWord (d : Decoder) (unknown : Bool) : Decoder :=
  { d with
    word := { d.word with taint := d.word.taint || (d.word.active && unknown) }
    edgeTaint := d.edgeTaint || (d.edgeStart.isSome && unknown) }

/-- The decoder after an interval: its levels become the previous ones. -/
def Decoder.remember (d : Decoder) (i : LaneInput) : Decoder :=
  { d with hasPrev := true, prevA := i.a, prevB := i.b, prevC := i.c, afterGap := false }

/-- A new word with no bits. -/
def WordIP.begin (t : Tick) (taint : Bool) : WordIP := ⟨true, 0, 0, t, false, false, false, taint⟩

/-! ### ASYNC (R115, R116) -/

/-- The tick of sample point `j` of a word that started at `s`. -/
def samplePoint (s : Tick) (bitTime j : Nat) : Tick := tickAdd s (j * bitTime + bitTime / 2)

/-- The sample points of a word: start, data, parity if any, stop bits. -/
def asyncPoints (dataBits : Nat) (par : Parity) (stopBits : Nat) : Nat :=
  1 + dataBits + (match par with | .none => 0 | _ => 1) + stopBits

/-- The number of ones among the low `n` bits. -/
def onesOf (v : Nat) : Nat → Nat
  | 0 => 0
  | n + 1 => v % 2 + onesOf (v / 2) n

/-- The parity bit `b` disagrees with the data. -/
def parityMismatch (par : Parity) (value : BitVec 32) (n : Nat) (b : Bool) : Bool :=
  match par with
  | .none => false
  | .even => (onesOf value.toNat n + bnat b) % 2 != 0
  | .odd => (onesOf value.toNat n + bnat b) % 2 != 1

/-- The open frame was opened by the start edge of the word in progress: it is the frame's first word. -/
def Decoder.openedByWord (d : Decoder) : Bool := d.frameStart == d.word.start && d.stack.isEmpty && !d.continues

/-- A start bit that reads idle was a false start (R115, R116): no word is gathered, and a frame that its edge opened is none, so that the decoder is HUNTING
again. The FRAME OPEN of that edge stands in the stream: the model's choice (notes/assumptions/16.md). -/
def Decoder.falseStart (d : Decoder) : Decoder :=
  { d with word := WordIP.none, armed := true, inFrame := d.inFrame && !d.openedByWord }

/-- One sample of an ASYNC word: bit `j` reads the level `lvl`. The last stop bit pushes the word and starts the frame idle measure. -/
def asyncSample (idle : Bool) (bitTime dataBits : Nat) (par : Parity) (stopBits frameIdle : Nat) (lvl : Bool) (x : DecStep) : DecStep :=
  let d := x.dec
  let j := d.bitIndex
  let w := d.word
  let parAt := match par with | .none => 0 | _ => 1
  if j = 0 then
    x.set (if lvl = idle then d.falseStart else { d with bitIndex := 1 })
  else if j ≤ dataBits then
    x.set { d with
      bitIndex := j + 1
      word := { w with value := setBit w.value (j - 1) lvl, bits := w.bits + 1 } }
  else if j ≤ dataBits + parAt then
    x.set { d with bitIndex := j + 1, word := { w with parityBad := parityMismatch par w.value dataBits lvl } }
  else
    let d1 := { d with bitIndex := j + 1, word := { w with stopBad := w.stopBad || lvl != idle } }
    if j + 1 < asyncPoints dataBits par stopBits then x.set d1
    else
      let y := (x.set d1).push false false
      y.set { y.dec with
        bitIndex := 0
        armed := lvl == idle
        measure := some (tickAdd (samplePoint w.start bitTime j) (frameIdle * bitTime)) }

/-- Every sample point of the word that the interval holds, at most `fuel` of them. -/
def asyncSamples (idle : Bool) (bitTime dataBits : Nat) (par : Parity) (stopBits frameIdle : Nat) (i : LaneInput) : Nat → DecStep → DecStep
  | 0, x => x
  | fuel + 1, x =>
    if x.dec.word.active && atOrBefore (samplePoint x.dec.word.start bitTime x.dec.bitIndex) (tickAdd i.t (2 ^ i.k - 1)) then
      asyncSamples idle bitTime dataBits par stopBits frameIdle i fuel (asyncSample idle bitTime dataBits par stopBits frameIdle i.a x)
    else x

/-- An open frame whose idle measure has run out closes, unless a word is in progress (R116). One that runs out under a start edge that proves false closes
in the interval in which the start bit reads idle: the model's choice (notes/assumptions/17.md). -/
def asyncIdle (p : Proto) (i : LaneInput) (x : DecStep) : DecStep :=
  if x.dec.inFrame && !x.dec.word.active && x.dec.measureDue i.k i.t then x.close p false else x

/-- The start edge (R115): a level away from idle once the idle level has been handed. In HUNTING it opens the frame, in its own interval (R116, R126). -/
def asyncStart (idle : Bool) (i : LaneInput) (x : DecStep) : DecStep :=
  let d := x.dec
  if d.word.active then x
  else if i.a = idle then x.set { d with armed := true }
  else if d.armed then
    let y := if d.inFrame then x else x.openFrame i.t
    y.set { y.dec with armed := false, bitIndex := 0, word := WordIP.begin i.t i.unknown }
  else x

/-- One interval of an ASYNC lane. -/
def asyncInterval (idle : Bool) (bitTime dataBits : Nat) (par : Parity) (stopBits frameIdle : Nat) (i : LaneInput) (d : Decoder) : DecStep :=
  let p := Proto.async idle bitTime dataBits par stopBits frameIdle
  let d1 := d.taintWord i.unknown
  let d2 := if d1.afterGap && d1.inFrame then { d1 with measure := some (tickAdd i.t (frameIdle * bitTime)) } else d1
  let x1 := asyncIdle p i ⟨d2, []⟩
  let x2 := asyncStart idle i x1
  let x3 := asyncSamples idle bitTime dataBits par stopBits frameIdle i 16 x2
  asyncIdle p i x3

/-! ### CLOCKED (R117) -/

/-- One bit `b` of a CLOCKED word, taken in the interval `i`. -/
def clockedBit (len : Nat) (lsbFirst : Bool) (i : LaneInput) (x : DecStep) : DecStep :=
  let d := x.dec
  let w := if d.word.active then d.word else WordIP.begin i.t i.unknown
  let value := if lsbFirst then setBit w.value w.bits i.b else (w.value <<< 1) ||| BitVec.ofNat 32 (bnat i.b)
  let y := x.set { d with word := { w with value := value, bits := w.bits + 1 } }
  if w.bits + 1 = len then y.push false false else y

/-- One interval of a CLOCKED lane. -/
def clockedInterval (falling : Bool) (len : Nat) (lsbFirst selActive : Bool) (gap : Nat) (hasSelect : Bool) (i : LaneInput) (d : Decoder) : DecStep :=
  let p := Proto.clocked falling len lsbFirst selActive gap
  let d1 := d.taintWord i.unknown
  let edge := d1.hasPrev && d1.prevA != i.a && i.a != falling
  let x := DecStep.mk d1 []
  if hasSelect then
    let on := i.c == selActive
    let turned := d1.hasPrev && d1.prevC != i.c
    let x1 := if x.dec.inFrame && !on && (turned || d1.afterGap) then x.close p false else x
    let x2 := if turned && on && !x1.dec.inFrame then x1.openFrame i.t else x1
    if edge && on && x2.dec.inFrame then clockedBit len lsbFirst i x2 else x2
  else
    let x1 := if d1.afterGap && d1.inFrame then x.set { d1 with measure := some (tickAdd i.t gap) } else x
    let x2 := if x1.dec.inFrame && x1.dec.measureDue i.k i.t then x1.close p false else x1
    let x3 :=
      if edge then
        let y := clockedBit len lsbFirst i (if x2.dec.inFrame then x2 else x2.openFrame i.t)
        y.set { y.dec with measure := some (tickAdd i.t gap) }
      else x2
    if x3.dec.inFrame && x3.dec.measureDue i.k i.t then x3.close p false else x3

/-! ### TWO-WIRE (R118, R119) -/

/-- A rising clock inside a frame: a data bit, the acknowledge bit, or the rise that may begin a word. -/
def twoWireRise (i : LaneInput) (x : DecStep) : DecStep :=
  let d := x.dec
  let w := d.word
  if !d.inFrame then x
  else if w.active then
    if w.bits < 8 then
      x.set { d with word := { w with value := (w.value <<< 1) ||| BitVec.ofNat 32 (bnat i.b), bits := w.bits + 1 } }
    else if d.ackTaken then x
    else x.set { d with ackTaken := true, word := { w with ack := !i.b } }
  else x.set { d with edgeStart := some i.t, edgeLevel := i.b, edgeTaint := i.unknown }

/-- A falling clock inside a frame: the first bit counts, or a word with its acknowledge is pushed. -/
def twoWireFall (x : DecStep) : DecStep :=
  let d := x.dec
  if !d.inFrame then x
  else match d.edgeStart with
    | some st =>
      x.set { d with
        edgeStart := none
        word := { WordIP.begin st d.edgeTaint with value := BitVec.ofNat 32 (bnat d.edgeLevel), bits := 1 } }
    | none => if d.word.active && d.ackTaken then x.push false false else x

/-- A start (`isStart`) or stop condition (R118, R119): a first bit is cancelled, an acknowledge-position error is pushed, the frame closes, a start opens the next. -/
def twoWireCondition (isStart : Bool) (i : LaneInput) (x : DecStep) : DecStep :=
  let x1 := x.set { x.dec with edgeStart := none }
  let d := x1.dec
  let x2 :=
    if d.inFrame then
      let y := if d.word.active && d.ackTaken then (x1.set { d with word := { d.word with stopBad := true } }).push false false else x1
      y.close .twoWire false
    else x1
  if isStart then x2.openFrame i.t else x2

/-- One interval of a TWO-WIRE lane. -/
def twoWireInterval (i : LaneInput) (d : Decoder) : DecStep :=
  let d1 := d.taintWord i.unknown
  let x := DecStep.mk d1 []
  if !d1.hasPrev then x
  else if !d1.prevA && i.a then twoWireRise i x
  else if d1.prevA && !i.a then twoWireFall x
  else if d1.prevA && i.a && d1.prevB && !i.b then twoWireCondition true i x
  else if d1.prevA && i.a && !d1.prevB && i.b then twoWireCondition false i x
  else x

/-! ### PULSE (R120) -/

/-- A pulse of `len` ticks that started at `st` ends in the interval `i`. -/
def pulseEnds (p : Proto) (leader threshold wordLen gap : Nat) (i : LaneInput) (st : Tick) (x : DecStep) : DecStep :=
  let d := x.dec
  let len := ticksFrom st i.t
  let y := x.set { d with edgeStart := none }
  if leader < len then
    let z := (if d.inFrame then y.close p false else y).openFrame i.t
    z.set { z.dec with measure := some (tickAdd i.t gap) }
  else if d.inFrame then
    let w := if d.word.active then d.word else WordIP.begin st (d.edgeTaint || i.unknown)
    let z := y.set { y.dec with
      measure := some (tickAdd i.t gap)
      word := { w with value := setBit w.value w.bits (decide (threshold < len)), bits := w.bits + 1 } }
    if w.bits + 1 = wordLen then z.push false false else z
  else y

/-- An open frame whose idle measure has run out closes, unless a pulse is under way. -/
def pulseIdle (p : Proto) (i : LaneInput) (x : DecStep) : DecStep :=
  if x.dec.inFrame && x.dec.edgeStart.isNone && x.dec.measureDue i.k i.t then x.close p false else x

/-- One interval of a PULSE lane. -/
def pulseInterval (active : Bool) (leader threshold wordLen gap : Nat) (i : LaneInput) (d : Decoder) : DecStep :=
  let p := Proto.pulse active leader threshold wordLen gap
  let d1 := d.taintWord i.unknown
  let d2 := if d1.afterGap && d1.inFrame then { d1 with measure := some (tickAdd i.t gap) } else d1
  let x1 := pulseIdle p i ⟨d2, []⟩
  let turned := d2.hasPrev && d2.prevA != i.a
  let x2 :=
    if turned && i.a == active then x1.set { x1.dec with edgeStart := some i.t, edgeTaint := i.unknown }
    else if turned then
      match x1.dec.edgeStart with
      | none => x1
      | some st => pulseEnds p leader threshold wordLen gap i st x1
    else x1
  pulseIdle p i x2

/-! ## The decoder -/

/-- The decoder takes one interval (R114): levels and unknown channels of all 32 channels. -/
def Decoder.interval (cfg : LaneConfig) (k : Nat) (t : Tick) (levels unknown : Chans) (d : Decoder) : DecStep :=
  let i : LaneInput :=
    ⟨k, t, levels.getLsbD cfg.chA, levels.getLsbD cfg.chB, (match cfg.chC with | none => false | some n => levels.getLsbD n), cfg.touches unknown⟩
  let x :=
    match cfg.proto with
    | .none => DecStep.mk d []
    | .async idle bitTime dataBits par stopBits frameIdle => asyncInterval idle bitTime dataBits par stopBits frameIdle i d
    | .clocked falling len lsbFirst selActive gap => clockedInterval falling len lsbFirst selActive gap cfg.chC.isSome i d
    | .twoWire => twoWireInterval i d
    | .pulse active leader threshold wordLen gap => pulseInterval active leader threshold wordLen gap i d
  x.set (x.dec.remember i)

/-- The word in progress that a gap notice pushes (R121): an ASYNC word counts from its start edge. -/
def Decoder.gapWord (d : Decoder) : Bool := d.word.active

/-- The decoder takes a gap notice (R121). A first clock rise of a TWO-WIRE word that still waits to count as a bit (R118) is dropped: no word is pushed for it,
and no later fall counts it: the model's choice (notes/assumptions/17.md). -/
def Decoder.gapNotice (d : Decoder) : DecStep :=
  let x := DecStep.mk d []
  let y := if d.gapWord then x.push true false else x
  y.set { y.dec with hasPrev := false, afterGap := true, armed := false, bitIndex := 0, edgeStart := none, edgeTaint := false }

/-- The idle measure of an open frame runs out in the interval that begins at `t`: nothing holds the frame open (R116, R117, R120). -/
def Decoder.idleRunsOut (cfg : LaneConfig) (k : Nat) (t : Tick) (d : Decoder) : Bool :=
  d.inFrame && d.measureDue k t && (
    match cfg.proto with
    | .async .. => !d.word.active
    | .clocked .. => cfg.chC.isNone
    | .pulse .. => d.edgeStart.isNone
    | _ => false)

/-- A decoder set to HUNTING with an empty stack, no word and continues pending clear, its frame sequence number kept (R113). -/
def Decoder.hunting (d : Decoder) : Decoder := { Decoder.reset with seqNo := d.seqNo }

end Sys2Proof.Machine
end

