-- ==== Sys2Proof/Machine/Match.lean ====
section
/-! DEFINITION. Machine/Match.lean: the eight match slots (spec/07): the relation of a slot, what an emission gets, and SET MATCH. -/

namespace Sys2Proof.Machine

/-- The relation of two 32-bit values under a mask, unsigned (R142). -/
def maskedRelation (value reference mask : BitVec 32) : Relation :=
  if (value &&& mask).toNat < (reference &&& mask).toNat then .less
  else if (reference &&& mask).toNat < (value &&& mask).toNat then .greater
  else .equal

/-- The relation of one slot to a record's fields (R142): UNORDERED exactly when its field is absent or not COMPLETE. -/
def MatchSlot.relation (m : MatchSlot) (fields : List Field) : Relation :=
  match fields[m.index]? with
  | none => .unordered
  | some f => if f.tag = .complete then maskedRelation f.value m.reference m.mask else .unordered

/-- The slot is bound to lane `k` (7.1). -/
def MatchSlot.boundTo (m : MatchSlot) (k : Fin 4) : Bool := m.enabled && m.lane == k

/-- The relation positions of an emission of lane `k`: one entry per slot, none outside the bound-slot mask (R142, R145). -/
def relationsOf (slots : List MatchSlot) (k : Fin 4) (fields : List Field) : List (Option Relation) :=
  slots.map (fun m => if m.boundTo k then some (m.relation fields) else none)

/-- Some STRICT slot bound to lane `k` gives UNORDERED (R143). -/
def strictUnordered (slots : List MatchSlot) (k : Fin 4) (fields : List Field) : Bool :=
  slots.any (fun m => m.boundTo k && m.strict && m.relation fields == .unordered)

/-- The relation events of an emission: slot number and relation, counted from slot `i` (R147). -/
def relationEvents : List (Option Relation) → Nat → List (Nat × Relation)
  | [], _ => []
  | none :: rest, i => relationEvents rest (i + 1)
  | some r :: rest, i => (i, r) :: relationEvents rest (i + 1)

/-- A lane is feeding a sequencer run (R147): attached to the take the sequencer serves with a capture claim, or replaying for the search it serves. -/
def State.feeding (s : State) (k : Fin 4) : Bool :=
  s.seq.state == .running &&
    (((s.lanes.get k).attached != 0 && s.seq.serving == .capture && s.seq.servingTake == (s.lanes.get k).attached) ||
     ((s.lanes.get k).inReplay && s.seq.serving == .search))

/-- The sequencer is handed relation events of lane `k` if the lane is feeding it. -/
def State.relationsToSeq (s : State) (k : Fin 4) (rels : List (Option Relation)) : State :=
  { s with
    seq := { s.seq with
      events := if s.feeding k then { s.seq.events with rels := s.seq.events.rels ++ relationEvents rels 0 } else s.seq.events } }

/-- The slot is bound to a lane that is at work (R140). -/
def State.slotBusy (s : State) (m : MatchSlot) : Bool := m.enabled && (s.lanes.get m.lane).atWork

/-- SET MATCH (R140). -/
def setMatchOrder (p : SetMatchP) (s : State) : Reply :=
  if !p.valid then refuse s .badField
  else if s.slotBusy (s.slots.getD p.slot MatchSlot.reset) || (p.enable == 1 && (s.lanes.get (fin4 p.lane)).atWork) then refuse s .busy
  else accept { s with slots := putAt s.slots p.slot (if p.enable = 1 then p.slotOf else MatchSlot.reset) }

end Sys2Proof.Machine
end

