-- ==== Sys2Proof/Machine/Lanes.lean ====
section
/-! DEFINITION. Machine/Lanes.lean: the decode lanes around their decoders (spec/06): frame records, the lane ring, exceptions, attachment,
return marks, replay starts and ends, and the three lane orders. -/

namespace Sys2Proof.Machine

/-! ## Storing units that may fail -/

/-- What a run of stores leaves: memory, the failures still in store, and whether a store failed. -/
structure Stored where
  mem : Mem
  plan : List (LinkAccess × Nat)
  failed : Bool

/-- Stores of units `i`, `i + 1`, … at the addresses `addrOf` gives, up to the first that fails. -/
def storeUnits (kind : LinkAccess) (addrOf : Nat → Nat) : List Word64 → Nat → Mem → List (LinkAccess × Nat) → Stored
  | [], _, m, plan => ⟨m, plan, false⟩
  | u :: rest, i, m, plan =>
    if (takeAccess kind plan).1 then ⟨m, (takeAccess kind plan).2, true⟩
    else storeUnits kind addrOf rest (i + 1) (m.putUnit (addrOf i) u) (takeAccess kind plan).2

/-! ## Frame records (R125, spec/11, 11.4) -/

/-- The code of a tag; EMPTY, the tag of the positions above the top, is 3. -/
def Tag.code : Tag → Nat
  | .complete => 0
  | .partly => 1
  | .errored => 2

/-- A field unit. -/
def Field.unit (f : Field) : Word64 :=
  BitVec.ofNat 64 (f.value.toNat + place f.bits 32 + place f.tag.code 38 + place (bnat f.ack) 40 + place (bnat f.parityBad) 41 +
    place (bnat f.stopBad) 42 + place f.offset 43)

/-- A stack position above the top. -/
def emptyFieldUnit : Word64 := BitVec.ofNat 64 (place 3 38)

/-- The code of a protocol kind. -/
def Proto.code : Proto → Nat
  | .none => 0
  | .async .. => 1
  | .clocked .. => 2
  | .twoWire => 3
  | .pulse .. => 4

/-- At least one field of the record is ERRORED. -/
def Emission.errored (e : Emission) : Bool := e.fields.any (fun f => f.tag == .errored)

/-- The largest length of a frame that its record holds. -/
def maxFrameLength : Nat := 2 ^ 40 - 1

/-- The three header units of a frame record. -/
def frameHeader (k : Fin 4) (proto : Proto) (lostBefore replayed : Bool) (endTick : Tick) (rels : List (Option Relation)) (e : Emission) :
    List Word64 :=
  [BitVec.ofNat 64 (k.val + place proto.code 2 + place e.fields.length 8 + place (bnat e.split) 16 + place (bnat e.continues) 17 +
     place (bnat e.fields.isEmpty) 18 + place (bnat e.interrupted) 19 + place (bnat e.errored) 20 + place (bnat lostBefore) 21 +
     place (bnat replayed) 22 + place e.seqNo.toNat 32),
   BitVec.zeroExtend 64 e.start,
   BitVec.ofNat 64 (min (ticksFrom e.start endTick) maxFrameLength + place (boundMask rels) 40 + place (relationBits rels) 48)]

/-- A frame record: header units, then the fields bottom to top. -/
def frameRecord (k : Fin 4) (proto : Proto) (lostBefore replayed : Bool) (endTick : Tick) (rels : List (Option Relation)) (e : Emission) :
    List Word64 :=
  frameHeader k proto lostBefore replayed endTick rels e ++ e.fields.map Field.unit

/-! ## The ring (R127 to R131) -/

/-- The state with lane `k` replaced. -/
def State.setLaneAt (s : State) (k : Fin 4) (l : Lane) : State := { s with lanes := s.lanes.set k l }

/-- A record of the lane counted lost (R129, R131). -/
def Lane.loses (l : Lane) : Lane := { l with lost := satSucc l.lost max32, lostBefore := true }

/-- The address of unit number `c` of the count (R127). -/
def Lane.unitAddr (l : Lane) (c : Nat) : Nat := l.ringAddr + 8 * (c % l.capacity)

/-- The store of a record at the written count. -/
def State.ringStore (s : State) (k : Fin 4) (units : List Word64) : Stored :=
  storeUnits .laneRing (fun i => (s.lanes.get k).unitAddr ((s.lanes.get k).written.toNat + i)) units 0 s.shared s.failPlan

/-- The lane after its record is written. -/
def Lane.wrote (l : Lane) (n : Nat) : Lane :=
  { l with
    written := l.written + BitVec.ofNat 32 n
    lostBefore := false
    tripArmed := l.tripArmed && decide ((l.written + BitVec.ofNat 32 n - l.returned).toNat ≤ l.trip) }

/-- A record is written to the ring (R127): the written count advances, lost before is cleared and the fill trip is taken (R130).
A failed store loses the record and raises LINK (R131). -/
def State.ringWrite (s : State) (k : Fin 4) (units : List Word64) : State :=
  let l := s.lanes.get k
  let w := s.ringStore k units
  let after := if w.failed then l.loses else l.wrote units.length
  { s with
    shared := w.mem
    failPlan := w.plan
    lanes := s.lanes.set k after
    alerts := (s.alerts.raiseIf w.failed .link).raiseIf (!w.failed && l.tripArmed && !after.tripArmed) .lane }

/-- A record finds no room: fewer free units than its size, or earlier replay records waiting (R129). -/
def Lane.noRoom (l : Lane) (units : List Word64) : Bool := decide (l.freeUnits < units.length) || !l.pendingRecs.isEmpty

/-- A record is offered to the ring (R127, R129, R131). A replay record that finds no room waits; where one interval emits several, each waits behind the
one before it: the model's choice (notes/assumptions/23.md). -/
def State.ringOffer (s : State) (k : Fin 4) (live : Bool) (units : List Word64) : State :=
  let l := s.lanes.get k
  if l.suspended then s.setLaneAt k l.loses
  else if l.noRoom units then
    (if live then s.setLaneAt k l.loses else s.setLaneAt k { l with pendingRecs := l.pendingRecs ++ [units] })
  else s.ringWrite k units

/-- The offer of a live record is refused for want of space, which raises RING FULL (R129). -/
def Lane.ringFull (l : Lane) (live : Bool) (units : List Word64) : Bool := live && !l.suspended && l.noRoom units

/-- Waiting replay records are written while they fit, at most `fuel` of them (R128, R129). -/
def State.writePending (s : State) (k : Fin 4) : Nat → State
  | 0 => s
  | fuel + 1 =>
    match (s.lanes.get k).pendingRecs with
    | [] => s
    | units :: rest =>
      if (s.lanes.get k).freeUnits < units.length then s
      else
        let s1 := s.ringWrite k units
        (s1.setLaneAt k { s1.lanes.get k with pendingRecs := rest }).writePending k fuel

/-- A mark fits: it is not behind the returned count nor ahead of the written count (R128). -/
def Lane.takesMark (l : Lane) (mark : BitVec 32) : Bool :=
  l.state != .off && decide ((mark - l.returned).toNat ≤ (l.written - l.returned).toNat)

/-- The lane with an accepted mark: the fill trip is armed again at the trip level or below (R128, R130). -/
def Lane.marked (l : Lane) (mark : BitVec 32) : Lane :=
  { l with returned := mark, tripArmed := l.tripArmed || decide ((l.written - mark).toNat ≤ l.trip) }

/-- Lane `k` is handed its return mark (R128). -/
def State.handMark (s : State) (k : Fin 4) (mark : BitVec 32) : State :=
  if (s.lanes.get k).takesMark mark then
    (s.setLaneAt k ((s.lanes.get k).marked mark)).writePending k (s.lanes.get k).pendingRecs.length
  else s

/-! ## Exceptions (R132) -/

/-- An unmasked exception of the set reaches a lane that is ATTACHED or REPLAYING. -/
def Lane.holdsOn (l : Lane) (excs : BitVec 7) : Bool :=
  excs &&& ~~~l.excMask != 0 && (l.state == .attached || l.state == .replaying)

/-- The lane after a set of exceptions is raised. -/
def Lane.raised (l : Lane) (excs : BitVec 7) : Lane :=
  { l with
    sticky := l.sticky ||| excs
    state := if l.holdsOn excs then .held else l.state
    heldReplay := if l.holdsOn excs then l.state == .replaying else l.heldReplay }

/-- A set of exceptions of lane `k` is raised (R132). -/
def State.raiseExcs (s : State) (k : Fin 4) (excs : BitVec 7) : State :=
  { s with
    lanes := s.lanes.set k ((s.lanes.get k).raised excs)
    alerts := s.alerts.raiseIf ((s.lanes.get k).holdsOn excs) .lane }

/-! ## What a decoder gives out -/

/-- The take being recorded notes that lane `k` inserts a record into it (R168). -/
def State.noteLane (s : State) (k : Fin 4) : State :=
  match s.recordingIndex with
  | none => s
  | some i => s.setTake i { s.takeAt i with laneRecords := (s.takeAt i).laneRecords ||| bit 4 k.val }

/-- Lane `k` inserts a FRAME OPEN or FRAME CLOSE into the stream (R125, R126). A record that staging then discards counts as inserted, as in R17
(the model's reading, notes/assumptions/27.md). -/
def State.insertFrame (s : State) (k : Fin 4) (t : Tick) (b : RecBody) : State := (s.noteLane k).insert t b

/-- Lane `k` emits a record in the interval of time `t` (R125): relations, ring offer, FRAME CLOSE. The exceptions it raises are in `emitExcs`. The replay
frame count runs modulo 2^32: the model's choice (notes/assumptions/36.md). -/
def State.emit (s : State) (k : Fin 4) (live : Bool) (t : Tick) (e : Emission) : State :=
  let l := s.lanes.get k
  let rels := relationsOf s.slots k e.fields
  let s1 := (s.relationsToSeq k rels).ringOffer k live (frameRecord k l.config.proto l.lostBefore (!live) t rels e)
  if live then s1.insertFrame k t (.frameClose k e.errored e.split e.interrupted e.fields.isEmpty rels)
  else s1.setLaneAt k { s1.lanes.get k with replayFrames := ((s1.lanes.get k).replayFrames + 1) % 2 ^ 32 }

/-- The exceptions an emission itself raises: UNORDERED and RING FULL. -/
def State.emitExcs (s : State) (k : Fin 4) (live : Bool) (t : Tick) (e : Emission) : BitVec 7 :=
  let l := s.lanes.get k
  (if strictUnordered s.slots k e.fields then Exc.bits .unordered else 0) |||
    (if l.ringFull live (frameRecord k l.config.proto l.lostBefore (!live) t (relationsOf s.slots k e.fields) e) then Exc.bits .ringFull else 0)

/-- One thing a decoder gives out, with the exceptions gathered so far. -/
def State.laneOut (k : Fin 4) (live : Bool) (t : Tick) (x : State × BitVec 7) (o : LaneOut) : State × BitVec 7 :=
  match o with
  | .opened => (if live then x.1.insertFrame k t (.frameOpen k) else x.1, x.2)
  | .raised e => (x.1, x.2 ||| e.bits)
  | .emitted e => (x.1.emit k live t e, x.2 ||| x.1.emitExcs k live t e)

/-- Everything a decoder step gives out: the state and the exceptions still to raise. -/
def State.laneOuts (s : State) (k : Fin 4) (live : Bool) (t : Tick) (d : DecStep) : State × BitVec 7 :=
  d.outs.foldl (State.laneOut k live t) (s.setLaneAt k { s.lanes.get k with dec := d.dec }, 0)

/-- A decoder step of lane `k` with its exceptions raised after it (R132). -/
def State.laneStep (s : State) (k : Fin 4) (live : Bool) (t : Tick) (d : DecStep) : State :=
  (s.laneOuts k live t d).1.raiseExcs k (s.laneOuts k live t d).2

/-- Lane `k` takes one interval (R114): the position advances to its time. -/
def State.laneInterval (s : State) (k : Fin 4) (live : Bool) (exp : Nat) (t : Tick) (levels unknown : Chans) : State :=
  let s1 := s.setLaneAt k { s.lanes.get k with position := t, resumedAt := none }
  s1.laneStep k live t ((s.lanes.get k).dec.interval (s.lanes.get k).config exp t levels unknown)

/-- Lane `k` takes a gap notice (R121). -/
def State.laneGap (s : State) (k : Fin 4) (live : Bool) (t : Tick) : State := s.laneStep k live t (s.lanes.get k).dec.gapNotice

/-- A lane takes the vector of the interval of time `t`: it is ATTACHED, and no RESUME LANE of that interval put it there (R136). -/
def Lane.takesVector (l : Lane) (t : Tick) : Bool := l.state == .attached && l.resumedAt != some t

/-- Every ATTACHED lane takes the interval (R114). A HELD lane takes nothing (R133). The FRAME OPEN and FRAME CLOSE records of several lanes in one interval enter
staging in lane order 0 to 3: the model's choice (R42, R126, notes/assumptions/35.md). -/
def State.liveInterval (s : State) (t : Tick) (levels unknown : Chans) : State :=
  fourOrder.foldl (fun s k =>
    if (s.lanes.get k).takesVector t then s.laneInterval k true s.sampler.intervalExp t levels unknown else s) s

/-- Every ATTACHED lane takes a gap notice (R40), in lane order: the model's choice (notes/assumptions/35.md). -/
def State.liveGap (s : State) (t : Tick) : State :=
  fourOrder.foldl (fun s k => if (s.lanes.get k).state = .attached then s.laneGap k true t else s) s

/-- The open frame of lane `k` is closed with INTERRUPTED, if one is open: the state and the exceptions to raise (R124). -/
def State.closeInterrupted (s : State) (k : Fin 4) (live : Bool) (t : Tick) : State × BitVec 7 :=
  if (s.lanes.get k).dec.inFrame then
    s.laneOuts k live t (DecStep.close ⟨(s.lanes.get k).dec, []⟩ (s.lanes.get k).config.proto true)
  else (s, 0)

/-! ## Attachment and detachment (R113) -/

/-- A lane considered at a take's entry to PRETRIG with channel list `m` and id `id`. -/
def Lane.considered (l : Lane) (m : Chans) (id : Nat) : Lane :=
  if l.state = .idle ∧ l.config.live then
    (if l.config.within m then { l with state := .attached, attached := id, channelsAbsent := false, dec := l.dec.hunting, resumedAt := none }
     else { l with channelsAbsent := true })
  else l

/-- Every lane is considered for attachment (R113). -/
def State.attachLanes (s : State) (m : Chans) (id : Nat) : State := { s with lanes := s.lanes.map (fun l => l.considered m id) }

/-- Lane `k` leaves the take it is attached to, in the interval of the ending (R113): its open frame closes with INTERRUPTED and the
exceptions of that close act on it still attached, then it is detached. -/
def State.detachLane (s : State) (t : Tick) (k : Fin 4) : State :=
  if (s.lanes.get k).attached = 0 then s
  else
    let c := s.closeInterrupted k true t
    let s1 := c.1.raiseExcs k c.2
    let l := s1.lanes.get k
    s1.setLaneAt k { l with attached := 0, state := if l.state = .attached then .idle else l.state, dec := l.dec.hunting }

/-- Every lane attached to the ending take leaves it; the frames they close enter staging in lane order 0 to 3: the model's choice (notes/assumptions/35.md). -/
def State.detachLanes (s : State) (t : Tick) : State := fourOrder.foldl (fun s k => s.detachLane t k) s

/-! ## Replaying lanes (R137) -/

/-- A lane named by a REPLAY that starts. -/
def Lane.startsReplay (l : Lane) : Lane :=
  { l with state := .replaying, dec := { l.dec.hunting with seqNo := 0 }, replayFrames := 0 }

/-- A replay ends for the lane by cancellation or abandonment: what it gathered is discarded and pending records are lost. -/
def Lane.cancelsReplay (l : Lane) : Lane :=
  { l with
    state := .idle
    dec := l.dec.hunting
    pendingRecs := []
    lost := satAdd l.lost l.pendingRecs.length max32
    lostBefore := l.lostBefore || !l.pendingRecs.isEmpty }

/-- A lane makes the replay engine wait: HELD from the replay, or with a record waiting for room (R129, R134). -/
def Lane.pauses (l : Lane) : Bool := (l.state == .held && l.heldReplay) || (l.state == .replaying && !l.pendingRecs.isEmpty)

/-! ## Orders -/

/-- The lane an accepted SET LANE leaves (R112): of every kind it clears the sticky flags (R132). Kind NONE clears the configuration, the ring and the counts,
but not the replay frame count, which the next replay sets to 0: the model's choice (notes/assumptions/20.md). -/
def Lane.configured (l : Lane) (p : SetLaneP) : Lane :=
  if p.kind = 0 then
    { l with
      state := .off
      config := LaneConfig.reset
      sticky := 0
      ringAddr := 0
      capacity := 0
      written := 0
      returned := 0
      lost := 0
      trip := 0
      tripArmed := true }
  else
    { l with
      state := .idle
      config := p.config
      channelsAbsent := false
      dec := Decoder.reset
      sticky := 0
      excMask := BitVec.ofNat 7 p.excMask
      ringAddr := p.ringAddr
      capacity := p.capacity
      written := BitVec.ofNat 32 p.startCount
      returned := BitVec.ofNat 32 p.startCount
      lost := 0
      lostBefore := false
      trip := p.trip
      tripArmed := true
      pendingRecs := [] }

/-- SET LANE (R112). It hands the lane's counts to the page (R138). -/
def setLaneOrder (p : SetLaneP) (s : State) : Reply :=
  if !p.valid then refuse s .badField
  else if (s.lanes.get (fin4 p.lane)).atWork then refuse s .busy
  else accept ((s.setLaneAt (fin4 p.lane) ((s.lanes.get (fin4 p.lane)).configured p)).hands [unitLane (fin4 p.lane), unitLaneLost (fin4 p.lane)])

/-- The code of a lane state. -/
def LaneState.code : LaneState → Nat
  | .off => 0
  | .idle => 1
  | .attached => 2
  | .replaying => 3
  | .held => 4

/-- The stack as eight field units. -/
def stackUnits (fs : List Field) : List Word64 := fs.map Field.unit ++ List.replicate (8 - fs.length) emptyFieldUnit

/-- The word in progress as a unit. -/
def WordIP.unit (w : WordIP) : Word64 :=
  BitVec.ofNat 64 (w.value.toNat + place w.bits 32 + place (bnat w.ack) 40 + place (bnat w.parityBad) 41 + place (bnat w.stopBad) 42 +
    place (bnat w.taint) 43)

/-- The SNAPSHOT LANE result (R135, spec/11). -/
def Lane.snapshot (l : Lane) : List Word64 :=
  [BitVec.ofNat 64 (l.state.code + place (bnat l.heldReplay) 8 + place l.attached 16 + place (bnat l.dec.inFrame) 24 +
     place l.dec.stack.length 32 + place (bnat l.dec.continues) 40 + place (bnat (!l.pendingRecs.isEmpty)) 41 +
     place (if l.dec.inFrame then l.dec.seqNo.toNat else 0) 48),
   (if l.dec.inFrame then BitVec.zeroExtend 64 l.dec.frameStart else 0),
   l.dec.word.unit,
   BitVec.zeroExtend 64 l.dec.word.start,
   BitVec.ofNat 64 (l.sticky.toNat + place l.excMask.toNat 8),
   BitVec.zeroExtend 64 l.position,
   BitVec.ofNat 64 (l.written.toNat + place l.returned.toNat 32),
   BitVec.ofNat 64 l.lost] ++ stackUnits l.dec.stack

/-- SNAPSHOT LANE (R135): the result, then every exception masked. -/
def snapshotLaneOrder (p : SnapshotLaneP) (s : State) : Reply :=
  if !inRange p.lane 0 3 then refuse s .badField
  else
    ⟨s.setLaneAt (fin4 p.lane) { s.lanes.get (fin4 p.lane) with excMask := 0x7F }, some .ok, (s.lanes.get (fin4 p.lane)).snapshot⟩

/-- The lane with flags cleared and its mask written (R136). -/
def Lane.remasked (l : Lane) (p : ResumeLaneP) : Lane :=
  { l with sticky := l.sticky &&& ~~~(BitVec.ofNat 7 p.clear), excMask := BitVec.ofNat 7 p.excMask }

/-- A HELD lane goes back to work (R136): a live attached one closes its frozen frame in the present interval, enters ATTACHED in HUNTING, takes vectors
again from the next interval, and only then takes the close's exceptions. -/
def State.resumeHeld (s : State) (k : Fin 4) : State :=
  let l := s.lanes.get k
  if l.heldReplay then s.setLaneAt k { l with state := .replaying }
  else if l.attached = 0 then s.setLaneAt k { l with state := .idle }
  else
    let c := s.closeInterrupted k true s.intervalTime
    let s1 := c.1.setLaneAt k
      { c.1.lanes.get k with state := .attached, dec := (c.1.lanes.get k).dec.hunting, resumedAt := some s.intervalTime }
    s1.raiseExcs k c.2

/-- The units a RESUME LANE changes: a HELD lane's state, or a sticky flag that it clears (R138). -/
def Lane.resumedUnits (l : Lane) (p : ResumeLaneP) : List Nat :=
  if l.state = .held ∨ (l.remasked p).sticky ≠ l.sticky then [unitLane (fin4 p.lane)] else []

/-- RESUME LANE (R136). The page is handed the lane's state and flags before the exceptions of the frame it closes change them again (R138). -/
def resumeLaneOrder (p : ResumeLaneP) (s : State) : Reply :=
  if !p.valid then refuse s .badField
  else if (s.lanes.get (fin4 p.lane)).state = .off then refuse s .wrongState
  else
    let s1 := (s.setLaneAt (fin4 p.lane) ((s.lanes.get (fin4 p.lane)).remasked p)).hands ((s.lanes.get (fin4 p.lane)).resumedUnits p)
    accept (if (s.lanes.get (fin4 p.lane)).state = .held then s1.resumeHeld (fin4 p.lane) else s1)

/-! ## A frame that runs out of idle (R116, R117, R120) -/

/-- The time of the interval a lane stands in: the sampler's for a live lane, the last one it took for a replaying lane. -/
def State.laneTime (s : State) (k : Fin 4) : Tick :=
  if (s.lanes.get k).state = .attached then s.intervalTime else (s.lanes.get k).position

/-- The interval exponent of a lane's work: the capture's, or that of the take replayed. -/
def State.laneExp (s : State) (k : Fin 4) : Nat :=
  if (s.lanes.get k).state = .attached then s.sampler.intervalExp
  else match s.takeIndex s.replay.takeId with
    | none => 0
    | some i => (s.takeAt i).intervalExp

/-- The idle measure of lane `k` runs out: nothing holds its frame open, and the lane is handed intervals. -/
def State.laneIdles (s : State) (k : Fin 4) : Bool :=
  ((s.lanes.get k).state == .attached || (s.lanes.get k).state == .replaying) && !(s.lanes.get k).dec.afterGap &&
    (s.lanes.get k).dec.idleRunsOut (s.lanes.get k).config (s.laneExp k) (s.laneTime k)

/-- The frame of lane `k` closes by its protocol if its idle measure runs out. -/
def State.laneIdleExpiry (s : State) (k : Fin 4) : State :=
  if s.laneIdles k then
    s.laneStep k ((s.lanes.get k).state == .attached) (s.laneTime k)
      (DecStep.close ⟨(s.lanes.get k).dec, []⟩ (s.lanes.get k).config.proto false)
  else s

end Sys2Proof.Machine
end

