-- ==== Sys2Proof/Machine/Render.lean ====
section
/-! DEFINITION. Machine/Render.lean: the trace renderer (spec/09, 9.1 to 9.5): generations, their reading under holds, revocation, completion, RENDER. -/

namespace Sys2Proof.Machine

/-! ## The renderer's take and table -/

/-- The address of the target table. -/
def Renderer.target (r : Renderer) : Nat := if r.targetB then r.tableB else r.tableA

/-- The last tick of the window. -/
def Renderer.winLast (r : Renderer) : Nat := r.winStart + r.cols * r.width - 1

/-- The first tick of column `c` (R166). -/
def Renderer.colFirst (r : Renderer) (c : Nat) : Nat := r.winStart + c * r.width

/-- The last tick of column `c` (R166). -/
def Renderer.colLast (r : Renderer) (c : Nat) : Nat := r.winStart + (c + 1) * r.width - 1

/-- The take the renderer reads. -/
def State.renderTake (s : State) : Take :=
  match s.takeIndex s.render.takeId with
  | none => Take.reset
  | some i => s.takeAt i

/-- What the cells are made from. -/
def State.cellSource (s : State) : CellSource where
  k := s.renderTake.intervalExp
  list := s.renderTake.channels
  openPods := s.render.openPods
  span := s.render.span
  parts := s.render.parts ++ [s.render.cur]
  revoked := s.render.revoked
  trigger := s.render.trigTick
  silent := s.render.silent

/-- The target is the table the panel shows. -/
def State.targetShown (s : State) : Bool := s.panel.shown == some s.render.target

/-! ## Completion (R170) -/

/-- The RENDER result (spec/11). -/
def Renderer.result (r : Renderer) : List Word64 :=
  match r.lastGen with
  | none => [BitVec.ofNat 64 r.completed, 0]
  | some g =>
    [BitVec.ofNat 64 (r.completed + place (bnat g.tableB) 32 + place 1 33 + place (bnat g.outOfSpan) 34 + place (bnat g.stale) 35),
     BitVec.ofNat 64 g.number]

/-- The renderer IDLE with no order; its generation counter and the number of its last whole generation stay. -/
def Renderer.idled (r : Renderer) : Renderer :=
  { r with state := .idle, order := none, held := none, sealPending := false, finalDue := false }

/-- The current RENDER ends with an outcome: its hold drops when an access in flight has completed, its result is written, the renderer is IDLE. -/
def State.endRender (s : State) (oc : Outcome) : State :=
  let s1 := s.endRight .renderer s.render.held
  let s2 : State := { s1 with render := s1.render.idled }
  match s.render.order with
  | none => s2
  | some o => s2.complete o .render oc s.render.result

/-- A write to a target table fails (R170): LINK is raised and the order completes with LINK FAULT. -/
def State.renderFault (s : State) : State := (s.raise .link).endRender .linkFault

/-! ## Writing the table -/

/-- Stores of cells, up to the first that fails. -/
def storeCells : List (Nat × BitVec 16) → Mem → List (LinkAccess × Nat) → Stored
  | [], m, plan => ⟨m, plan, false⟩
  | (a, x) :: rest, m, plan =>
    if (takeAccess .columnTable plan).1 then ⟨m, (takeAccess .columnTable plan).2, true⟩
    else storeCells rest (m.putBytes a [byteOf x.toNat 0, byteOf x.toNat 1]) (takeAccess .columnTable plan).2

/-- The cells of one column, for every trace from number `t` on. -/
def columnCells (c : CellSource) (table cols col a b : Nat) : List TraceSel → Nat → List (Nat × BitVec 16)
  | [], _ => []
  | tr :: rest, t => (cellAddr table cols t col, (c.cell tr a b).bits) :: columnCells c table cols col a b rest (t + 1)

/-- The cells of some columns. -/
def State.cellsOf (s : State) (columns : List Nat) : List (Nat × BitVec 16) :=
  columns.flatMap (fun col => columnCells s.cellSource s.render.target s.render.cols col (s.render.colFirst col) (s.render.colLast col) s.render.traces 0)

/-- The cells of some columns are written. A failed write ends the order. -/
def State.writeColumns (s : State) (columns : List Nat) : State :=
  let w := storeCells (s.cellsOf columns) s.shared s.failPlan
  let s1 : State := { s with shared := w.mem, failPlan := w.plan }
  if w.failed then s1.renderFault else s1

/-- Some column lies wholly outside the span. -/
def State.outOfSpan (s : State) : Bool :=
  (List.range s.render.cols).any (fun c => s.cellSource.whollyOut (s.render.colFirst c) (s.render.colLast c))

/-- The header of the target table with a generation number. -/
def State.headerUnits (s : State) (generation : Nat) (outOfSpan stale : Bool) : List Word64 :=
  tableHeader generation s.render.cols s.render.traces.length s.render.winStart s.render.width outOfSpan stale

/-- The header is written, from unit number `from_` on and round to the unit before it. A failed write ends the order. -/
def State.writeHeader (s : State) (from_ generation : Nat) (outOfSpan stale : Bool) : State :=
  let us := s.headerUnits generation outOfSpan stale
  let w := storeUnits .columnTable (fun i => s.render.target + 8 * ((i + from_) % 4)) (us.drop from_ ++ us.take from_) 0 s.shared s.failPlan
  let s1 : State := { s with shared := w.mem, failPlan := w.plan }
  if w.failed then s1.renderFault else s1

/-! ## Reading -/

/-- The renderer's hold on the live take is revocable while that take is in PRETRIG or POSTTRIG (R63). -/
def State.renderRevocable (s : State) : Bool := s.renderTake.sampling

/-- The ticks from the one the rebuild has reached up to before `t` are lost (R169). -/
def lostUpTo (reached t : Nat) : List (Nat × Nat) := if reached < t then [(reached, t - 1)] else []

/-- The renderer moves its hold to block `b`. -/
def State.renderHolds (s : State) (b : Nat) : State :=
  let s1 := (s.dropHoldOpt s.render.held true).placeHold b s.renderRevocable
  { s1 with render := { s1.render with held := some b, index := 0 } }

/-- The renderer lets its hold go: nothing is left to read. -/
def State.renderLetsGo (s : State) : State :=
  let s1 := s.dropHoldOpt s.render.held true
  { s1 with render := { s1.render with held := none } }

/-- The renderer goes to the front of the sealed sequence, by a SCAN when blocks before it were dropped (R151, R169). When no block of the span is left,
the rest of the span is lost. Blocks of the span dropped before the rebuild has read them, held or not, as while the generation was WAITING FRAME, are lost
with their ticks: the model's choice (notes/assumptions/27.md). -/
def State.renderToFront (s : State) : State :=
  match s.render.span, s.takeIndex s.render.takeId with
  | some (_, l), some i =>
    match s.frontBlock i with
    | some b =>
      if s.render.spanLastSeq < (s.takeAt i).firstSeq then
        { s.renderLetsGo with render := { s.renderLetsGo.render with revoked := s.render.revoked ++ lostUpTo s.render.reached (l + 1) } }
      else
        match s.pool.block b with
        | none => s.renderLetsGo
        | some e =>
          let recycled := decide ((s.takeAt i).firstSeq ≠ 0)
          let s1 := s.renderHolds b
          { s1 with
            render := { s1.render with
              revoked := s.render.revoked ++ lostUpTo s.render.reached e.firstTick.toNat
              reached := max s.render.reached e.firstTick.toNat
              scanning := recycled
              scanned := []
              cur := ⟨e.firstTick.toNat, recycled, noFaults, []⟩ } }
    | none => { s.renderLetsGo with render := { s.renderLetsGo.render with revoked := s.render.revoked ++ lostUpTo s.render.reached (l + 1) } }
  | _, _ => s.renderLetsGo

/-- The renderer takes its position at the front, once a withdrawn access of it has completed (R62, R65). -/
def State.renderPosition (s : State) : State := if s.staleAccess .renderer then s else s.renderToFront

/-- The SCAN ends: the front state is in force and the renderer reads from the front; a front dropped meanwhile is scanned anew. -/
def State.renderScanned (s : State) : State :=
  let again := match s.takeIndex s.render.takeId with
    | none => none
    | some i =>
      match s.frontBlock i with
      | none => none
      | some b => (match s.pool.block b with | none => none | some e => if e.firstTick.toNat = s.render.cur.start then some b else none)
  match again with
  | none => s.renderToFront
  | some b =>
    let s1 := s.renderHolds b
    { s1 with render := { s1.render with scanning := false, scanned := [], cur := { s1.render.cur with front := frontFaults s.render.scanned } } }

/-- The renderer moves to the block after one of sequence number `seq`. -/
def State.renderNextBlock (s : State) (seq : Nat) : State :=
  match s.pool.find s.render.takeId ((seq + 1) % 2 ^ 32) with
  | none => s.renderLetsGo
  | some b => s.renderHolds b

/-- The records one access delivers: up to 64 from the reader's index on (R64). -/
def burst (b : Block) (k index : Nat) : List TimedRec := ((b.timed k).drop index).take Config.readerBurst

/-- The time of the last of some records. -/
def lastTimeOf (rs : List TimedRec) (t : Nat) : Nat :=
  match rs.getLast? with
  | none => t
  | some r => r.time

/-- An access during the SCAN. -/
def State.renderScanAccess (s : State) (e : Block) (rs : List TimedRec) : State :=
  let scanned := s.render.scanned ++ rs
  let atEnd := decide (e.recordCount ≤ s.render.index + rs.length)
  let s1 : State := { s with render := { s.render with scanned := scanned, index := s.render.index + rs.length } }
  if (scanNotes .plain noNotes scanned).full || (atEnd && decide (s.render.spanLastSeq ≤ e.seqNo)) then s1.renderScanned
  else if atEnd then s1.renderNextBlock e.seqNo
  else s1

/-- The columns whose cells the rebuild has passed are written (R165). -/
def State.renderProgress (s : State) : State :=
  let lim := s.render.cur.limit s.renderTake.intervalExp
  let n := min s.render.cols ((lim - s.render.winStart) / s.render.width)
  let s1 := s.writeColumns ((List.range n).filter (fun c => s.render.colsWritten ≤ c))
  { s1 with render := { s1.render with colsWritten := max s.render.colsWritten n } }

/-- An access of the rebuild: records are taken, and reading stops past the window or at the span's end (R165). -/
def State.renderReadAccess (s : State) (e : Block) (rs : List TimedRec) : State :=
  let atEnd := decide (e.recordCount ≤ s.render.index + rs.length)
  let reached := max s.render.reached (lastTimeOf rs 0)
  let s1 : State :=
    { s with render := { s.render with
        cur := { s.render.cur with records := s.render.cur.records ++ rs }
        index := s.render.index + rs.length
        reached := reached } }
  if s.render.winLast < s1.render.cur.limit s.renderTake.intervalExp || (atEnd && decide (s.render.spanLastSeq ≤ e.seqNo)) then s1.renderLetsGo
  else (if atEnd then s1.renderNextBlock e.seqNo else s1).renderProgress

/-- The renderer's access completes with its data. -/
def State.renderAccess (s : State) : State :=
  match s.render.held with
  | none => s
  | some b =>
    match s.pool.block b with
    | none => s
    | some e =>
      let rs := burst e s.renderTake.intervalExp s.render.index
      if s.render.scanning then s.renderScanAccess e rs else s.renderReadAccess e rs

/-! ## Generations -/

/-- The number after generation `n`: after 2^32−1 it wraps to 1 (R162). -/
def nextGeneration (n : Nat) : Nat := if n = max32 then 1 else n + 1

/-- The lanes that have inserted no record into a take (R168). -/
def Take.silentLanes (t : Take) : BitVec 4 := ~~~t.laneRecords

/-- A generation starts (R165, R171): its number, its span and its target are fixed; a target that is shown makes it wait and write nothing. The page is
handed the renderer's fields (R178). -/
def State.genStart (s : State) : State :=
  let r := s.render
  let targetB := if r.started then !r.targetB else false
  let t := s.renderTake
  let span := s.recordedSpan t
  { s with
    report := s.report.handing [unitPanel, unitGeneration]
    render := { r with
      state := if r.live && s.panel.shown == some (if targetB then r.tableB else r.tableA) then .waitingFrame else .building
      targetB := targetB
      started := true
      number := r.nextGen
      nextGen := nextGeneration r.nextGen
      isFinal := r.live && r.finalDue
      finalDue := false
      sealPending := false
      span := span
      spanLastSeq := t.firstSeq + t.sealedCount - 1
      held := none
      index := 0
      scanning := false
      scanned := []
      reached := (match span with | none => 0 | some (f, _) => f)
      parts := []
      cur := RenderPart.empty
      revoked := []
      trigTick := t.trigger.map (fun p => p.tick.toNat)
      openPods := t.openPods
      silent := t.silentLanes
      colsWritten := 0 } }

/-- A generation in BUILDING opens its table with generation 0, that unit first, and goes to the front of the take (R165). The flags OUT OF SPAN and STALE PRESENT
are clear in this header, and stay so in the table of a generation that is stopped: the model's choice (notes/assumptions/27.md). -/
def State.genOpen (s : State) : State :=
  let s1 := s.writeHeader 0 0 false false
  if s1.render.order.isNone then s1 else s1.renderPosition

/-- The generation is whole: it is recorded, a live one becomes pending, and the page is handed the renderer's fields (R171, R175, R178). The generations
completed run modulo 2^32: the model's choice (notes/assumptions/36.md). -/
def State.genDone (s : State) (out stale : Bool) : State :=
  let r := s.render
  { s with
    report := s.report.handing [unitPanel, unitGeneration]
    render := { r with
      state := .idle
      completed := (r.completed + 1) % 2 ^ 32
      lastGen := some ⟨r.number, r.targetB, out, stale⟩
      lastWhole := r.number }
    panel := { s.panel with pendingTable := if r.live then some (r.target, false) else s.panel.pendingTable } }

/-- The generation ends (R165): the cells not yet written and those of revoked ticks, then the whole header, the unit with the generation number last, so
that a failed write leaves it 0 (R170); the order of a stored take or of a final generation completes with OK. -/
def State.genClose (s : State) : State :=
  let out := s.outOfSpan
  let stale := !s.render.revoked.isEmpty
  let s1 := s.writeColumns ((List.range s.render.cols).filter
    (fun c => s.render.colsWritten ≤ c || s.cellSource.stale (s.render.colFirst c) (s.render.colLast c)))
  if s1.render.order.isNone then s1
  else
    let s2 := s1.writeHeader 1 s.render.number out stale
    if s2.render.order.isNone then s2
    else
      let s3 := s2.genDone out stale
      if !s.render.live || s.render.isFinal then s3.endRender .ok else s3

/-- The renderer goes on as far as it can without the port: a generation with nothing left to read ends, and the next one that is owed starts (R171). -/
def State.renderRun (s : State) : Nat → State
  | 0 => s
  | fuel + 1 =>
    if s.render.order.isNone then s
    else match s.render.state with
      | .waitingFrame => s
      | .building => if s.render.held.isSome || s.staleAccess .renderer then s else s.genClose.renderRun fuel
      | .idle =>
        if s.render.live && (s.render.finalDue || s.render.sealPending) then
          (if s.genStart.render.state = .building then s.genStart.genOpen else s.genStart).renderRun fuel
        else s

/-- Enough for a generation that ends, a next one and the final one. -/
def renderFuel : Nat := 12

/-- A generation that waits compares its target again (R171). -/
def State.renderRecheck (s : State) : State :=
  if s.render.state = .waitingFrame ∧ !s.targetShown then
    (State.genOpen { s with render := { s.render with state := .building } }).renderRun renderFuel
  else s

/-- A live RENDER bound to take `id` is in flight. -/
def State.renderBound (s : State) (id : Nat) : Bool := s.render.order.isSome && s.render.live && s.render.takeId == id

/-- The bound take seals a block (R171): an idle renderer starts a generation, a busy one sets seal pending. -/
def State.renderSeal (s : State) (id : Nat) : State :=
  if s.renderBound id then (State.renderRun { s with render := { s.render with sealPending := true } } renderFuel) else s

/-- The bound take enters ENDED (R171): final due is set and seal pending cleared. -/
def State.renderFinal (s : State) (id : Nat) : State :=
  if s.renderBound id then (State.renderRun { s with render := { s.render with finalDue := true, sealPending := false } } renderFuel) else s

/-- The renderer after an access that completes. -/
def State.renderAccessed (s : State) : State := s.renderAccess.renderRun renderFuel

/-- The renderer after a withdrawn access has completed: a generation that waited for that takes its position. -/
def State.renderResume (s : State) : State :=
  if s.render.state = .building ∧ s.render.held = none then s.renderPosition.renderRun renderFuel else s

/-! ## Revocation (R63, R169) -/

/-- The renderer holds block `b` revocably. -/
def State.revocableHold (s : State) (b : Nat) : Bool :=
  match s.pool.block b with
  | none => false
  | some e => e.revocable && s.render.held == some b

/-- The first tick behind a revoked block at which more of the span can be lost: that of the take's next block if that belongs to the span, and never one of
the revoked block. The ticks in between hold no record and are not lost (R169). -/
def State.lossResumes (s : State) (e : Block) : Nat :=
  if e.seqNo < s.render.spanLastSeq then
    match s.pool.blockOf s.render.takeId ((e.seqNo + 1) % 2 ^ 32) with
    | none => e.lastTick.toNat + 1
    | some n => max (e.lastTick.toNat + 1) n.firstTick.toNat
  else e.lastTick.toNat + 1

/-- What the revoked ticks gain in the SCAN: what stood before block `e` that the rebuild has not reached, blocks dropped unheld while the SCAN held this one
(the model's choice, notes/assumptions/27.md). The rebuild itself has read what stands before the block it holds. -/
def Renderer.unreadBefore (r : Renderer) (e : Block) : List (Nat × Nat) := if r.scanning then lostUpTo r.reached e.firstTick.toNat else []

/-- The renderer's right to block `b` is withdrawn: the ticks from its first to its last are lost (R169). Behind them every level and frame state is unknown, up to
the new front's first tick and from there on; no tick behind the block is lost with it. -/
def State.revoke (s : State) (b : Nat) : State :=
  match s.pool.block b with
  | none => s
  | some e =>
    { s with
      pool := s.pool.setBlock b (e.unheld true)
      render := { s.render with
        held := none
        revoked := s.render.revoked ++ s.render.unreadBefore e ++ [(e.firstTick.toNat, e.lastTick.toNat)]
        reached := max s.render.reached (s.lossResumes e)
        parts := s.render.parts ++ [s.render.cur, ⟨e.lastTick.toNat + 1, true, noFaults, []⟩]
        cur := ⟨e.lastTick.toNat + 1, true, noFaults, []⟩ } }

/-- A read of block `b` that the renderer was granted is in flight: it completes before anything takes the block away (R63, R65). -/
def State.renderReads (s : State) (b : Nat) : Bool :=
  match s.pool.inFlight with
  | none => false
  | some g => g.client == .renderer && (if g.stale then g.drops == some b else s.render.held == some b)

/-- The block whose drop waits for the access in flight. -/
def State.waitingDrop (s : State) : Option Nat := s.pool.inFlight.bind (fun g => g.frees)

/-- After the drop the renderer goes on with the new front (R169). -/
def State.renderAfterDrop (s : State) : State := s.renderPosition.renderRun renderFuel

/-! ## RENDER (R163, R164) -/

/-- The take a RENDER names. -/
def State.renderSource (s : State) (p : RenderP) : Option Nat :=
  if p.source = 0 then s.capIndex
  else match s.takeIndex p.source with
    | none => none
    | some i => if (s.takeAt i).state = .ended then some i else none

/-- Table `a` is the panel's shown or pending table. -/
def State.panelHas (s : State) (a : Nat) : Bool :=
  s.panel.shown == some a || (match s.panel.pendingTable with | none => false | some (x, _) => x == a)

/-- The renderer with a new order of take `id`. -/
def Renderer.ordered (r : Renderer) (o : OrderRef) (p : RenderP) (id : Nat) : Renderer :=
  { Renderer.reset with
    order := some o
    live := p.source == 0
    takeId := id
    winStart := p.winStart
    width := p.width
    cols := p.cols
    traces := p.traceList
    tableA := p.tableA
    tableB := if p.source = 0 then p.tableB else 0
    nextGen := r.nextGen
    lastWhole := r.lastWhole }

/-- The first generation of a new order starts at once (R164). -/
def State.renderStart (s : State) (o : OrderRef) (p : RenderP) (i : Nat) : State :=
  let s1 : State := { s with render := s.render.ordered o p (s.takeAt i).id }
  (if s1.genStart.render.state = .building then s1.genStart.genOpen else s1.genStart).renderRun renderFuel

/-- RENDER (R163, R164): an accepted one supersedes the one in flight. -/
def renderOrder (o : OrderRef) (p : RenderP) (s : State) : Reply :=
  if !p.valid then refuse s .badField
  else match s.renderSource p with
    | none => refuse s .noSuchTake
    | some i =>
      if s.panelHas p.tableA || (p.source == 0 && s.panelHas p.tableB) then refuse s .busy
      else inFlight ((s.endRender .superseded).renderStart o p i)

end Sys2Proof.Machine
end

