-- ==== Sys2Proof/Machine/Sequencer.lean ====
section
/-! DEFINITION. Machine/Sequencer.lean: the trigger sequencer by itself (spec/05): terms, occurrences, windows, actions, the return stack, and
SET SEQUENCE. What its steps give out is a list; SeqRun.lean carries it out. -/

namespace Sys2Proof.Machine

/-! ## Terms (R90 to R93) -/

/-- What the sequencer judges in one interval. -/
structure SeqInput where
  levels : Chans
  known : Chans
  prevLevels : Chans
  prevKnown : Chans
  events : SeqEvents

/-- The levels before and now differ in the direction. -/
def EdgeDir.holds (d : EdgeDir) (before now : Bool) : Bool :=
  match d with
  | .rising => !before && now
  | .falling => before && !now
  | .either => before != now

/-- The term holds in the interval. -/
def Term.holds (x : SeqInput) : Term → Bool
  | .pattern mask value => (x.levels ^^^ value) &&& mask == 0 && mask &&& ~~~x.known == 0
  | .edge c d => x.known.getLsbD c && x.prevKnown.getLsbD c && d.holds (x.prevLevels.getLsbD c) (x.levels.getLsbD c)
  | .relation slot rels => x.events.rels.any (fun e => e.1 == slot && rels.getLsbD e.2.code)
  | .podFault p => x.events.pods.getLsbD p.val

/-- An event term holds only in the interval of its event. -/
def Term.isEvent : Term → Bool
  | .pattern .. => false
  | _ => true

/-- The stage's condition (R94). -/
def Stage.condition (st : Stage) (x : SeqInput) : Bool :=
  if st.anyOf then st.terms.any (Term.holds x) else st.terms.all (Term.holds x)

/-- An event term of the stage holds. -/
def Stage.eventHolds (st : Stage) (x : SeqInput) : Bool := st.terms.any (fun t => t.isEvent && t.holds x)

/-- An occurrence (R94). -/
def Stage.occurrence (st : Stage) (x : SeqInput) (heldBefore : Bool) : Bool :=
  st.condition x && (!heldBefore || st.eventHolds x)

/-! ## Actions (R98, R99, R101) -/

/-- What a sequencer step gives out, beside its new state. -/
inductive SeqOut where
  | markStage (stage : Nat)
  | stimulus (a : Option (Bool × Fin 4))
  | fire (stage : Nat)
deriving DecidableEq, Repr

/-- A sequencer and what it has given out. -/
structure SeqStep where
  seq : Sequencer
  outs : List SeqOut

/-- A stage that never is met, for an index beyond the table. -/
def Stage.blank : Stage := ⟨[], true, 0, 0, 0, .restart, 0, 0, .restart, 0, .restart, 0, false, none⟩

/-- The current stage. -/
def Sequencer.cur (q : Sequencer) : Stage := q.stages.getD q.stage Stage.blank

/-- Stage `n` is entered in the interval of time `t` and is first evaluated in the next (R98). -/
def Sequencer.enter (q : Sequencer) (k : Nat) (t : Tick) (n : Nat) : Sequencer :=
  { q with stage := n, count := 0, heldBefore := false, firstPending := true, startTime := tickAdd t (2 ^ k) }

/-- A push on the return stack, newest first: a fourth entry discards the oldest and sets STACK LOST (R99). -/
def Sequencer.push (q : Sequencer) (n : Nat) : Sequencer :=
  { q with stack := (n :: q.stack).take 3, stackLost := q.stackLost || decide (3 ≤ q.stack.length) }

/-- An action of a path in the interval of time `t` (R99, R101). A FIRE of a search restarts the sequencer after its hit (R107). -/
def Sequencer.act (q : Sequencer) (k : Nat) (search : Bool) (t : Tick) (a : StageAction) (target resume : Nat) : SeqStep :=
  match a with
  | .next => ⟨q.enter k t target, []⟩
  | .enter => ⟨(q.push resume).enter k t target, []⟩
  | .ret =>
    match q.stack with
    | [] => ⟨{ q with stackEmpty := true }.enter k t 0, []⟩
    | n :: rest => ⟨{ q with stack := rest }.enter k t n, []⟩
  | .fire => if search then ⟨{ q with stack := [] }.enter k t 0, [.fire q.stage]⟩ else ⟨q, [.fire q.stage]⟩
  | .restart => ⟨{ q with stack := [] }.enter k t 0, []⟩

/-- The mark of a path that takes the mark flag; a search writes none (R102, R106). -/
def Sequencer.markOut (q : Sequencer) (search : Bool) : List SeqOut := if q.cur.mark && !search then [.markStage q.stage] else []

/-- The stimulus action of a met stage; a search takes none (R103, R106). -/
def Sequencer.stimOut (q : Sequencer) (search : Bool) : List SeqOut := if q.cur.stimulus.isSome && !search then [.stimulus q.cur.stimulus] else []

/-- The count is reached in the interval of time `t`: early before the window minimum, else met (R96). -/
def Sequencer.early (q : Sequencer) (t : Tick) : Bool := q.cur.winMin != 0 && decide (ticksFrom q.startTime t < q.cur.winMin)

/-- The stage resolves in the interval in which its count is reached (R95, R96). -/
def Sequencer.resolve (q : Sequencer) (k : Nat) (search : Bool) (t : Tick) : SeqStep :=
  if q.early t then
    let r := q.act k search t q.cur.earlyAction q.cur.earlyTarget 0
    ⟨r.seq, q.markOut search ++ r.outs⟩
  else
    let r := q.act k search t q.cur.metAction q.cur.metTarget q.cur.resume
    ⟨r.seq, q.markOut search ++ q.stimOut search ++ r.outs⟩

/-- The late path in the interval of time `t` (R97, R101). -/
def Sequencer.late (q : Sequencer) (k : Nat) (search : Bool) (t : Tick) : SeqStep :=
  q.act k search t q.cur.lateAction q.cur.lateTarget 0

/-! ## Evaluation -/

/-- The sequencer's events are taken. -/
def Sequencer.noEvents (q : Sequencer) : Sequencer := { q with events := SeqEvents.none }

/-- What the sequencer judges with a vector and the events handed over. -/
def Sequencer.input (q : Sequencer) (levels known : Chans) : SeqInput := ⟨levels, known, q.prevLevels, q.prevKnown, q.events⟩

/-- The interval of time `t` lies before the current stage is first evaluated: it was entered in an interval just passed (R98). -/
def Sequencer.ahead (q : Sequencer) (k : Nat) (t : Tick) : Bool :=
  decide (0 < ticksFrom t q.startTime ∧ ticksFrom t q.startTime ≤ 2 * 2 ^ k)

/-- The sequencer past an interval it does not evaluate, because the current stage is first evaluated later (R98). -/
def Sequencer.passed (q : Sequencer) (levels known : Chans) : Sequencer :=
  { q with prevLevels := levels, prevKnown := known, inGap := false, events := SeqEvents.none }

/-- The interval of time `t` is evaluated with its vector (R90 to R97): it ends a gap span and becomes the previous levels. -/
def Sequencer.evaluate (q : Sequencer) (k : Nat) (search : Bool) (t : Tick) (levels known : Chans) : SeqStep :=
  if q.ahead k t then ⟨q.passed levels known, []⟩ else
  let x := q.input levels known
  let occ := q.cur.occurrence x q.heldBefore
  let q1 : Sequencer :=
    { q with
      heldBefore := q.cur.condition x
      prevLevels := levels
      prevKnown := known
      inGap := false
      firstPending := false
      count := if occ then q.count + 1 else q.count
      events := SeqEvents.none
      evaluated := some ⟨t, levels, known, q.prevLevels, q.prevKnown, q.heldBefore, q.events, occ⟩ }
  if occ && q.count + 1 == q.cur.count then q1.resolve k search t else ⟨q1, []⟩

/-- Events of two moments of one interval. -/
def SeqEvents.union (a b : SeqEvents) : SeqEvents := ⟨a.rels ++ b.rels, a.pods ||| b.pods⟩

/-- An event that arrives after its interval was evaluated is judged with that interval's vector, unless the stage was entered there (R92, R93, R95). Where a
gap span has begun behind that interval, held before stays clear (R98). -/
def Sequencer.evaluateLate (q : Sequencer) (k : Nat) (search : Bool) (e : Evaluated) : SeqStep :=
  let ev := e.events.union q.events
  let x : SeqInput := ⟨e.levels, e.known, e.prevLevels, e.prevKnown, ev⟩
  if q.firstPending then ⟨q.noEvents, []⟩
  else
    let occ := q.cur.occurrence x e.heldBefore && !e.counted
    let q1 : Sequencer :=
      { q with
        heldBefore := !q.inGap && q.cur.condition x
        count := if occ then q.count + 1 else q.count
        events := SeqEvents.none
        evaluated := some { e with events := ev, counted := e.counted || occ } }
    if occ && q.count + 1 == q.cur.count then q1.resolve k search e.time else ⟨q1, []⟩

/-- The grid interval in which the maximum of the current stage is judged (R97). -/
def Sequencer.judgeTime (q : Sequencer) (k : Nat) : Tick := tickAdd q.startTime ((q.cur.winMax + 2 ^ k - 1) / 2 ^ k * 2 ^ k)

/-- The maximum of the current stage is judged at or before the interval of time `t`. -/
def Sequencer.maxDue (q : Sequencer) (k : Nat) (t : Tick) : Bool :=
  q.state == .running && q.cur.winMax != 0 && !q.ahead k t && decide (ticksFrom q.startTime (q.judgeTime k) ≤ ticksFrom q.startTime t)

/-- A gap notice (R98). -/
def Sequencer.gapNotice (q : Sequencer) : Sequencer :=
  { q with inGap := true, heldBefore := false, prevKnown := 0, events := SeqEvents.none }

/-! ## Runs (R105, R107, R108) -/

/-- A run starts at stage 0, first evaluated in the interval of time `t`. -/
def Sequencer.begin (q : Sequencer) (serving : Serving) (takeId : Nat) (t : Tick) : Sequencer :=
  { q with
    state := .running
    serving := serving
    servingTake := takeId
    stage := 0
    firstPending := true
    startTime := t
    count := 0
    heldBefore := false
    prevLevels := 0
    prevKnown := 0
    inGap := false
    stack := []
    stackLost := false
    stackEmpty := false
    events := SeqEvents.none
    evaluated := none }

/-- The trigger is taken: DONE, the current stage left where it was (R86, R105). -/
def Sequencer.finished (q : Sequencer) : Sequencer :=
  { q with state := .done, events := SeqEvents.none, evaluated := none }

/-- The run, or the claim of a take that never ran, ends: LOADED with the claim dropped, flags kept (R105, R108). -/
def Sequencer.released (q : Sequencer) : Sequencer :=
  { q with
    state := .loaded
    serving := .none
    servingTake := 0
    stage := 0
    firstPending := false
    stack := []
    events := SeqEvents.none
    evaluated := none }

/-! ## The stage on the page (R109) -/

/-- The code of a sequencer state (spec/11, 11.1). -/
def SeqState.code : SeqState → Nat
  | .unloaded => 0
  | .loaded => 1
  | .running => 2
  | .done => 3

/-- The current stage is handed over now (R109): at entry to DONE or LOADED, or when 10 µs have passed since it was last written. -/
def Report.stageDue (r : Report) (q : Sequencer) (now : Tick) : Bool :=
  let entered := r.seqState != q.state.code && (q.state == .done || q.state == .loaded)
  let changed := r.stage != q.stage || r.depth != q.stack.length
  let free := match r.stageWritten with
    | none => true
    | some t => decide (Config.stageReportGap ≤ ticksFrom t now)
  entered || (changed && free)

/-- The report writer learns how the sequencer stands: stage and stack depth are handed over if they are due, or if `all` is (R109). -/
def Report.handStage (r : Report) (q : Sequencer) (now : Tick) (all : Bool) : Report :=
  { r with
    seqState := q.state.code
    stage := if all || r.stageDue q now then q.stage else r.stage
    depth := if all || r.stageDue q now then q.stack.length else r.depth
    stageWritten := if all || r.stageDue q now then some now else r.stageWritten }

/-- The sequencer goes on to `q`, and the report writer learns its stage (R109). -/
def State.seqTo (s : State) (q : Sequencer) : State := { s with seq := q, report := s.report.handStage q s.tick false }

/-! ## SET SEQUENCE (R88) -/

/-- SET SEQUENCE. -/
def setSequenceOrder (p : SetSequenceP) (s : State) : Reply :=
  if !p.valid then refuse s .badField
  else if s.seq.state == .running || s.seq.state == .done then refuse s .busy
  else accept { s with seq := { s.seq with state := .loaded, stages := (p.stages.take p.count).map StageP.stage } }

end Sys2Proof.Machine
end

