-- ==== Sys2Proof/Machine/Takes.lean ====
section
/-! DEFINITION. Machine/Takes.lean: the capture writer, the take table and its orders (spec/03, 3.4; spec/04): entry to PRETRIG, writing and sealing,
the trigger, the ending, ENDED, ARM, STOP, FORCE, TAKE STATUS. -/

namespace Sys2Proof.Machine

/-! ## The summary (R80, spec/11) -/

/-- The code of a take state. -/
def TakeState.code : TakeState → Nat
  | .empty => 0
  | .waiting => 1
  | .pretrig => 2
  | .posttrig => 3
  | .ended => 4
  | .releasing => 5

/-- The code of a trigger mode. -/
def TrigMode.code : TrigMode → Nat
  | .sequence => 0
  | .immediate => 1
  | .forceOnly => 2

/-- The code of an end reason, 0 for absent. -/
def endReasonCode : Option EndReason → Nat
  | none => 0
  | some .filled => 1
  | some .short => 2
  | some .stopped => 3
  | some .faulted => 4

/-- The code of a trigger source. -/
def TrigSource.code : TrigSource → Nat
  | .sequence => 1
  | .force => 2
  | .immediate => 3

/-- The trigger unit of a summary: tick, source, in-gap, place present. -/
def triggerUnit : Option TrigPos → Word64
  | none => 0
  | some p => BitVec.ofNat 64 (p.tick.toNat + place p.source.code 56 + place (bnat p.inGap) 60 + place (bnat p.place.isSome) 61)

/-- The place unit of a summary. -/
def placeUnit : Option TrigPos → Word64
  | some ⟨_, _, some (seq, idx), _⟩ => BitVec.ofNat 64 (seq + place idx 32)
  | _ => 0

/-- The take summary of ARM and TAKE STATUS; `filling` tells whether a filling block is held. -/
def Take.summary (t : Take) (filling : Bool) : List Word64 :=
  [BitVec.ofNat 64 (t.id + place t.state.code 8 + place t.mode.code 16 + place (bnat t.idleSpan.isSome) 24 + place (endReasonCode t.endReason) 32 +
     place (bnat t.stackLost) 40 + place (bnat t.stackEmpty) 41 + place (bnat t.ending) 42 + place (bnat (t.capturing && filling)) 43 +
     place t.openPods.toNat 48 + place t.intervalExp 56),
   BitVec.ofNat 64 (t.channels.toNat + place (t.idleSpan.getD 0) 32 + place t.depth 48),
   BitVec.ofNat 64 (t.share + place t.sealedCount 16 + place t.firstSeq 32),
   BitVec.ofNat 64 (t.lost + place t.gaps 32),
   triggerUnit t.trigger,
   placeUnit t.trigger]

/-! ## Entry to ENDED (R78) -/

/-- The revocable flags of a take's blocks cleared, their holds kept (R63). -/
def Pool.unrevocable (p : Pool) (id : Nat) : Pool :=
  { p with blocks := p.blocks.map (fun e => (e.1, if e.2.takeId = id then { e.2 with revocable := false } else e.2)) }

/-- The end of a take as a place: its last sealed block, and an index equal to that block's record count (R74). -/
def State.endPlace (s : State) (t : Take) : Option (Nat × Nat) := ((s.sealedBlocks t).getLast?).map (fun b => (b.seqNo, b.recordCount))

/-- A trigger position whose MARK was never written is placed at the end of the take, in-gap (R74). -/
def Take.placedAtEnd (t : Take) (endPlace : Option (Nat × Nat)) : Take :=
  { t with trigger := t.trigger.map (fun p => if p.place.isSome then p else { p with place := endPlace, inGap := true }) }

/-- The outcome of a take's ARM order (R78). -/
def armOutcome : Option EndReason → Outcome
  | some .filled => .ok
  | some .stopped => .ok
  | _ => .partly

/-- STOP orders complete with OK. -/
def State.completeStops (s : State) (os : List OrderRef) : State := os.foldl (fun s o => s.complete o .stop .ok []) s

/-- The ARM order of a take, if it is still in flight, completes with the summary. -/
def State.completeArm (s : State) (t : Take) : State :=
  match t.armOrder with
  | none => s
  | some o => s.complete o .arm (armOutcome t.endReason) (t.summary false)

/-- The entry of take `i` in ENDED. -/
def State.endedEntry (s : State) (i : Nat) : Take :=
  { (s.takeAt i).placedAtEnd (s.endPlace (s.takeAt i)) with state := .ended, armOrder := none, stops := [] }

/-- Take entry `i` enters ENDED (R78). -/
def State.enterEnded (s : State) (i : Nat) : State :=
  let t := s.endedEntry i
  let s1 : State := { s.setTake i t with pool := s.pool.unrevocable t.id }
  let s2 := (s1.completeArm { t with armOrder := (s.takeAt i).armOrder }).completeStops (s.takeAt i).stops
  (s2.raise .take).renderFinal t.id

/-- An ending take whose records have left staging and whose last block is settled (R78): no drop of a block of it waits for a read (R63). -/
def State.readyToEnd (s : State) (i : Nat) : Bool :=
  (s.takeAt i).ending && s.staging.records.isEmpty && s.writer.filling.isNone && s.waitingDrop.isNone

/-! ## Dropping pre-trigger blocks (R71) -/

/-- Block `b`, the front block of take entry `i`, is dropped; a revocable hold on it is revoked and the renderer goes on with the new front. -/
def State.dropBlock (s : State) (i b : Nat) : State :=
  if s.revocableHold b then ((s.revoke b).freeFront i b).renderAfterDrop else s.freeFront i b

/-- The drop of block `b` waits for the renderer's read in flight (R63, R65). -/
def State.dropWaits (s : State) (b : Nat) : State :=
  { s with pool := { s.pool with inFlight := s.pool.inFlight.map (fun g => { g with frees := some b }) } }

/-- The front block of take entry `i` is dropped, at once or when the renderer's read of it has completed. -/
def State.dropFront (s : State) (i : Nat) : State :=
  match s.frontBlock i with
  | none => s
  | some b => if s.renderReads b then s.dropWaits b else s.dropBlock i b

/-- The drop of block `b` that waited takes place, in the take it is the front block of. -/
def State.dropWaited (s : State) (b : Nat) : State :=
  match s.pool.block b with
  | none => s
  | some e => (match s.takeIndex e.takeId with | none => s | some i => if s.frontBlock i = some b then s.dropBlock i b else s)

/-- The ring check after a seal in PRETRIG. -/
def State.ringCheck (s : State) (i : Nat) : State := if (s.takeAt i).share < (s.takeAt i).sealedCount then s.dropFront i else s

/-! ## Settling the last block (R50, R78) -/

/-- The filling block with a record appended (R49). -/
def Block.append (b : Block) (r : CapRec) (t : Tick) : Block :=
  { b with records := b.records ++ [r], firstTick := if b.records.isEmpty then t else b.firstTick, lastTick := t }

/-- The trigger position placed at a record that carries it: the MARK FIRE, or the GAP of the overflow that lost it (R74). -/
def Take.placedBy (t : Take) (body : RecBody) (seq idx : Nat) : Take :=
  match t.trigger, body with
  | some p, .mark _ false => if p.place.isSome then t else { t with trigger := some { p with place := some (seq, idx) } }
  | some p, .gap _ false true _ => if p.place.isSome then t else { t with trigger := some { p with place := some (seq, idx), inGap := true } }
  | _, _ => t

/-- A record of time `t` is written into the filling block `b` of take entry `i`. -/
def State.putRecord (s : State) (i b : Nat) (r : CapRec) (t : Tick) : State :=
  match s.pool.block b with
  | none => s
  | some e =>
    { s with
      pool := s.pool.setBlock b (e.append r t)
      writer := { s.writer with lastTime := t }
      takes := { s.takes with entries := putAt s.takes.entries i ((s.takeAt i).placedBy r.body e.seqNo e.recordCount) } }

/-- The time of a block-start ANCHOR: the grid origin for a take's first block, else the time of the last record of the block before (R49). The first block
is told by its sequence number 0, so that a block numbered 0 again after 2^32−1 counts as first: the model's choice (notes/assumptions/36.md). -/
def State.blockStartTime (s : State) (e : Block) : Tick := if e.seqNo = 0 then s.sampler.origin else s.writer.lastTime

/-- A record of time `t` is written, behind the block-start ANCHOR if it is the block's first and no ANCHOR itself (R49). -/
def State.writeRecord (s : State) (i b : Nat) (r : CapRec) (t : Tick) : State :=
  match s.pool.block b with
  | none => s
  | some e =>
    if e.records.isEmpty && !r.body.isAnchor then
      (s.putRecord i b ⟨0, .anchor (s.blockStartTime e)⟩ (s.blockStartTime e)).putRecord i b r t
    else s.putRecord i b r t

/-- The places left in the filling block. -/
def State.placesLeft (s : State) : Nat :=
  match s.writer.filling with
  | none => 0
  | some b =>
    match s.pool.block b with
    | none => 0
    | some e => Config.blockRecords - e.recordCount

/-- The closing GAP of a take that ends in OVERFLOW, if the filling block has a place left (R50). Where R41 wants an ANCHOR before it the two need two
places: with one place left no GAP is written (the model's choice, notes/assumptions/25.md). -/
def State.closingGap (s : State) (i : Nat) : State :=
  match s.writer.filling with
  | none => s
  | some b =>
    let t := s.recordTime (s.takeAt i).endTime
    let far := decide (Config.maxDelta < s.deltaAt t)
    if !s.staging.overflow || s.placesLeft < (if far then 2 else 1) then s
    else if far then (s.writeRecord i b ⟨0, .anchor t⟩ t).writeRecord i b ⟨0, s.staging.gapBody⟩ t
    else s.writeRecord i b ⟨s.deltaAt t, s.staging.gapBody⟩ t

/-- The staging FIFO empty and in NORMAL (R50). -/
def Staging.emptied (f : Staging) : Staging := Staging.rearm { f.normal with records := [] }

/-- The staged records of an ending take are discarded, counted if `counted` (R50). -/
def State.discardStaged (s : State) (i : Nat) (counted : Bool) : State :=
  let lost := if counted then satAdd (s.takeAt i).lost s.staging.fill max32 else (s.takeAt i).lost
  { s with
    staging := s.staging.emptied
    takes := { s.takes with entries := putAt s.takes.entries i { s.takeAt i with lost := lost } }
    report :=
      let r := s.report.handFill s.staging.fill 0
      if (s.takeAt i).lost / 256 < lost / 256 then r.handLost (lost / 256 * 256) else r }

/-- The last block of an ending take is settled: sealed if it holds a record, else back to FREE; in PRETRIG the ring check follows (R60, R71, R78). -/
def State.settleLast (s : State) (i : Nat) : State :=
  match s.writer.filling with
  | none => s
  | some b =>
    match s.pool.block b with
    | none => s
    | some e =>
      if e.records.isEmpty then s.freeFilling b
      else
        let s1 := (s.sealBlock i b).renderSeal (s.takeAt i).id
        if (s.takeAt i).state = .pretrig then s1.ringCheck i else s1

/-- The drain of an ending take is over once staging is empty or the block is full: closing GAP, what did not fit discarded, last block settled. -/
def State.settleIfDrained (s : State) (i : Nat) : State :=
  if s.staging.records.isEmpty || s.placesLeft == 0 then
    (((s.closingGap i).discardStaged i true)).settleLast i
  else s

/-! ## Taking an ending (R77) -/

/-- A pod in WATCH whose wake timer is not running loads it (R3, R5). -/
def Pod.wakes (p : Pod) (now : Tick) : Pod :=
  if p.power = .watch ∧ p.wakeTimer = none then { p with wakeTimer := some (tickAdd now (p.wakeSpan * Config.ticksPerUs)) } else p

/-- A pod's fault records marked not open in any take (R17). -/
def Pod.closeRecords (p : Pod) : Pod :=
  let f := fun (r : SourceRec) => { r with openRec := none }
  { p with sources := ⟨f p.sources.overLimit, f p.sources.under, f p.sources.middle, f p.sources.lost, f p.sources.hot⟩ }

/-- What the end of a take with channel list `m` does to pod `p` (R3, R9, R17). -/
def Pod.atTakeEnd (pod : Pod) (p : Fin 4) (m : Chans) (now : Tick) : Pod :=
  if podIn p m then (pod.closeRecords.applyStaged).wakes now else pod.closeRecords.applyStaged

/-- The four pods at the end of a take. -/
def State.podsAtEnd (s : State) (m : Chans) : Four Pod :=
  ⟨s.pods.n0.atTakeEnd 0 m s.tick, s.pods.n1.atTakeEnd 1 m s.tick, s.pods.n2.atTakeEnd 2 m s.tick, s.pods.n3.atTakeEnd 3 m s.tick⟩

/-- The sampler IDLE at a take's end (R39). -/
def Sampler.stopped (p : Sampler) : Sampler := { p with state := .idle, idleTimer := none, restateDue := false }

/-- The sequencer at the ending of take `id`: its claim is dropped (R105). -/
def Sequencer.atTakeEnd (q : Sequencer) (id : Nat) : Sequencer := if q.serving = .capture ∧ q.servingTake = id then q.released else q

/-- The interval in which an ending is taken; a take in WAITING has no grid yet. -/
def State.endingTime (s : State) (i : Nat) : Tick := if (s.takeAt i).state = .waiting then s.tick else s.intervalTime

/-- The sources and sharers of take entry `i` are told that sampling is over (R77). The sequencer is told before the lanes close their frames, so that the
relations of those closes find no run: the model's choice among the two orders of R147 (notes/assumptions/25.md). -/
def State.takeEnding (s : State) (i : Nat) (reason : EndReason) : State :=
  let id := (s.takeAt i).id
  let at_ := s.endingTime i
  let s1 := State.detachLanes { s with seq := s.seq.atTakeEnd id } at_
  { s1 with
    takes := { s1.takes with
      entries := putAt s1.takes.entries i
        { s1.takeAt i with endReason := some reason, endTime := at_, openPods := s1.openFaultPods } }
    sampler := if (s.takeAt i).state = .waiting then s1.sampler else s1.sampler.stopped
    pods := s1.podsAtEnd (s.takeAt i).channels }

/-- A take reaches its ending (R77, R78): in WAITING it is ENDED at once; FILLED and SHORT discard what is staged; STOPPED and FAULTED drain it. -/
def State.endTake (s : State) (i : Nat) (reason : EndReason) : State :=
  if !(s.takeAt i).capturing || (s.takeAt i).endReason.isSome then s
  else
    let s1 := s.takeEnding i reason
    if (s.takeAt i).state = .waiting then s1.enterEnded i
    else match reason with
      | .filled => s1.discardStaged i false
      | .short => s1.discardStaged i true
      | .stopped => s1.settleIfDrained i
      | .faulted => s1.settleIfDrained i

/-! ## The capture writer (R49) -/

/-- After a seal in PRETRIG: the ring check, the drop on an empty free list, the next block (R71, R72). -/
def State.afterSealPretrig (s : State) (i : Nat) : State :=
  let s1 := s.ringCheck i
  (if s1.pool.free.isEmpty then s1.dropFront i else s1).acquire i

/-- After a seal in POSTTRIG: FILLED at depth D, SHORT on an empty free list, else the next block (R76). -/
def State.afterSealPosttrig (s : State) (i : Nat) : State :=
  if (s.takeAt i).depth ≤ (s.takeAt i).sealedCount then s.endTake i .filled
  else if s.pool.free.isEmpty then s.endTake i .short
  else s.acquire i

/-- The full filling block `b` of a take that is not ending is sealed (R60). -/
def State.sealFull (s : State) (i b : Nat) : State :=
  let s1 := (s.sealBlock i b).renderSeal (s.takeAt i).id
  if (s.takeAt i).state = .pretrig then s1.afterSealPretrig i else s1.afterSealPosttrig i

/-- The FIFO without its oldest record. -/
def Staging.drained (f : Staging) : Staging := Staging.rearm { f with records := f.records.drop 1 }

/-- The staging FIFO is replaced, and the page is handed its fill as R56 gives. -/
def State.withStaging (s : State) (f : Staging) : State := { s with staging := f, report := s.report.handFill s.staging.fill f.fill }

/-- The oldest staged record is written into the filling block of take entry `i`; recovery from OVERFLOW (R46) and a full block (R60) follow. Where one
drain brings both, the recovery comes first: the model's choice (notes/assumptions/25.md). -/
def State.drainOne (s : State) (i b : Nat) (e : Staged) : State :=
  let s1 := State.writeRecord (s.withStaging s.staging.drained) i b e.record e.time
  if (s.takeAt i).endReason.isSome then s1.settleIfDrained i
  else
    let s2 := if s1.staging.overflow && s1.staging.fill ≤ Config.recoveryFill then s1.recover i s1.intervalTime else s1
    if s2.placesLeft = 0 then s2.sealFull i b else s2

/-- The capture writer waits for the port: it has a filling block and a record to drain (R64). -/
def State.writerWaits (s : State) : Bool := s.writer.filling.isSome && !s.staging.records.isEmpty && s.capIndex.isSome

/-- A port grant serves the capture writer (R49). -/
def State.writerAccess (s : State) : State :=
  match s.capIndex, s.writer.filling, s.staging.records with
  | some i, some b, e :: _ => s.drainOne i b e
  | _, _, _ => s

/-! ## Entry to PRETRIG (R70) -/

/-- The sampler at a take's entry to PRETRIG (R39, R51). That the wake latch of an earlier take is emptied there is the model's choice
(notes/assumptions/30.md). -/
def Sampler.started (p : Sampler) (t : Take) (now : Tick) (latched : BitVec 4) : Sampler :=
  { p with
    state := .sampling
    intervalExp := t.intervalExp
    origin := now
    channels := t.channels
    streamTime := now
    restateDue := true
    idleTimer := t.idleSpan.map (fun n => tickAdd now (n * Config.ticksPerMs))
    idleSpan := t.idleSpan
    wakeLatch := none
    latched := latched
    wakingPods := 0
    wakingTrigger := false
    onAgain := none
    formedAt := none }

/-- A source in force at MARK AND END whose mask meets the channel list (R18). -/
def Pod.endsTake (pod : Pod) (p : Fin 4) (m : Chans) : Bool :=
  pod.sources.toList.any (fun r => r.active && r.action == .markAndEnd && r.mask &&& podBits p m != 0)

/-- Some pod ends a take with channel list `m` (R18). -/
def State.podsEnd (s : State) (m : Chans) : Bool := fourOrder.any (fun p => (s.pods.get p).endsTake p m)

/-- The units of the lanes that an attachment with channel list `m` and take id `id` changes (R138). -/
def State.attachedUnits (s : State) (m : Chans) (id : Nat) : List Nat :=
  (fourOrder.filter (fun k => (s.lanes.get k).considered m id != s.lanes.get k)).map unitLane

/-- A take of mode SEQUENCE has its run begin (R105), and the page is handed the sequencer's fields (R109). -/
def State.beginRun (s : State) (t : Take) : State :=
  if t.mode = .sequence then (s.hands [unitSeq]).seqTo (s.seq.begin .capture t.id s.tick) else s

/-- Take entry `i` enters PRETRIG: first block, sampler, fault restatement, sequencer, lanes (R70), then a MARK AND END source ends it (R18). What the entry
changes is handed to the page before that ending takes it back (R193). -/
def State.enterPretrig (s : State) (i : Nat) : State :=
  let t := s.takeAt i
  let s1 := (s.setTake i { t with state := .pretrig }).acquire i
  let s2 : State := { s1 with sampler := s1.sampler.started t s.tick s1.latchedPods }
  let s3 := s2.restateFaults SourceRec.entryFault s.tick
  let s4 := s3.beginRun t
  let s5 := (s4.attachLanes t.channels t.id).hands (s4.attachedUnits t.channels t.id)
  if s5.podsEnd t.channels then s5.endTake i .faulted else s5

/-- A pod has entered ON: a take in WAITING whose listed pods are all ON enters PRETRIG (R69). -/
def State.podIsOn (s : State) : State :=
  match s.capIndex with
  | none => s
  | some i =>
    if (s.takeAt i).state = .waiting ∧ s.podsOf (s.takeAt i).channels (fun p => p.power == .on) then s.enterPretrig i else s

/-! ## The trigger (R73) -/

/-- A take that a trigger finds in PRETRIG and not ending. -/
def Take.triggerable (t : Take) : Bool := t.state == .pretrig && t.endReason.isNone

/-- Every pod in WATCH loads its wake timer (R5). -/
def State.wakePods (s : State) : State := { s with pods := s.pods.map (fun p => p.wakes s.tick) }

/-- The sampler at the trigger: no more watching (R51); WATCH is left as at a wake edge, and in WAKING the GAP to come carries the trigger (R55). -/
def Sampler.triggered (p : Sampler) : Sampler :=
  { p with
    state := if p.state = .watch then .waking else p.state
    idleTimer := none
    wakingPods := if p.state = .watch then 0 else p.wakingPods
    wakingTrigger := if p.state = .watch then false else p.wakingTrigger || p.state == .waking
    onAgain := if p.state = .watch then none else p.onAgain }

/-- Take entry `i` is triggered in the interval of time `t` (R73): `stage` is the stage index of the MARK. -/
def State.trigger (s : State) (i : Nat) (src : TrigSource) (stage : Nat) (t : Tick) : State :=
  let s1 := s.setTake i { s.takeAt i with
    state := .posttrig, trigger := some ⟨t, src, none, s.sampler.state == .waking⟩ }
  let s2 := s1.insert t (.mark stage false)
  let s3 : State := { s2 with
    seq := if s2.seq.state = .running ∧ s2.seq.serving = .capture ∧ s2.seq.servingTake = (s.takeAt i).id then s2.seq.finished else s2.seq
    sampler := s2.sampler.triggered
    alerts := s2.alerts.raise .take }
  if s.sampler.state = .watch then (s3.liveGap t).wakePods else s3

/-- The stage index of a MARK the take table inserts (R73). -/
def State.runningStage (s : State) (id : Nat) : Nat :=
  if s.seq.state = .running ∧ s.seq.serving = .capture ∧ s.seq.servingTake = id then s.seq.stage else 0

/-! ## Orders -/

/-- The ids in the order an ARM tries them: from the next id on, counting on from 255 to 1 (R66). -/
def idsFrom (n : Nat) : List Nat := (List.range 255).map (fun j => (n - 1 + j) % 255 + 1)

/-- The first id at or after the next id that no entry holds. -/
def TakeTable.freshId (t : TakeTable) : Nat := ((idsFrom t.nextId).find? (fun n => !t.entries.any (fun e => e.id == n))).getD t.nextId

/-- The entry of an accepted ARM: the order's fields and a new id, every other field at its reset value (R68). -/
def armEntry (o : OrderRef) (p : ArmP) (id : Nat) : Take :=
  { Take.reset with
    id := id
    state := .waiting
    channels := BitVec.ofNat 32 p.channels
    intervalExp := p.intervalExp
    depth := p.depth
    share := p.share
    mode := trigModeOf p.mode
    idleSpan := if p.watch = 1 then some p.idleSpan else none
    armOrder := some o }

/-- The state with an accepted ARM's take in entry `i`, still waiting: the claim on the sequencer is made (R87). -/
def State.armed (s : State) (o : OrderRef) (p : ArmP) (i : Nat) : State :=
  let id := s.takes.freshId
  { s with
    takes := ⟨putAt s.takes.entries i (armEntry o p id), id % 255 + 1, id⟩
    seq := if p.mode = 0 then { s.seq with serving := .capture, servingTake := id } else s.seq }

/-- A pod that lets an ARM wait: WARMING, or in WATCH after an earlier take's end (R68). -/
def Pod.settling (p : Pod) : Bool := p.power == .warming || p.power == .watch

/-- ARM (R68). -/
def armOrder (o : OrderRef) (p : ArmP) (s : State) : Reply :=
  let m := BitVec.ofNat 32 p.channels
  if !p.valid then refuse s .badField
  else if s.capIndex.isSome || s.seq.serving == .search then refuse s .busy
  else match findIdxFrom (fun t => t.state == .empty) s.takes.entries 0 with
    | none => refuse s .noTakeSlot
    | some i =>
      if s.pool.freeCount < 2 then refuse s .noBlocks
      else if s.somePodOf m (fun pod => pod.power == .off || pod.latch) then refuse s .podOff
      else if p.mode = 0 ∧ s.seq.state = .unloaded then refuse s .wrongState
      else if s.somePodOf m Pod.settling then inFlight (s.armed o p i)
      else inFlight ((s.armed o p i).enterPretrig i)

/-- STOP (R79). -/
def stopOrder (o : OrderRef) (s : State) : Reply :=
  match s.capIndex with
  | none => refuse s .noSuchTake
  | some i => inFlight ((s.setTake i { s.takeAt i with stops := (s.takeAt i).stops ++ [o] }).endTake i .stopped)

/-- FORCE (R75). -/
def forceOrder (s : State) : Reply :=
  match s.capIndex with
  | none => refuse s .noSuchTake
  | some i =>
    if (s.takeAt i).triggerable then accept (s.trigger i .force (s.runningStage (s.takeAt i).id) s.intervalTime)
    else refuse s .wrongState

/-- The entry TAKE STATUS names: id 0 is the capturing take (R80). -/
def State.statusIndex (s : State) (id : Nat) : Option Nat := if id = 0 then s.capIndex else s.takeIndex id

/-- TAKE STATUS (R80). -/
def takeStatusOrder (p : TakeIdP) (s : State) : Reply :=
  if !inRange p.takeId 0 255 then refuse s .badField
  else match s.statusIndex p.takeId with
    | none => refuse s .noSuchTake
    | some i => ⟨s, some .ok, (s.takeAt i).summary s.writer.filling.isSome⟩

end Sys2Proof.Machine
end

