-- ==== Sys2Proof/Machine/SeqRun.lean ====
section
/-! DEFINITION. Machine/SeqRun.lean: the trigger sequencer at work in the part (R100 to R107): what its steps give out is carried out, its windows are
judged, and events that reach it late in an interval are judged there. -/

namespace Sys2Proof.Machine

/-- The largest count of further hits. -/
def maxFurther : Nat := max32

/-- A hit of the search (R107, R156). -/
def State.hit (s : State) (t : Tick) (stage : Nat) : State :=
  { s with replay := { s.replay with
      hits := if s.replay.hits.length < s.replay.capacity then s.replay.hits ++ [(t, stage)] else s.replay.hits
      furtherHits := if s.replay.hits.length < s.replay.capacity then s.replay.furtherHits else satSucc s.replay.furtherHits maxFurther } }

/-- A FIRE of a capture run: the serving take is triggered if it is in PRETRIG and not ending, else nothing happens (R100). -/
def State.fire (s : State) (t : Tick) (stage : Nat) : State :=
  match s.takeIndex s.seq.servingTake with
  | none => s
  | some i => if (s.takeAt i).triggerable then s.trigger i .sequence stage t else s

/-- One thing the sequencer gives out in the interval of time `t`. -/
def State.seqOut (search : Bool) (t : Tick) (s : State) (o : SeqOut) : State :=
  match o with
  | .markStage n => s.insert t (.mark n true)
  | .stimulus a => s.stageStimulus a
  | .fire n => if search then s.hit t n else s.fire t n

/-- The take entry with the sequencer's flags of its run (R104). -/
def Take.flagged (t : Take) (q : Sequencer) : Take :=
  { t with stackLost := t.stackLost || q.stackLost, stackEmpty := t.stackEmpty || q.stackEmpty }

/-- The flags of a capture run are set in the serving take's entry (R104). -/
def State.flagTake (s : State) : State :=
  match s.takeIndex s.seq.servingTake with
  | none => s
  | some i => if s.seq.serving = .capture then s.setTake i ((s.takeAt i).flagged s.seq) else s

/-- A sequencer step is carried out. -/
def State.seqStep (s : State) (search : Bool) (t : Tick) (x : SeqStep) : State :=
  x.outs.foldl (State.seqOut search t) (s.seqTo x.seq).flagTake

/-- The maxima due at or before the interval of time `t` are judged, each in its own interval; `fuel` bounds the stages passed. -/
def State.seqJudge (s : State) (search : Bool) (k : Nat) (t : Tick) : Nat → State
  | 0 => s
  | fuel + 1 =>
    if s.seq.maxDue k t then
      (s.seqStep search (s.seq.judgeTime k) (s.seq.late k search (s.seq.judgeTime k))).seqJudge search k t fuel
    else s

/-- The grid intervals from the stage start time on to `t`, a bound on the maxima due. -/
def Sequencer.judgeFuel (q : Sequencer) (k : Nat) (t : Tick) : Nat := if q.ahead k t then 0 else ticksFrom q.startTime t / 2 ^ k + 1

/-- The maxima due at or before the interval of time `t` are judged. -/
def State.seqJudgeTo (s : State) (search : Bool) (k : Nat) (t : Tick) : State := s.seqJudge search k t (s.seq.judgeFuel k t)

/-- The sequencer is RUNNING for the capture. -/
def State.captureRuns (s : State) : Bool := s.seq.state == .running && s.seq.serving == .capture

/-- The sequencer is RUNNING for the search. -/
def State.searchRuns (s : State) : Bool := s.seq.state == .running && s.seq.serving == .search

/-- The tick before `t` by one sample interval. -/
def intervalBefore (k : Nat) (t : Tick) : Tick := t - BitVec.ofNat 56 (2 ^ k)

/-- A capture run judges the maxima of the intervals before the one of time `t`, each in its own interval (R97, R98). -/
def State.seqEarlier (s : State) (t : Tick) : State :=
  if s.captureRuns then s.seqJudgeTo false s.sampler.intervalExp (intervalBefore s.sampler.intervalExp t) else s

/-- A capture run takes the vector of the interval of time `t`, after the maxima of earlier intervals (R97, R98). -/
def State.seqVector (s : State) (t : Tick) (levels unknown : Chans) : State :=
  let s1 := s.seqEarlier t
  if s1.captureRuns then
    s1.seqStep false t (s1.seq.evaluate s1.sampler.intervalExp false t levels (~~~unknown))
  else s1

/-- A capture run takes a gap notice (R98). -/
def State.seqGap (s : State) : State := { s with seq := if s.captureRuns then s.seq.gapNotice else s.seq }

/-- What a capture run makes of events that reached it after the present interval was evaluated: the interval of a wake sample too, behind which the gap span
starts (R53, R92, R93). -/
def State.lateEvents (s : State) : Option (Tick × SeqStep) :=
  if s.captureRuns && s.seq.events != SeqEvents.none then
    match s.seq.evaluated with
    | none => none
    | some e => if e.time = s.intervalTime then some (e.time, s.seq.evaluateLate s.sampler.intervalExp false e) else none
  else none

/-- The level vector of the present interval has been formed: its SAMPLE_INTERVAL has come (R39). -/
def State.intervalFormed (s : State) : Bool := s.sampler.formedAt == some s.intervalTime

/-- The present interval lies in the gap span: its vector was formed and none was handed. Until it is formed, sampling may yet resume in it (R54, R98). -/
def State.intervalInGap (s : State) : Bool := s.seq.inGap && s.intervalFormed

/-- The events that wait in an interval of a gap span are dropped (R98); those of any other wait for its vector. -/
def State.dropGapEvents (s : State) : State := if s.captureRuns && s.intervalInGap then { s with seq := s.seq.noEvents } else s

/-- Events that reached a capture run after the present interval was evaluated are judged there; in an interval of a gap span they are dropped. -/
def State.seqFlush (s : State) : State :=
  match s.lateEvents with
  | some (t, x) => s.seqStep false t x
  | none => s.dropGapEvents

/-- What is left of a step once its take is ending: a FIRE finds the take ending and a MARK no take that takes records (R42, R93, R100). -/
def SeqStep.whileEnding (x : SeqStep) : SeqStep :=
  ⟨x.seq, x.outs.filter (fun o => match o with | .stimulus _ => true | _ => false)⟩

/-- The same where the event comes with the ending of the take (R93, notes/assumptions/18.md). -/
def State.seqFlushEnding (s : State) : State :=
  match s.lateEvents with
  | some (t, x) => s.seqStep false t x.whileEnding
  | none => s

/-- The present interval has been evaluated, or lies in a gap span: what is still unreached there is late (R97). -/
def State.seqPassed (s : State) : Bool :=
  s.intervalInGap || (match s.seq.evaluated with | none => false | some e => e.time == s.intervalTime)

/-- The maximum of a capture run's stage is judged in the present interval (R97). -/
def State.seqMaximum (s : State) : State :=
  if s.captureRuns && s.seqPassed then s.seqJudgeTo false s.sampler.intervalExp s.intervalTime else s

/-- A search run takes an interval: the maxima of earlier intervals, then the vector (R97, R98, R106). The maximum judged in the interval itself is judged
once every event of the interval is in: by `searchSpan`, and at the end of the range after the range-end close (`State.replayClose`). -/
def State.searchVector (s : State) (k : Nat) (t : Tick) (levels unknown : Chans) : State :=
  if s.searchRuns then
    let s1 := s.seqJudgeTo true k (intervalBefore k t)
    s1.seqStep true t (s1.seq.evaluate k true t levels (~~~unknown))
  else s

/-- A search run takes a gap notice. -/
def State.searchGap (s : State) : State := { s with seq := if s.searchRuns then s.seq.gapNotice else s.seq }

/-- A search run judges the maxima that lie at or before the interval of time `t`, which has no event left to come (R97, R154). -/
def State.searchSpan (s : State) (k : Nat) (t : Tick) : State := if s.searchRuns then s.seqJudgeTo true k t else s

end Sys2Proof.Machine
end

