-- ==== Sys2Proof/Machine/Replay.lean ====
section
/-! DEFINITION. Machine/Replay.lean: the replay engine (spec/08, 8.1 to 8.5): REPLAY, the SCAN, feeding intervals, closing, cancellation. What the records of
the take say is computed from the stored take; the accesses of the port decide how far the engine has read. -/

namespace Sys2Proof.Machine

/-- The lanes of a set. -/
def lanesIn (m : BitVec 4) : List (Fin 4) := fourOrder.filter (fun k => m.getLsbD k.val)

/-- The take the engine reads. -/
def State.replayTake (s : State) : Take :=
  match s.takeIndex s.replay.takeId with
  | none => Take.reset
  | some i => s.takeAt i

/-- The grid interval that holds tick `t`, on a grid through `base` (R150). -/
def gridAt (base k t : Nat) : Nat := base + (t - base) / 2 ^ k * 2 ^ k

/-- The tick of the front of the take. -/
def State.replayBase (s : State) : Nat :=
  match s.recordedSpan s.replayTake with
  | none => 0
  | some (f, _) => f

/-- The interval that holds the effective range's last tick. -/
def State.replayLastInterval (s : State) : Nat := gridAt s.replayBase s.replayTake.intervalExp s.replay.last

/-- The interval that holds the effective range's first tick. -/
def State.replayFirstInterval (s : State) : Nat := gridAt s.replayBase s.replayTake.intervalExp s.replay.first

/-- The pause set (R155): the named lanes that hold the engine back. -/
def State.pauseSet (s : State) : BitVec 4 := maskOf4 (fun k => s.replay.lanes.getLsbD k.val && (s.lanes.get k).pauses)

/-! ## The result (R157, spec/11) -/

/-- A hit as a unit. -/
def hitUnit (h : Tick × Nat) : Word64 := BitVec.ofNat 64 (h.1.toNat + place h.2 56)

/-- The hit list as 64 units. -/
def hitUnits (hs : List (Tick × Nat)) : List Word64 := hs.map hitUnit ++ List.replicate (64 - hs.length) 0

/-- The REPLAY result. -/
def Replay.result (r : Replay) : List Word64 :=
  [BitVec.ofNat 64 (r.takeId + place r.hits.length 8 + place (bnat r.stackLost) 16 + place (bnat r.stackEmpty) 17 + place r.blocksFinished 32),
   BitVec.ofNat 64 r.first, BitVec.ofNat 64 r.last, BitVec.ofNat 64 (r.lastHanded.getD 0),
   BitVec.ofNat 64 (r.frameCounts.n0 + place r.frameCounts.n1 32), BitVec.ofNat 64 (r.frameCounts.n2 + place r.frameCounts.n3 32),
   BitVec.ofNat 64 r.furtherHits] ++ hitUnits r.hits

/-! ## Ends (R108, R137, R157, R158) -/

/-- The search run ends: its flags go to the engine, its claim is dropped (R108). -/
def State.endSearch (s : State) : State :=
  if s.replay.search && s.seq.serving == .search then
    { s with
      seq := s.seq.released
      replay := { s.replay with stackLost := s.seq.stackLost, stackEmpty := s.seq.stackEmpty } }
  else s

/-- Lane `k` hands its frame count and enters IDLE. -/
def State.laneDone (s : State) (k : Fin 4) : State :=
  { s with
    lanes := s.lanes.set k { s.lanes.get k with state := .idle, dec := (s.lanes.get k).dec.hunting }
    replay := { s.replay with
      doneLanes := s.replay.doneLanes ||| bit 4 k.val
      frameCounts := s.replay.frameCounts.set k (s.lanes.get k).replayFrames } }

/-- Lane `k` gives its work up and hands its frame count (R137). -/
def State.laneCancelled (s : State) (k : Fin 4) : State :=
  { s with
    lanes := s.lanes.set k (s.lanes.get k).cancelsReplay
    replay := { s.replay with
      doneLanes := s.replay.doneLanes ||| bit 4 k.val
      frameCounts := s.replay.frameCounts.set k (s.lanes.get k).replayFrames } }

/-- The engine lets its hold go, by R65 when an access is in flight, and is IDLE. -/
def State.replayIdle (s : State) : State := { s.endRight .replay s.replay.held with replay := Replay.reset }

/-- The engine's order completes. -/
def State.replayComplete (s : State) (oc : Outcome) : State :=
  match s.replay.order with
  | none => s.replayIdle
  | some o => s.replayIdle.complete o .replay oc s.replay.result

/-- Where the order is cut short before the range-end close (R108), the maximum that falls in the last interval of the range is judged if that interval was
handed. One in a gap span that the pause of a lane stopped in is not: the sequencer waits too (R155). -/
def State.searchLast (s : State) : State :=
  if s.replay.lastHanded == some s.replayLastInterval && !s.seq.inGap then
    s.searchSpan s.replayTake.intervalExp (BitVec.ofNat 56 s.replayLastInterval)
  else s

/-- The named lanes that still work are cancelled, and the search run ends: the interval handed last has been evaluated whole (R108). -/
def State.replayStops (s : State) : State :=
  ((lanesIn s.replay.lanes).foldl (fun s k => if s.replay.doneLanes.getLsbD k.val then s else s.laneCancelled k) s).searchLast.endSearch

/-- A release of the take cancels the engine's order (R158). -/
def State.replayCancel (s : State) : State := if s.replay.running then s.replayStops.replayComplete .cancelled else s

/-- A link reset abandons the engine's order: no outcome, no result (R158). -/
def State.replayAbandon (s : State) : State := if s.replay.running then s.replayStops.replayIdle else s

/-- Every named lane has handed its count. -/
def Replay.allDone (r : Replay) : Bool := (lanesIn r.lanes).all (fun k => r.doneLanes.getLsbD k.val)

/-- The blocks read to their end in FEEDING once the range is fed, the one that holds the range's last record counted (R157). -/
def State.blocksAtEnd (s : State) : Nat :=
  ((s.sealedBlocks s.replayTake).filter (fun b => decide (b.firstTick.toNat ≤ s.replay.last ∧ s.replayFirstInterval ≤ b.lastTick.toNat))).length

/-- In CLOSING, the lanes that no longer hold the engine back hand their counts; when all have, the order completes with OK (R157). -/
def State.replayFinish (s : State) : State :=
  if s.replay.running ∧ s.replay.phase = .closing then
    let s1 := (lanesIn s.replay.lanes).foldl
      (fun s k => if s.replay.doneLanes.getLsbD k.val || (s.lanes.get k).pauses then s else s.laneDone k) s
    if s1.replay.allDone then s1.endSearch.replayComplete .ok else s1
  else s

/-- Lane `k` closes its open frame at the range end (R137). -/
def State.laneRangeEnd (s : State) (t : Tick) (k : Fin 4) : State :=
  let c := s.closeInterrupted k false t
  c.1.raiseExcs k c.2

/-- Relations that reached a search run after the interval last handed was evaluated are judged there (R92, R147); in a gap span they are not. -/
def State.searchFlush (s : State) : State :=
  if s.searchRuns && s.seq.events != SeqEvents.none then
    if s.seq.inGap then { s with seq := s.seq.noEvents }
    else match s.seq.evaluated with
      | none => s
      | some e => s.seqStep true e.time (s.seq.evaluateLate s.replayTake.intervalExp true e)
  else s

/-- The engine enters CLOSING once the last interval of the range is past and no lane holds it back (R157): the lanes close their frames, the search run
judges the relations of those closes, so that a stage they reach is met (R96, R147), and then the maxima up to the last interval, those of a gap span that
passes the range's end included (R97, R98). -/
def State.replayClose (s : State) : State :=
  if s.replay.running && s.replay.phase == .feeding && s.pauseSet == 0 && decide (s.replayLastInterval < s.replay.nextInterval) then
    let t := BitVec.ofNat 56 s.replayLastInterval
    let s1 : State := { s with replay := { s.replay with phase := .closing, blocksFinished := s.blocksAtEnd } }
    (((lanesIn s.replay.lanes).foldl (fun s k => s.laneRangeEnd t k) s1).searchFlush.searchSpan s.replayTake.intervalExp t).replayFinish
  else s.replayFinish

/-! ## Reading (R148, R151) -/

/-- The engine places its hold on block `b`, dropping the one before it. -/
def State.replayHolds (s : State) (b : Nat) : State :=
  let s1 := (s.dropHoldOpt s.replay.held false).placeHold b false
  { s1 with replay := { s1.replay with held := some b } }

/-- The engine takes its position at the front block, once a withdrawn access of it has completed (R62, R65). -/
def State.replayFront (s : State) : State :=
  if s.staleAccess .replay then s
  else match s.takeIndex s.replay.takeId with
    | none => s
    | some i => (match s.frontBlock i with | none => s | some b => s.replayHolds b)

/-- The engine waits for a position at the front. -/
def State.replayResume (s : State) : State := if s.replay.running ∧ s.replay.held = none ∧ s.replay.phase ≠ .closing then s.replayFront else s

/-- The records read. -/
def State.replayRead (s : State) : List TimedRec := (s.takeRecords s.replayTake).take s.replay.readCount

/-- The number of records of a take before its block with sequence number `seq`. -/
def recordsBefore (blocks : List Block) (seq : Nat) : Nat :=
  ((blocks.takeWhile (fun b => b.seqNo != seq)).map (fun b => b.records.length)).sum

/-- The engine has read past the interval it hands next: it needs no access. -/
def State.replayReadPast (s : State) : Bool :=
  decide ((s.takeRecords s.replayTake).length ≤ s.replay.readCount) || s.replayRead.any (fun r => decide (s.replay.nextInterval < r.time))

/-- The engine waits for the port (R64): it holds a block, is not paused, and needs records. -/
def State.replayWaits (s : State) : Bool :=
  s.replay.running && s.replay.held.isSome && s.replay.phase != .closing && s.pauseSet == 0 && (s.replay.phase == .scan || !s.replayReadPast)

/-- The SCAN ends with the notes of the records read: the front states are in force and the engine goes back to the front (R151). -/
def State.replayScanned (s : State) : State :=
  State.replayFront { s with replay := { s.replay with
    phase := .leadIn, readCount := 0, front := frontFaults s.replayRead, faults := frontFaults s.replayRead } }

/-- The engine moves to the block after `e`; at the last block it keeps its hold. -/
def State.replayNextBlock (s : State) (e : Block) : State :=
  match s.pool.find s.replay.takeId ((e.seqNo + 1) % 2 ^ 32) with
  | none => s
  | some b => s.replayHolds b

/-- The levels and faults rebuilt from the records read before the interval to be handed next (R152). -/
def State.replayLead (s : State) : State :=
  let x := (s.replayRead.takeWhile (fun r => r.time < s.replay.nextInterval)).foldl (Rebuilt.apply s.replayTake.channels) (Rebuilt.start s.replay.front)
  { s with replay := { s.replay with levels := x.levels, known := x.known, faults := x.faults } }

/-- The engine's access completes with its data (R64). -/
def State.replayAccess (s : State) : State :=
  match s.replay.held with
  | none => s
  | some b =>
    match s.pool.block b with
    | none => s
    | some e =>
      let before := recordsBefore (s.sealedBlocks s.replayTake) e.seqNo
      let n := min (before + e.recordCount) (s.replay.readCount + Config.readerBurst)
      let atEnd := decide (before + e.recordCount ≤ n)
      let s1 : State := { s with replay := { s.replay with readCount := n } }
      let s2 := if atEnd then s1.replayNextBlock e else s1
      if s.replay.phase = .scan then
        (if (scanNotes .plain noNotes s1.replayRead).full || decide ((s.takeRecords s.replayTake).length ≤ n) then s1.replayScanned else s2)
      else if s.replay.phase = .leadIn then s2.replayLead
      else s2

/-! ## Feeding (R152 to R156) -/

/-- The stretches of the take in which no vector is handed. -/
def State.replaySpans (s : State) : List GapSpan := silentSpans s.replayTake.intervalExp s.replayBase (s.takeRecords s.replayTake)

/-- The next gap notice to hand: the first span not yet noticed that has started at the next interval. -/
def State.dueNotice (s : State) : Option GapSpan :=
  match s.replaySpans[s.replay.noticed]? with
  | none => none
  | some g => if g.start ≤ s.replay.nextInterval then some g else none

/-- A gap notice at the start of a span: lanes first, then the search run; no vector until the span's end (R154). The last interval handed stays that of the
latest vector, also where the range ends inside the span (R157): the model's choice (notes/assumptions/26.md). The maxima that fall in the span are judged when
the engine goes on behind it, at the next vector or at the range's end, since a lane may hold it back at the notice (R155). -/
def State.replayNotice (s : State) (g : GapSpan) : State :=
  let t := BitVec.ofNat 56 s.replay.nextInterval
  let s1 := (lanesIn s.replay.lanes).foldl (fun s k => s.laneGap k false t) s
  let s2 := s1.searchGap
  { s2 with replay := { s2.replay with
    phase := .feeding
    inGap := true
    noticed := s.replay.noticed + 1
    known := 0
    nextInterval := max s.replay.nextInterval g.time } }

/-- The POD FAULT events of an interval reach the search run (R153). -/
def State.replayPodEvents (s : State) (t : Nat) : State :=
  let pods := podEventsFrom (s.frontInterval s.replayTake) t .plain (s.takeRecords s.replayTake)
  { s with seq := { s.seq with
      events := if s.searchRuns then { s.seq.events with pods := s.seq.events.pods ||| pods } else s.seq.events } }

/-- The blocks read to their end in FEEDING when the interval `t` has been handed. -/
def State.blocksFinishedAt (s : State) (t : Nat) : Nat :=
  ((s.sealedBlocks s.replayTake).filter (fun b => decide (b.lastTick.toNat ≤ t ∧ s.replayFirstInterval ≤ b.lastTick.toNat))).length

/-- The next interval is handed (R152): its records applied, the lanes first, then the search run. The maximum judged in the last interval of the range waits
for the range-end close (R97). -/
def State.replayVector (s : State) : State :=
  let n := s.replay.nextInterval
  let t := BitVec.ofNat 56 n
  let k := s.replayTake.intervalExp
  let list := s.replayTake.channels
  let x := rebuiltAt list (Rebuilt.start s.replay.front) (s.takeRecords s.replayTake) n
  let unknown := x.unknown list s.replay.frontPods
  let s1 : State := { s with replay := { s.replay with
    phase := .feeding
    inGap := false
    levels := x.levels
    known := x.known
    faults := x.faults
    lastHanded := some n
    nextInterval := n + 2 ^ k
    blocksFinished := s.blocksFinishedAt n } }
  let s2 := (lanesIn s.replay.lanes).foldl (fun s j => s.laneInterval j false k t x.levels unknown) s1
  let s3 := (s2.replayPodEvents n).searchVector k t x.levels unknown
  if n < s.replayLastInterval then s3.searchSpan k t else s3

/-- The engine can hand an interval: RUNNING past the SCAN, not paused, its records read, the range not at its end (R152, R155). -/
def State.replayReady (s : State) : Bool :=
  s.replay.running && (s.replay.phase == .leadIn || s.replay.phase == .feeding) && s.pauseSet == 0 && s.replayReadPast &&
    decide (s.replay.nextInterval ≤ s.replayLastInterval)

/-- One interval of the engine: a gap notice that is due, else a vector; then the end of the range. -/
def State.replayInterval (s : State) : State :=
  if s.replayReady then
    (match s.dueNotice with
      | some g => s.replayNotice g
      | none => s.replayVector).replayClose
  else s

/-! ## REPLAY (R149, R150) -/

/-- A named lane that is not IDLE. -/
def State.laneNotIdle (s : State) (m : BitVec 4) : Bool := (lanesIn m).any (fun k => (s.lanes.get k).state != .idle)

/-- The range clipped to a recorded span (R150). The ticks of a stored take are compared as numbers that do not wrap, also those of a
take that was recorded while the tick count passed from 2^56−1 to 0: the model's choice (notes/assumptions/36.md). -/
def clipRange (p : ReplayP) (span : Nat × Nat) : Nat × Nat := (max p.rangeStart span.1, min p.rangeEnd span.2)

/-- The result of an empty range (R150); `range` is the range as clipped (notes/assumptions/22.md). -/
def emptyReplay (p : ReplayP) (range : Nat × Nat) : List Word64 :=
  Replay.result { Replay.reset with takeId := p.takeId, first := range.1, last := range.2 }

/-- The engine RUNNING for an order. -/
def runningReplay (o : OrderRef) (p : ReplayP) (t : Take) (range : Nat × Nat) (firstInterval noticed : Nat) : Replay :=
  { Replay.reset with
    running := true
    phase := if t.firstSeq = 0 then .leadIn else .scan
    order := some o
    takeId := p.takeId
    first := range.1
    last := range.2
    lanes := BitVec.ofNat 4 p.lanes
    search := p.search == 1
    capacity := p.capacity
    frontPods := if t.firstSeq = 0 then 0 else t.openPods
    noticed := noticed
    nextInterval := firstInterval }

/-- An accepted REPLAY with a range that is not empty (R150). -/
def State.replayStart (s : State) (o : OrderRef) (p : ReplayP) (t : Take) (base : Nat) (range : Nat × Nat) : State :=
  let n := gridAt base t.intervalExp range.1
  let passed := ((silentSpans t.intervalExp base (s.takeRecords t)).filter (fun g => g.time ≤ n)).length
  let m := BitVec.ofNat 4 p.lanes
  State.replayFront
    { s with
      replay := runningReplay o p t range n passed
      lanes := (lanesIn m).foldl (fun l k => l.set k (l.get k).startsReplay) s.lanes
      seq := if p.search = 1 then s.seq.begin .search 0 (BitVec.ofNat 56 n) else s.seq }

/-- REPLAY (R149, R150). -/
def replayOrder (o : OrderRef) (p : ReplayP) (s : State) : Reply :=
  if !p.valid then refuse s .badField
  else match s.takeIndex p.takeId with
    | none => refuse s .noSuchTake
    | some i =>
      if (s.takeAt i).state ≠ .ended then refuse s .noSuchTake
      else if s.replay.running then refuse s .busy
      else if s.laneNotIdle (BitVec.ofNat 4 p.lanes) then refuse s .busy
      else if p.search = 1 ∧ s.seq.serving = .capture then refuse s .busy
      else if p.search = 1 ∧ s.seq.state = .unloaded then refuse s .wrongState
      else match s.recordedSpan (s.takeAt i) with
        | none => ⟨s, some .ok, emptyReplay p (0, 0)⟩
        | some span =>
          if (clipRange p span).2 < (clipRange p span).1 then ⟨s, some .ok, emptyReplay p (clipRange p span)⟩
          else inFlight (s.replayStart o p (s.takeAt i) span.1 (clipRange p span))

end Sys2Proof.Machine
end

