-- ==== Sys2Proof/Machine/Export.lean ====
section
/-! DEFINITION. Machine/Export.lean: the export engine (spec/08, 8.6) and the release of a take, which cancels its readers (spec/04, 4.11). -/

namespace Sys2Proof.Machine

/-! ## Segments (R160, spec/11, 11.3) -/

/-- The bytes of a block's segment. -/
def Block.segmentBytes (b : Block) : Nat := 32 + 8 * b.recordCount

/-- A segment header. -/
def Block.segmentHeader (b : Block) : List Word64 :=
  [BitVec.ofNat 64 (b.seqNo + place b.recordCount 32), BitVec.zeroExtend 64 b.firstTick, BitVec.zeroExtend 64 b.lastTick,
   BitVec.ofNat 64 (b.generations.n0.toNat + place b.generations.n1.toNat 16 + place b.generations.n2.toNat 32 + place b.generations.n3.toNat 48)]

/-- The EXPORT result (spec/11). -/
def exportResult (copied bytes lastSeq : Nat) : List Word64 :=
  [BitVec.ofNat 64 (copied + place (bnat (copied != 0)) 16), BitVec.ofNat 64 bytes, BitVec.ofNat 64 (if copied = 0 then 0 else lastSeq)]

/-- The result of the running order. -/
def Exporter.result (x : Exporter) : List Word64 := exportResult x.copied x.bytes ((x.nextSeq + 2 ^ 32 - 1) % 2 ^ 32)

/-! ## The running order -/

/-- The progress of an order that comes to the head. -/
def Exporter.headed (x : Exporter) (queue : List ExportJob) : Exporter :=
  { x with
    queue := queue
    nextSeq := (match queue with | [] => 0 | j :: _ => j.firstBlock)
    copied := 0
    bytes := 0
    held := none
    index := 0 }

/-- The running order leaves the queue with an outcome; its hold drops, by R65 when an access is in flight. -/
def State.exportEnds (s : State) (oc : Outcome) : State :=
  match s.exporter.queue with
  | [] => s
  | j :: rest =>
    let s1 := s.endRight .exporter s.exporter.held
    State.complete { s1 with exporter := s1.exporter.headed rest } j.order .exportOrder oc s.exporter.result

/-- Units are stored in the destination from byte `at_` of the copy on. -/
def State.exportStore (s : State) (dest : Nat) (units : List Word64) : Stored :=
  storeUnits .exportDest (fun i => dest + 8 * i) units 0 s.shared s.failPlan

/-- The segment of block `b` with entry `e` begins: hold, then header (R160). A failed write ends the order with LINK FAULT (R161). -/
def State.segmentStart (s : State) (j : ExportJob) (b : Nat) (e : Block) : State :=
  let s1 := s.placeHold b false
  let w := s1.exportStore (j.dest + s.exporter.bytes) e.segmentHeader
  let s2 : State := { s1 with exporter := { s1.exporter with held := some b, index := 0 }, shared := w.mem, failPlan := w.plan }
  if w.failed then (s2.raise .link).exportEnds .linkFault else s2

/-- The engine goes on as far as it can without the port: an order whose run is copied, or whose next segment has no room, ends and the next one runs. -/
def State.exportRun (s : State) : Nat → State
  | 0 => s
  | fuel + 1 =>
    match s.exporter.queue with
    | [] => s
    | j :: _ =>
      if s.exporter.held.isSome || s.staleAccess .exporter then s
      else if j.count ≤ s.exporter.copied then (s.exportEnds .ok).exportRun fuel
      else match s.pool.find j.takeId s.exporter.nextSeq, s.pool.blockOf j.takeId s.exporter.nextSeq with
        | some b, some e =>
          if j.capacity - s.exporter.bytes < e.segmentBytes then (s.exportEnds .partly).exportRun fuel
          else (s.segmentStart j b e).exportRun fuel
        | _, _ => s

/-- Enough for every order of a full queue to end. -/
def exportFuel : Nat := 8

/-- The engine's access completes: up to 64 records are written straight after those before them; a whole segment counts (R160). -/
def State.exportAccess (s : State) : State :=
  match s.exporter.queue, s.exporter.held with
  | j :: _, some b =>
    match s.pool.block b with
    | none => s
    | some e =>
      let rs := (e.records.drop s.exporter.index).take Config.readerBurst
      let w := s.exportStore (j.dest + s.exporter.bytes + 32 + 8 * s.exporter.index) (rs.map CapRec.unit)
      let n := s.exporter.index + rs.length
      let s1 : State := { s with shared := w.mem, failPlan := w.plan }
      if w.failed then ((s1.raise .link).exportEnds .linkFault).exportRun exportFuel
      else if n < e.recordCount then { s1 with exporter := { s1.exporter with index := n } }
      else
        let s2 := s1.dropHold b false
        State.exportRun
          { s2 with exporter := { s2.exporter with
              held := none
              index := 0
              bytes := s2.exporter.bytes + e.segmentBytes
              copied := s2.exporter.copied + 1
              nextSeq := (s2.exporter.nextSeq + 1) % 2 ^ 32 } } exportFuel
  | _, _ => s

/-- The engine waits for the port. -/
def State.exportWaits (s : State) : Bool := !s.exporter.queue.isEmpty && s.exporter.held.isSome

/-! ## EXPORT (R159, R160) -/

/-- The place of a block in a take's sealed sequence. -/
def Take.blockOffset (t : Take) (seq : Nat) : Nat := (seq + 2 ^ 32 - t.firstSeq) % 2 ^ 32

/-- The job of an accepted EXPORT, its run clipped at the end of the sealed sequence. -/
def exportJob (o : OrderRef) (p : ExportP) (t : Take) : ExportJob :=
  ⟨o, p.takeId, p.firstBlock, min p.count (t.sealedCount - t.blockOffset p.firstBlock), p.dest, p.capacity⟩

/-- A job joins the queue at its tail; at the head it runs at once. -/
def State.exportJoin (s : State) (j : ExportJob) : State :=
  let x := s.exporter
  State.exportRun
    { s with exporter := if x.queue.isEmpty then x.headed [j] else { x with queue := x.queue ++ [j] } } exportFuel

/-- The dispatcher holds an order it cannot hand on (R186). -/
def State.stallOn (s : State) (addr : Nat) : State := { s with disp := { s.disp with state := .stalled, held := some addr } }

/-- EXPORT (R160). A full queue takes no order: the dispatcher stays STALLED on it, unchecked (R159). -/
def exportOrder (o : OrderRef) (p : ExportP) (s : State) : Reply :=
  if Config.exportQueue ≤ s.exporter.queue.length then inFlight (s.stallOn o.addr)
  else if !p.valid then refuse s .badField
  else match s.takeIndex p.takeId with
    | none => refuse s .noSuchTake
    | some i =>
      if (s.takeAt i).state ≠ .ended then refuse s .noSuchTake
      else if (s.takeAt i).sealedCount ≤ (s.takeAt i).blockOffset p.firstBlock then refuse s .badField
      else inFlight (s.exportJoin (exportJob o p (s.takeAt i)))

/-! ## Ends (R161) -/

/-- Queued orders that name a released take complete with CANCELLED and nothing copied. -/
def State.cancelQueued (s : State) (js : List ExportJob) : State :=
  js.foldl (fun s j => s.complete j.order .exportOrder .cancelled (exportResult 0 0 0)) s

/-- A release of take `id` cancels the running order if it names the take, and every queued order that does (R82, R161). -/
def State.exportCancel (s : State) (id : Nat) : State :=
  match s.exporter.queue with
  | [] => s
  | j :: rest =>
    let s1 : State := { s with exporter := { s.exporter with queue := j :: rest.filter (fun x => x.takeId != id) } }
    let s2 := if j.takeId = id then s1.exportEnds .cancelled else s1
    (s2.cancelQueued (rest.filter (fun x => x.takeId == id))).exportRun exportFuel

/-- A link reset abandons every order: the queue is empty, the hold drops (R161). -/
def State.exportAbandon (s : State) : State := { s.endRight .exporter s.exporter.held with exporter := Exporter.reset }

/-! ## RELEASE TAKE (R81 to R83) -/

/-- The trace renderer's order is cancelled if it has the take as its source (R82). -/
def State.renderCancel (s : State) (id : Nat) : State :=
  if s.render.order.isSome && s.render.takeId == id then s.endRender .cancelled else s

/-- The replay engine's order is cancelled if it names the take (R82). -/
def State.replayCancelOf (s : State) (id : Nat) : State := if s.replay.takeId = id then s.replayCancel else s

/-- RELEASE TAKE (R81): an ENDED take enters RELEASING and its readers are cancelled; with no sealed block it is EMPTY at once (R83). -/
def releaseTakeOrder (p : TakeIdP) (s : State) : Reply :=
  if !inRange p.takeId 1 255 then refuse s .badField
  else match s.takeIndex p.takeId with
    | none => refuse s .noSuchTake
    | some i =>
      if (s.takeAt i).capturing then refuse s .wrongState
      else if (s.takeAt i).state = .releasing then accept s
      else
        let s1 := s.setTake i { s.takeAt i with state := .releasing }
        accept ((((s1.replayCancelOf p.takeId).exportCancel p.takeId).renderCancel p.takeId).emptyIfDone i)

/-- The front block of the RELEASING take with an id is freed, if no reader holds it; with the last one the entry is EMPTY (R83). -/
def State.freeOne (s : State) (id : Nat) : State :=
  match s.takeIndex id with
  | none => s
  | some i =>
    match s.freeable i with
    | none => s
    | some b => (s.freeFront i b).emptyIfDone i

end Sys2Proof.Machine
end

