-- ==== Sys2Proof/Machine/Panel.lean ====
section
/-! DEFINITION. Machine/Panel.lean: the panel scanout (spec/09, 9.6 to 9.8): SET PANEL, SHOW, the frame start, and the picture a frame draws. -/

namespace Sys2Proof.Machine

/-! ## The picture (R174, R177) -/

/-- Two bytes from address `a`, least significant first. -/
def Mem.getHalf (m : Mem) (a : Nat) : BitVec 16 := BitVec.ofNat 16 (m.getNat a 2)

/-- The rows and columns of the panel. -/
def panelRows : Nat := 480
def panelCols : Nat := 800

/-- The overlay's pixel; black in a frame whose overlay could not be read (R177). That the 16 bits of a black pixel are 0 is the model's choice
(notes/assumptions/28.md). -/
def DrawnFrame.overlayPixel (d : DrawnFrame) (x y : Nat) : BitVec 16 :=
  if d.overlayFailed then 0 else d.memory.getHalf (d.config.overlay + y * d.config.stride + 2 * x)

/-- The column count of the shown table; 0 for a header out of range, which has no column. -/
def tableCols (m : Mem) (table : Nat) : Nat :=
  let h := (m.getUnit table).toNat
  if 16 ≤ field h 32 11 ∧ field h 32 11 ≤ 1024 ∧ 1 ≤ field h 48 6 ∧ field h 48 6 ≤ 32 then field h 32 11 else 0

/-- The trace count of the shown table. -/
def tableTraces (m : Mem) (table : Nat) : Nat := field (m.getUnit table).toNat 48 6

/-- The cell of a band in column `c` of the shown table, none where the band shows overlay pixels. -/
def DrawnFrame.cell (d : DrawnFrame) (b : Band) (c : Nat) : Option Nat :=
  match d.table with
  | none => none
  | some t =>
    if d.tableFailed then none
    else if c < tableCols d.memory t ∧ b.trace < tableTraces d.memory t then
      some (d.memory.getHalf (cellAddr t (tableCols d.memory t) b.trace c)).toNat
    else none

/-- Row `y` is a trace pixel of the band under a summary. -/
def tracePixel (b : Band) (summary y : Nat) : Bool :=
  match summary with
  | 0 => y == b.top + b.height - 1
  | 1 => y == b.top
  | 2 => true
  | _ => (y - b.top) % 2 == 0

/-- The palette colour of the first marker present: TRIGGER, STALE, GAP, FAULT, FRAME ERROR, MATCH EQUAL, FRAME START, WATCH. -/
def markerColour (cell : Nat) : Option Nat :=
  if cell.testBit 8 then some 1
  else if cell.testBit 15 then some 3
  else if cell.testBit 9 then some 3
  else if cell.testBit 11 then some 2
  else if cell.testBit 13 then some 6
  else if cell.testBit 14 then some 7
  else if cell.testBit 12 then some 5
  else if cell.testBit 10 then some 4
  else none

/-- A palette colour. -/
def DrawnFrame.colour (d : DrawnFrame) (n : Nat) : BitVec 16 := d.config.palette.getD n 0

/-- The pixel a band draws. -/
def DrawnFrame.bandPixel (d : DrawnFrame) (b : Band) (x y : Nat) : BitVec 16 :=
  match d.cell b (x - d.config.origin) with
  | none => d.overlayPixel x y
  | some cell =>
    if tracePixel b (cell % 4) y then d.colour 0
    else match markerColour cell with
      | none => d.overlayPixel x y
      | some n => d.colour n

/-- The band covers the pixel. -/
def DrawnFrame.covers (d : DrawnFrame) (x y : Nat) (b : Band) : Bool :=
  decide (d.config.origin ≤ x ∧ x < d.config.origin + d.config.width ∧ b.top ≤ y ∧ y < b.top + b.height)

/-- The pixel of a drawn frame (R174): the last band that covers it, else the overlay. -/
def DrawnFrame.pixel (d : DrawnFrame) (x y : Nat) : BitVec 16 :=
  match (d.config.bands.filter (d.covers x y)).getLast? with
  | none => d.overlayPixel x y
  | some b => d.bandPixel b x y

/-! ## The frame start (R173) -/

/-- The SHOW result: the table let go, or 0. -/
def showResult (letGo : Option Nat) : List Word64 := [BitVec.ofNat 64 (letGo.getD 0)]

/-- A waiting SHOW completes. -/
def State.completeShow (s : State) (oc : Outcome) (letGo : Option Nat) : State :=
  match s.panel.waitingShow with
  | none => s
  | some o => State.complete { s with panel := { s.panel with waitingShow := none } } o .showTable oc (showResult letGo)

/-- The panel takes a staged configuration (step 1). -/
def Panel.takeStaged (p : Panel) : Panel := { p with config := p.staged.getD p.config, staged := none }

/-- A pending table becomes the shown table, and a waiting SHOW completes (step 2). -/
def State.showPending (s : State) : State :=
  match s.panel.pendingTable with
  | none => s
  | some (a, _) =>
    State.completeShow { s with panel := { s.panel with shown := some a, pendingTable := none } } .ok
      (if s.panel.shown = some a then none else s.panel.shown)

/-- The frame is drawn (step 3): the overlay and the shown table are read anew, and a failed read raises LINK once (R177). -/
def State.drawFrame (s : State) : State :=
  let s1 := s.accessed .overlayRead
  let tableFails := s.panel.shown.isSome && s1.fails .tableRead
  let s2 := if s.panel.shown.isSome then s1.accessed .tableRead else s1
  { s2 with
    panel := { s.panel with drawn := some ⟨s.panel.config, s.panel.shown, s.shared, s.fails .overlayRead, tableFails⟩ }
    alerts := s.alerts.raiseIf (s.fails .overlayRead || tableFails) .link }

/-- The frame count advances, and the next frame start is due a frame period after this one (step 4). -/
def Panel.counted (p : Panel) (now : Tick) : Panel :=
  { p with frameCount := p.frameCount + 1, nextFrame := tickAdd now Config.framePeriod }

/-- A frame start at tick `now`, which hands the page the shown table and the frame count (R178), and what it lets a waiting generation do (R171, R173). -/
def State.frame (s : State) (now : Tick) : State :=
  let s1 := State.showPending { s with panel := s.panel.takeStaged }
  let s2 := s1.drawFrame
  State.renderRecheck (State.hands { s2 with panel := s2.panel.counted now } [unitShown, unitPanel])

/-- A frame start is due. -/
def State.frameDue (s : State) : Bool := s.panel.scanning && atOrBefore s.panel.nextFrame s.tick

/-! ## SET PANEL and SHOW -/

/-- The panel in DARK with a configuration. -/
def Panel.darkened (p : Panel) (c : PanelConfig) : Panel :=
  { p with scanning := false, config := c, staged := none, shown := none, pendingTable := none, drawn := none }

/-- The panel in DARK; entering it hands the page the shown table, now none (R178). -/
def State.darkens (s : State) (c : PanelConfig) : State :=
  State.hands { s with panel := s.panel.darkened c } (if s.panel.scanning then [unitShown] else [])

/-- SET PANEL (R173). -/
def setPanelOrder (p : SetPanelP) (s : State) : Reply :=
  if !p.valid then refuse s .badField
  else if p.enable = 1 then
    (if s.panel.scanning then accept { s with panel := { s.panel with staged := some p.config } }
     else accept (State.frame { s with panel := { s.panel with scanning := true, config := p.config } } s.tick))
  else accept (((s.darkens p.config).completeShow .cancelled none).renderRecheck)

/-- A RENDER in flight that keeps a SHOW of table `a` out (R176). -/
def State.renderBars (s : State) (a : Nat) : Bool := s.render.order.isSome && (s.render.live || s.render.target == a)

/-- SHOW (R176). -/
def showOrder (o : OrderRef) (p : ShowP) (s : State) : Reply :=
  if !usableAddr p.table || decide (2 ^ 64 ≤ p.table) then refuse s .badField
  else if !s.panel.scanning then refuse s .wrongState
  else if s.renderBars p.table then refuse s .busy
  else
    let s1 := s.completeShow .superseded none
    inFlight { s1 with panel := { s1.panel with pendingTable := some (p.table, true), waitingShow := some o } }

end Sys2Proof.Machine
end

