-- ==== Sys2Proof/Machine/Report.lean ====
section
/-! DEFINITION. Machine/Report.lean: the report page (spec/11, 11.6; R193) and what closes every step: the port's grant (R64), the page, and the end of
failures in store. -/

namespace Sys2Proof.Machine

/-! ## Codes -/

/-- The code of a dispatcher state (spec/11, 11.1). -/
def DispState.code : DispState → Nat
  | .halted => 0
  | .idle => 1
  | .following => 2
  | .broken => 3
  | .stalled => 4

/-- The code of a power state. -/
def Power.code : Power → Nat
  | .off => 0
  | .warming => 1
  | .on => 2
  | .watch => 3

/-- The code of a generator state. -/
def GenState.code : GenState → Nat
  | .stopped => 0
  | .running => 1
  | .silenced => 2

/-- The code of a sampler state. -/
def SamplerState.code : SamplerState → Nat
  | .idle => 0
  | .sampling => 1
  | .watch => 2
  | .waking => 3

/-- The code of a claim. -/
def Serving.code : Serving → Nat
  | .none => 0
  | .capture => 1
  | .search => 2

/-- The code of a renderer state. -/
def RenderState.code : RenderState → Nat
  | .idle => 0
  | .building => 1
  | .waitingFrame => 2

/-! ## Units of the page -/

/-- A pod's unit. -/
def Pod.reportUnit (p : Pod) : Word64 :=
  BitVec.ofNat 64 (p.power.code + place (bnat p.sources.overLimit.active) 8 + place (bnat p.sources.under.active) 9 +
    place (bnat p.sources.middle.active) 10 + place (bnat p.sources.lost.active) 11 + place (bnat p.sources.hot.active) 12 +
    place p.actionLevel 16 + place (bnat p.latch) 24 + place (bnat p.stagedPending) 25 + place p.generation.toNat 32)

/-- A generator's byte. -/
def State.genByte (s : State) (g : Fin 4) : Nat :=
  (s.gens.get g).state.code + place (bnat (s.genIdle (s.control g))) 2 + place (bnat (s.gens.get g).stagedPending) 3 + place (bnat (s.chained g)) 4

/-- The take the page shows (R84). -/
def State.shownTake (s : State) : Take :=
  match s.takeIndex s.takes.shown with
  | none => Take.reset
  | some i => s.takeAt i

/-- A lane's unit. -/
def Lane.reportUnit (l : Lane) : Word64 :=
  BitVec.ofNat 64 (l.state.code + place (bnat l.heldReplay) 8 + place (bnat l.channelsAbsent) 9 + place l.sticky.toNat 16 + place l.written.toNat 32)

/-- The 64 units of the page from the state; fill, lost records, stage and stack depth as last handed over (R56, R109). -/
def State.pageUnits (s : State) : List Word64 :=
  [BitVec.ofNat 64 (s.disp.state.code + place s.alerts.causes.toNat 8 + place s.disp.consumed.toNat 32),
   BitVec.zeroExtend 64 s.disp.posted,
   s.pods.n0.reportUnit, s.pods.n1.reportUnit, s.pods.n2.reportUnit, s.pods.n3.reportUnit,
   BitVec.ofNat 64 (s.genByte 0 + place (s.genByte 1) 8 + place (s.genByte 2) 16 + place (s.genByte 3) 24),
   BitVec.ofNat 64 (s.sampler.state.code + place (bnat s.staging.overflow) 8 + place s.report.fill 16 + place s.takes.shown 32 +
     place s.shownTake.state.code 40 + place (bnat s.shownTake.ending) 43 + place s.shownTake.sealedCount 48),
   BitVec.ofNat 64 (s.pool.freeCount + place s.report.lost 32),
   BitVec.ofNat 64 (s.seq.state.code + place s.seq.serving.code 8 + place s.report.stage 16 + place s.report.depth 24 +
     place (bnat s.seq.stackLost) 32 + place (bnat s.seq.stackEmpty) 33),
   s.lanes.n0.reportUnit, s.lanes.n1.reportUnit, s.lanes.n2.reportUnit, s.lanes.n3.reportUnit,
   BitVec.ofNat 64 s.lanes.n0.lost, BitVec.ofNat 64 s.lanes.n1.lost, BitVec.ofNat 64 s.lanes.n2.lost, BitVec.ofNat 64 s.lanes.n3.lost,
   BitVec.ofNat 64 (s.panel.shown.getD 0),
   BitVec.ofNat 64 (s.panel.frameCount.toNat + place (bnat s.panel.scanning) 32 + place s.render.state.code 40),
   BitVec.ofNat 64 s.render.lastWhole] ++ List.replicate 43 0

/-! ## Fields handed over at a limited rate -/

/-- The page's own image still shows HALTED: the next page written is written whole (R184, R193). -/
def State.pageStale (s : State) : Bool := ((s.report.image.getD 0 0).toNat % 256 == 0) && s.disp.state != .halted

/-- The limited fields after a step: the stage as R109 gives; fill and lost records stay as their own changes handed them over (R56), and `all` hands every
one over. The lost records are then those of the take that unit 7 shows, also where it no longer captures: the model's choice (notes/assumptions/14.md). -/
def State.handOver (s : State) (all : Bool) : State :=
  { s with report := { s.report.handStage s.seq s.tick all with
      fill := if all then s.staging.fill else s.report.fill
      lost := if all then s.shownTake.lost else s.report.lost } }

/-! ## Writing the page (R193, R194) -/

/-- The units from number `n` on that differ, or that `must` names, are written from address `a` on. -/
def storePage (must : Nat → Bool) : Nat → List Word64 → List Word64 → Nat → Mem → List (LinkAccess × Nat) → Stored
  | n, u :: us, v :: vs, a, m, plan =>
    if must n || u != v then
      (if (takeAccess .reportPage plan).1 then ⟨m, (takeAccess .reportPage plan).2, true⟩
       else storePage must (n + 1) us vs (a + 8) (m.putUnit a v) (takeAccess .reportPage plan).2)
    else storePage must (n + 1) us vs (a + 8) m plan
  | _, _, _, _, m, plan => ⟨m, plan, false⟩

/-- The units that are written whether or not they differ: every one at the departure from HALTED, else those handed over in the step (R193). -/
def State.mustWrite (s : State) (n : Nat) : Bool := s.pageStale || s.report.handed.contains n

/-- The page brought up to date in shared memory, from its units `units`. -/
def State.pageStore (s : State) (units : List Word64) : Stored :=
  storePage s.mustWrite 0 s.report.image units s.disp.pageAddr s.shared s.failPlan

/-- The state with the page's image as its units now stand, and nothing handed over any more. -/
def State.imaged (s : State) : State := { s with report := { s.report with image := s.pageUnits, handed := [] } }

/-- The report writer brings the page up to date. In HALTED it writes nothing and only its image goes on; a failed write halts the dispatcher. -/
def State.syncReport (s : State) : State :=
  let s1 := s.handOver s.pageStale
  if s.disp.state = .halted then s1.imaged
  else
    let w := s.pageStore s1.pageUnits
    let s2 : State := { s1 with shared := w.mem, failPlan := w.plan }
    if w.failed then s2.linkHalt.imaged else s2.imaged

/-! ## The end of a step -/

/-- The clients that wait for the port (R64). -/
def State.waits (s : State) (c : Client) : Bool :=
  match c with
  | .writer => s.writerWaits
  | .replay => s.replayWaits
  | .exporter => s.exportWaits
  | .renderer => s.render.state == .building && s.render.held.isSome

/-- The end of every step: a free port grants, the page is brought up to date, and no failure stays in store. -/
def State.finish (s : State) : State :=
  { (s.grant s.waits).syncReport with failPlan := [] }

/-- The end of a step that may hand the sequencer events: they are judged first (R92, R93). -/
def State.finishEvents (s : State) : State := s.seqFlush.finish

end Sys2Proof.Machine
end

