-- ==== Sys2Proof/Machine/Pods.lean ====
section
/-! DEFINITION. Machine/Pods.lean: the four pod controllers and the pod monitor (spec/01): activation, growth and ending of sources, isolation,
power, comparator settings, measurements, and the pod orders. -/

namespace Sys2Proof.Machine

/-! ## Sources (R14 to R20) -/

/-- The state with pod `p` replaced. -/
def State.setPodAt (s : State) (p : Fin 4) (x : Pod) : State := { s with pods := s.pods.set p x }

/-- The sampler notes a pod whose fault state changes while it is WAKING (R54). -/
def State.noteWaking (s : State) (p : Fin 4) : State :=
  { s with sampler := { s.sampler with
      wakingPods := if s.sampler.state = .waking then s.sampler.wakingPods ||| bit 4 p.val else s.sampler.wakingPods } }

/-- A POD FAULT event for a capture run (R93). -/
def State.podEvent (s : State) (p : Fin 4) : State :=
  { s with seq := { s.seq with
      events := if s.captureRuns then { s.seq.events with pods := s.seq.events.pods ||| bit 4 p.val } else s.seq.events } }

/-- A MARK AND END source of pod `p` with mask `m` ends the capturing take if its mask meets the list (R18). The sequencer has judged the source's POD
FAULT event before (R93). -/
def State.markEnds (s : State) (p : Fin 4) (m : BitVec 8) : State :=
  match s.capIndex with
  | none => s
  | some i => if m &&& podBits p (s.takeAt i).channels != 0 then s.seqFlushEnding.endTake i .faulted else s

/-- The pod with its isolation latch set, held by source `src` (R14, R19). -/
def Pod.isolatedBy (pod : Pod) (src : FaultSource) : Pod :=
  { pod with latch := true, sources := pod.sources.set src { pod.sources.get src with holdsLatch := true } }

/-- The sampler after the latch of pod `p` has set: the pod's channels present level 0 from now on, so that no later change of them counts as one of the
comparators given before (R19, R53). -/
def Sampler.latchSet (x : Sampler) (p : Fin 4) : Sampler := { x with givenLatched := x.givenLatched ||| bit 4 p.val }

/-- Pod `p` is isolated by source `src`: setting a clear latch silences the pod's generator (R19). -/
def State.isolate (s : State) (p : Fin 4) (src : FaultSource) : State :=
  let s1 := s.setPodAt p ((s.pods.get p).isolatedBy src)
  if (s.pods.get p).latch then s1 else State.podSilences { s1 with sampler := s1.sampler.latchSet p } p

/-- FAULT begin, POD alert and POD FAULT event of an activation or growth in force at MARK or above (R17, R20, R93). -/
def State.announce (s : State) (p : Fin 4) (src : FaultSource) : State :=
  let s1 := s.faultBegin s.intervalTime p src ((s.pods.get p).sources.get src).begins
  ((s1.raise .pod).podEvent p).noteWaking p

/-- What an activation or growth does for its action in force (R16 to R20). One in force at IGNORE changes no fault state that a GAP's changed-pod mask
names (the model's reading of R54, notes/assumptions/21.md). -/
def State.actSource (s : State) (p : Fin 4) (src : FaultSource) : State :=
  match ((s.pods.get p).sources.get src).action with
  | .ignore => s
  | .mark => s.announce p src
  | .markAndEnd => (s.announce p src).markEnds p ((s.pods.get p).sources.get src).mask
  | .isolate => (s.isolate p src).announce p src

/-- Source `src` of pod `p` activates with mask `m` (R14). -/
def State.activate (s : State) (p : Fin 4) (src : FaultSource) (m : BitVec 8) : State :=
  (s.setSource p src { (s.pods.get p).sources.get src with active := true, mask := m, action := (s.pods.get p).actions.get src }).actSource p src

/-- Source `src` of pod `p` grows to mask `m` (R14). -/
def State.grow (s : State) (p : Fin 4) (src : FaultSource) (m : BitVec 8) : State :=
  (s.setSource p src { (s.pods.get p).sources.get src with mask := m }).actSource p src

/-- Source `src` of pod `p` ends (R14, R17): an open MARK or MARK AND END record is closed with the mask as it stood, an open ISOLATE record stays open
(R6, R21). The ending of a source in force above IGNORE, at ISOLATE too, is a change of its pod's fault state for R54 (the model's reading,
notes/assumptions/21.md). -/
def State.endSource (s : State) (p : Fin 4) (src : FaultSource) : State :=
  let r := (s.pods.get p).sources.get src
  let s1 := match r.openRec with
    | none => s
    | some a => if a.masks then s.faultEnd s.intervalTime p src a r.mask else s
  let s2 := s1.setSource p src { (s1.pods.get p).sources.get src with active := false, mask := 0 }
  if r.action = .ignore then s2 else s2.noteWaking p

/-- A source driven by `hits`, the channels that bring it about, and `recovered`, whether every channel of its mask has recovered (R11, R12). -/
def State.evalSource (s : State) (p : Fin 4) (src : FaultSource) (hits : BitVec 8) (recovered : Bool) : State :=
  let r := (s.pods.get p).sources.get src
  if !r.active then (if hits != 0 then s.activate p src hits else s)
  else if hits &&& ~~~r.mask != 0 then s.grow p src (r.mask ||| hits)
  else if recovered then s.endSource p src
  else s

/-- A source driven by a sense, over all eight channels (R13). -/
def State.evalSense (s : State) (p : Fin 4) (src : FaultSource) (sense : Bool) : State :=
  let r := (s.pods.get p).sources.get src
  if sense && !r.active then s.activate p src 0xFF
  else if !sense && r.active then s.endSource p src
  else s

/-- The pod's two senses are evaluated (R6, R13): LOST, then HOT. Which of the two acts first in one step is the model's choice
(notes/assumptions/21.md). -/
def State.evalSenses (s : State) (p : Fin 4) : State :=
  (s.evalSense p .lost (s.pods.get p).probeAbsent).evalSense p .hot (s.pods.get p).hotSense

/-! ## The monitor (R10 to R12) -/

/-- The result range of a measurement, 10 mV steps. -/
def clipAnalog (x : Int) : Int := max (-3100) (min 3100 x)

/-- A channel after a measurement `x` under its pod's settings (R10). -/
def ChannelMon.measured (c : ChannelMon) (pod : Pod) (x : Int) : ChannelMon where
  last := clipAnalog x
  overRun := if pod.highLimit * 10 < clipAnalog x then 0 else satSucc c.overRun 3
  underRun := if clipAnalog x < pod.lowLimit * 10 then 0 else satSucc c.underRun 3
  middleRun := if pod.applied.threshold - 10 ≤ clipAnalog x ∧ clipAnalog x ≤ pod.applied.threshold + 10 then satSucc c.middleRun 15 else 0

/-- A pod that the monitor measures (R10). -/
def Pod.measured (p : Pod) : Bool := p.power == .on || p.power == .watch

/-- The pod of a channel. -/
def podOf (ch : Nat) : Fin 4 := fin4 (ch / 8)

/-- The channels from number `i` on after a measurement. -/
def measureFrom (pods : Four Pod) (analog : List Int) : List ChannelMon → Nat → List ChannelMon
  | [], _ => []
  | c :: rest, i =>
    (if (pods.get (podOf i)).measured then c.measured (pods.get (podOf i)) (analog.getD i 0) else c) :: measureFrom pods analog rest (i + 1)

/-- The monitor's fields of channel `ch`. -/
def Monitor.channel (m : Monitor) (ch : Nat) : ChannelMon := m.channels.getD ch ChannelMon.reset

/-- The channels of pod `p` that satisfy `f`. -/
def Monitor.podMask (m : Monitor) (p : Fin 4) (f : ChannelMon → Bool) : BitVec 8 :=
  BitVec.ofNat 8 (bnat (f (m.channel (8 * p.val))) + place (bnat (f (m.channel (8 * p.val + 1)))) 1 + place (bnat (f (m.channel (8 * p.val + 2)))) 2 +
    place (bnat (f (m.channel (8 * p.val + 3)))) 3 + place (bnat (f (m.channel (8 * p.val + 4)))) 4 + place (bnat (f (m.channel (8 * p.val + 5)))) 5 +
    place (bnat (f (m.channel (8 * p.val + 6)))) 6 + place (bnat (f (m.channel (8 * p.val + 7)))) 7)

/-- OVER is evaluated (R11). -/
def State.evalOver (s : State) (p : Fin 4) : State :=
  s.evalSource p .overLimit (s.monitor.podMask p (fun c => decide ((s.pods.get p).highLimit * 10 < c.last)))
    (((s.pods.get p).sources.overLimit.mask &&& ~~~s.monitor.podMask p (fun c => c.overRun == 3)) == 0)

/-- UNDER is evaluated (R11). -/
def State.evalUnder (s : State) (p : Fin 4) : State :=
  s.evalSource p .under (s.monitor.podMask p (fun c => decide (c.last < (s.pods.get p).lowLimit * 10)))
    (((s.pods.get p).sources.under.mask &&& ~~~s.monitor.podMask p (fun c => c.underRun == 3)) == 0)

/-- MIDDLE is evaluated (R12). -/
def State.evalMiddle (s : State) (p : Fin 4) : State :=
  s.evalSource p .middle (s.monitor.podMask p (fun c => decide ((s.pods.get p).middleCount ≤ c.middleRun)))
    (((s.pods.get p).sources.middle.mask &&& ~~~s.monitor.podMask p (fun c => c.middleRun == 0)) == 0)

/-- The pod controller of pod `p` is handed its measurements. -/
def State.evalPod (s : State) (p : Fin 4) : State :=
  if (s.pods.get p).measured then ((s.evalOver p).evalUnder p).evalMiddle p else s

/-- A period of the monitor expires (R10): the next has the period as it now stands. -/
def State.monitorExpiry (s : State) (analog : List Int) : State :=
  let s1 : State :=
    { s with monitor := { s.monitor with
        channels := measureFrom s.pods analog s.monitor.channels 0
        expiry := tickAdd s.monitor.expiry (s.monitor.period * Config.ticksPerMs) } }
  fourOrder.foldl (fun s p => s.evalPod p) s1

/-! ## Power (R3 to R7) -/

/-- Pod `p` enters OFF (R3, R6, R32): its sources end, its timers stop, its generator stops. That they end in the order OVER, UNDER, MIDDLE, LOST, HOT is
the model's choice (notes/assumptions/21.md). -/
def State.powerOff (s : State) (p : Fin 4) : State :=
  let s1 := FaultSource.order.foldl (fun s src => if ((s.pods.get p).sources.get src).active then s.endSource p src else s) s
  let s2 := s1.setPodAt p { s1.pods.get p with power := .off, warmTimer := none, wakeTimer := none }
  s2.podOffStops p

/-- Pod `p` leaves OFF for WARMING (R3, R6): its senses are evaluated at once. -/
def State.powerOn (s : State) (p : Fin 4) (span : Nat) : State :=
  State.evalSenses (s.setPodAt p { s.pods.get p with
    power := .warming, warmTimer := some (tickAdd s.tick (span * 10 * Config.ticksPerUs)) }) p

/-- Pod `p` is in the channel list of the capturing take. -/
def State.listed (s : State) (p : Fin 4) : Bool :=
  match s.capTake with
  | none => false
  | some t => podIn p t.channels

/-- POWER POD (R7). -/
def powerPodOrder (p : PowerPodP) (s : State) : Reply :=
  if !p.valid then refuse s .badField
  else if p.direction = 1 then accept (if (s.pods.get (fin4 p.pod)).power = .off then s.powerOn (fin4 p.pod) p.warmSpan else s)
  else if s.listed (fin4 p.pod) then refuse s .busy
  else accept (if (s.pods.get (fin4 p.pod)).power = .off then s else s.powerOff (fin4 p.pod))

/-- The channels of pod `p` at their values on entry to ON from WARMING (R10). -/
def resetChannels (p : Fin 4) : List ChannelMon → Nat → List ChannelMon
  | [], _ => []
  | c :: rest, i => (if podOf i = p then ChannelMon.reset else c) :: resetChannels p rest (i + 1)

/-- The warm span of pod `p` has run out (R4). -/
def State.warmOver (s : State) (p : Fin 4) : State :=
  State.podIsOn
    { s with
      pods := s.pods.set p { s.pods.get p with power := .on, warmTimer := none }
      monitor := { s.monitor with channels := resetChannels p s.monitor.channels 0 } }

/-- A pod is back at ON by the timer that ran out at tick `expiry`: the latest such tick is kept (R54). -/
def Sampler.podBack (p : Sampler) (expiry : Tick) : Sampler :=
  { p with onAgain := match p.onAgain with
      | none => some expiry
      | some latest => some (if atOrBefore latest expiry then expiry else latest) }

/-- The sampler waits for pod `p` to be ON again (R54). -/
def State.wakingFor (s : State) (p : Fin 4) : Bool := s.capIndex.isSome && s.sampler.state == .waking && podIn p s.sampler.channels

/-- The wake span of pod `p` has run out (R5), which a sampler in WAKING notes with the tick at which it did (R54). -/
def State.wakeOver (s : State) (p : Fin 4) : State :=
  let expiry := (s.pods.get p).wakeTimer.getD s.tick
  State.podIsOn { s.setPodAt p { s.pods.get p with power := .on, wakeTimer := none } with
    sampler := if s.wakingFor p then s.sampler.podBack expiry else s.sampler }

/-- Watch entry: every listed ON pod whose latch is clear goes to WATCH (R5). -/
def Pod.watches (pod : Pod) (p : Fin 4) (m : Chans) : Pod :=
  if podIn p m ∧ pod.power = .on ∧ pod.latch = false then { pod with power := .watch } else pod

/-- The pods at watch entry. -/
def State.podsWatch (s : State) (m : Chans) : State :=
  { s with pods := ⟨s.pods.n0.watches 0 m, s.pods.n1.watches 1 m, s.pods.n2.watches 2 m, s.pods.n3.watches 3 m⟩ }

/-! ## SET POD, CLEAR POD -/

/-- The pod that SET POD writes; `idle` tells that no take is capturing, so that a comparator set applies at once (R8, R9, R22). -/
def Pod.written (pod : Pod) (p : SetPodP) (idle : Bool) : Pod :=
  let x : Pod :=
    { pod with
      staged := if p.changes 0 then ⟨p.threshold, p.hysteresis⟩ else pod.staged
      stagedPending := pod.stagedPending || p.changes 0
      highLimit := if p.changes 1 then p.highLimit else pod.highLimit
      lowLimit := if p.changes 1 then p.lowLimit else pod.lowLimit
      middleCount := if p.changes 2 then p.middleCount else pod.middleCount
      wakeSpan := if p.changes 3 then p.wakeSpan else pod.wakeSpan
      actions := if p.changes 4 then p.actionTable else pod.actions }
  if p.changes 0 && idle then x.applyStaged else x

/-- SET POD (R22). -/
def setPodOrder (p : SetPodP) (s : State) : Reply :=
  if !p.valid then refuse s .badField
  else
    accept
      { s with
        pods := s.pods.set (fin4 p.pod) ((s.pods.get (fin4 p.pod)).written p s.capIndex.isNone)
        monitor := { s.monitor with period := if p.changes 5 then p.period else s.monitor.period } }

/-- The source's ISOLATE record is open (R21): a MARK begin that came after it has replaced it (notes/assumptions/21.md). -/
def SourceRec.isolateOpen (r : SourceRec) : Bool := r.openRec == some .isolate

/-- The FAULT ends of CLEAR POD (R21). Their order OVER, UNDER, MIDDLE, LOST, HOT is the model's choice (notes/assumptions/21.md). -/
def State.closeIsolates (s : State) (p : Fin 4) : State :=
  FaultSource.order.foldl (fun s src =>
    if ((s.pods.get p).sources.get src).isolateOpen then s.faultEnd s.intervalTime p src .isolate 0xFF else s) s

/-- The pod with its latch clear, held by no source. -/
def Pod.cleared (pod : Pod) : Pod :=
  let f := fun (r : SourceRec) => { r with holdsLatch := false }
  { pod with latch := false, sources := ⟨f pod.sources.overLimit, f pod.sources.under, f pod.sources.middle, f pod.sources.lost, f pod.sources.hot⟩ }

/-- The action level ISOLATE. -/
def levelIsolate : Nat := 4

/-- CLEAR POD (R21). -/
def clearPodOrder (p : ClearPodP) (s : State) : Reply :=
  if !inRange p.pod 0 3 then refuse s .badField
  else if (s.pods.get (fin4 p.pod)).actionLevel = levelIsolate then refuse s .wrongState
  else if !(s.pods.get (fin4 p.pod)).latch then accept s
  else
    let s1 := s.closeIsolates (fin4 p.pod)
    accept ((s1.setPodAt (fin4 p.pod) (s1.pods.get (fin4 p.pod)).cleared).noteWaking (fin4 p.pod))

end Sys2Proof.Machine
end

