-- ==== Sys2Proof/Machine/Sampler.lean ====
section
/-! DEFINITION. Machine/Sampler.lean: the sampler (spec/03, 3.1 and 3.5): one interval, watch entry, the wake edge, resumption. -/

namespace Sys2Proof.Machine

/-- The sampler with the presented levels of an interval (R38, R39): they are the current levels, and the previous ones of the interval to come (R43). -/
def Sampler.formed (p : Sampler) (presented : Chans) (latched : BitVec 4) : Sampler :=
  { p with current := presented, previous := presented, latched := latched }

/-- The sampler with an interval's presented levels and the comparator levels they came from; `latched` are the pods whose latch is set. -/
def Sampler.sampled (p : Sampler) (comparators presented : Chans) (latched : BitVec 4) : Sampler :=
  { p.formed presented latched with comparators := comparators, givenLatched := latched }

/-- The sampler in WATCH with an interval's presented levels: a pod isolated since its comparator levels were given takes them from this interval,
every other pod's stand until its wake edge (R53, notes/assumptions/30.md). -/
def Sampler.watched (p : Sampler) (comparators presented : Chans) (latched : BitVec 4) : Sampler :=
  { p.formed presented latched with
    comparators := (p.comparators &&& ~~~podsChannels p.givenLatched) ||| (comparators &&& podsChannels p.givenLatched)
    givenLatched := latched }

/-- The listed channels whose presented level differs from the previous interval's. -/
def Sampler.differs (p : Sampler) (presented : Chans) : Chans := (presented ^^^ p.previous) &&& p.channels

/-- A transition (R51): a listed channel differs, and not because its pod's isolation latch has set or cleared. -/
def Sampler.transition (p : Sampler) (presented : Chans) (latched : BitVec 4) : Bool :=
  p.differs presented &&& ~~~podsChannels (p.latched ^^^ latched) != 0

/-- The idle timer loaded with the idle span in the interval of time `t` (R51). -/
def Sampler.idleLoaded (p : Sampler) (t : Tick) : Option Tick := p.idleSpan.map (fun n => tickAdd t (n * Config.ticksPerMs))

/-- A CHANGE if a listed channel differs or the levels are due to be restated (R43). -/
def State.changeRecord (s : State) (t : Tick) (presented : Chans) (due : Bool) : State :=
  if due then State.insert { s with sampler := { s.sampler with restateDue := false } } t (.change (presented &&& s.sampler.channels)) else s

/-- A take in trigger mode IMMEDIATE is triggered in its first sample interval (R73). -/
def State.immediate (s : State) (t : Tick) : State :=
  match s.capIndex with
  | none => s
  | some i => if (s.takeAt i).mode = .immediate ∧ (s.takeAt i).triggerable then s.trigger i .immediate 0 t else s

/-- One interval of SAMPLING (R39, R40, R43, R51): lanes and sequencer take the vector, then the CHANGE. The vector has the latches and unknown channels as
they stand when its command comes: a change of them that comes after it acts from the next vector on, while its FAULT record carries the interval in which
it came (R16, R19). Every lane takes the vector whole, with its ring offer, FRAME CLOSE and exceptions, before the sequencer judges it, so that a MARK FIRE on a
relation stands behind the FRAME CLOSE, as the table of 5.11 lists them and not as 7.6 does. Both are the model's choice (R42, R147, notes/assumptions/35.md). -/
def State.sampleVector (s : State) (t : Tick) (levels : Chans) : State :=
  let presented := s.presented levels
  let due := s.sampler.restateDue || s.sampler.differs presented != 0
  let moved := s.sampler.transition presented s.latchedPods
  let idle := if moved && s.sampler.idleTimer.isSome then s.sampler.idleLoaded t else s.sampler.idleTimer
  let s1 : State := { s with sampler := { s.sampler.sampled levels presented s.latchedPods with idleTimer := idle } }
  let s2 := s1.liveInterval t presented s.unknownNow
  let s3 := s2.seqVector t presented s.unknownNow
  (s3.changeRecord t presented due).immediate t

/-- The presented levels of an interval of WATCH or WAKING are formed (R39). -/
def State.formLevels (s : State) (levels : Chans) : State :=
  { s with sampler :=
      if s.sampler.state = .watch then s.sampler.watched levels (s.presented levels) s.latchedPods
      else s.sampler.formed (s.presented levels) s.latchedPods }

/-- One interval of WATCH (R52): lanes and sequencer take the levels held at watch entry, with the unknown mask as it stands. -/
def State.watchVector (s : State) (t : Tick) : State :=
  (s.liveInterval t s.sampler.watchLevels s.unknownNow).seqVector t s.sampler.watchLevels s.unknownNow

/-- The present interval is the first at which sampling may resume, or a later one (R54): every listed pod that entered WATCH is ON again, and the interval
begins at or after the expiry that brought the last of them there. Where none was in WATCH, at a wake edge (R53) or a trigger (R55), there is no expiry to wait for:
sampling resumes "at once" in the next SAMPLE_INTERVAL, which is the edge's own interval if its SAMPLE_INTERVAL is still to come, and that interval then has a
second vector: the model's choice (notes/assumptions/35.md). -/
def State.resumes (s : State) : Bool :=
  s.podsOf s.sampler.channels (fun p => p.power != .watch) &&
    (match s.sampler.onAgain with
      | none => true
      | some expiry => atOrBefore expiry s.intervalTime)

/-- The GAP of a resumption (R54). -/
def Sampler.wakeGap (p : Sampler) : RecBody := .gap 0 true p.wakingTrigger p.wakingPods

/-- Sampling resumes in the interval of time `t` (R54): GAP, ANCHOR, fault restatement, SAMPLING. The take counts the GAP whether or not staging had room
for it. -/
def State.resume (s : State) (t : Tick) : State :=
  match s.recordingIndex with
  | none => s
  | some i =>
    let s1 := (s.offer i t s.sampler.wakeGap).countGap i
    let s3 := (s1.offer i t (.anchor t)).restateFaults SourceRec.gapFault t
    { s3 with sampler := { s3.sampler with
        state := .sampling
        restateDue := true
        idleTimer := if (s3.takeAt i).state = .pretrig then s3.sampler.idleLoaded t else none
        wakingPods := 0
        wakingTrigger := false
        onAgain := none } }

/-- The interval's level vector is being formed (R39). -/
def State.forming (s : State) : State := { s with sampler := { s.sampler with formedAt := some s.intervalTime } }

/-- One interval of WAKING: no vector is delivered until sampling resumes (R40, R54). In the interval of resumption GAP, ANCHOR and restatement (R54) come
before the vector (R40), so that a FIRE on that vector lies outside the gap: the model's choice (notes/assumptions/35.md). -/
def State.wakingInterval (s : State) (levels : Chans) : State :=
  if s.resumes then (s.resume s.intervalTime).sampleVector s.intervalTime levels else s.formLevels levels

/-- One sample interval (R39). In WAKING the maxima of the intervals before it are judged first, while the sampler is WAKING (R98). -/
def State.sampleInterval (s : State) (levels : Chans) : State :=
  match s.sampler.state with
  | .idle => s
  | .sampling => s.forming.sampleVector s.intervalTime levels
  | .watch => (s.forming.formLevels levels).watchVector s.intervalTime
  | .waking => (s.forming.seqEarlier s.intervalTime).wakingInterval levels

/-- The idle timer has run out (R51): it runs only in SAMPLING during PRETRIG with the watch option. -/
def State.idleExpired (s : State) : Bool := s.sampler.state == .sampling && timerDue s.sampler.idleTimer s.tick

/-- Watch entry (R52). -/
def State.enterWatch (s : State) : State :=
  let s1 := (s.insert s.intervalTime .watch).podsWatch s.sampler.channels
  { s1 with sampler := { s1.sampler with state := .watch, idleTimer := none, watchLevels := s1.sampler.current } }

/-- The comparator levels change on a listed channel of a pod that is not isolated and was not when its levels were last given (R53): the relays that
an isolation latch opens and closes make no wake edge. -/
def State.wakeChange (s : State) (levels : Chans) : Bool :=
  ((levels ^^^ s.sampler.comparators) &&& s.sampler.channels &&& ~~~podsChannels (s.latchedPods ||| s.sampler.givenLatched)) != 0

/-- The sampler enters WAKING. -/
def Sampler.wakes (p : Sampler) : Sampler := { p with state := .waking, wakingPods := 0, wakingTrigger := false, onAgain := none }

/-- The wake edge (R53): latch, WAKE, one vector, gap notice, wake timers, WAKING. A trigger on that vector has already woken the sampler (R55). The lanes
take the gap notice first and the sequencer judges the relations of a part they emit there before it takes its own: the model's reading of R92 and R147
(notes/assumptions/18.md). Where the constant vector of the interval was handed before the edge, the wake sample is handed after it, in the same interval:
the model's choice (notes/assumptions/35.md). -/
def State.wakeEdge (s : State) (levels : Chans) : State :=
  let t := s.intervalTime
  let latched := s.presented levels &&& s.sampler.channels
  let s1 : State := { s with sampler := { s.sampler.sampled levels latched s.latchedPods with wakeLatch := some (latched, t) } }
  let s2 := s1.insert t (.wake latched)
  let s3 := (s2.liveInterval t latched s.unknownNow).seqVector t latched s.unknownNow
  if s3.sampler.state = .watch then
    let s4 := (s3.liveGap t).seqFlush.seqGap.wakePods
    { s4 with sampler := s4.sampler.wakes }
  else s3

end Sys2Proof.Machine
end

