-- ==== Sys2Proof/Machine/Dispatcher.lean ====
section
/-! DEFINITION. Machine/Dispatcher.lean: the order dispatcher (spec/10): nudges, the take, waits, HALT, SET ALERTS, the hand-over of an order to its unit. -/

namespace Sys2Proof.Machine

/-! ## SET ALERTS (R192) -/

/-- The staging trip level written, the trip armed against it (R48). -/
def Staging.levelled (f : Staging) (n : Nat) : Staging := { f with tripLevel := n, tripArmed := decide (f.fill ≤ n) }

/-- The pool trip level written, the trip armed against it (R61). -/
def Pool.levelled (p : Pool) (n : Nat) : Pool := { p with tripLevel := n, tripArmed := decide (n ≤ p.freeCount) }

/-- SET ALERTS. -/
def setAlertsOrder (p : SetAlertsP) (s : State) : Reply :=
  if !p.valid then refuse s .badField
  else
    accept
      { s with
        staging := if p.writeStaging = 1 then s.staging.levelled p.stagingLevel else s.staging
        pool := if p.writePool = 1 then s.pool.levelled p.poolLevel else s.pool }

/-! ## Orders in flight (R186) -/

/-- No long order is in flight in any unit: ARM, STOP, REPLAY, EXPORT, RENDER, SHOW (R188). -/
def State.noneInFlight (s : State) : Bool :=
  s.takes.entries.all (fun t => t.armOrder.isNone && t.stops.isEmpty) && !s.replay.running && s.exporter.queue.isEmpty &&
    s.render.order.isNone && s.panel.waitingShow.isNone

/-- The orders owed (R181). -/
def Dispatcher.owed (d : Dispatcher) : Nat := (d.posted - d.consumed).toNat

/-- FOLLOWING while orders are owed, else IDLE. -/
def Dispatcher.onward (d : Dispatcher) : Dispatcher := { d with state := if d.owed = 0 then .idle else .following, held := none }

/-! ## HALT (R189) -/

/-- The cursor left DONE that the take of record `next` retires, with its outcome. -/
def Dispatcher.retires (d : Dispatcher) (next : Nat) : Option (Nat × Outcome) :=
  match d.cursor, d.cursorOutcome with
  | some c, some oc => if c = next then none else some (c, oc)
  | _, _ => none

/-- The cursor left DONE is written RETIRED, keeping its outcome (R185, R187). A failed write halts the dispatcher (R194). -/
def State.retireCursor (s : State) (next : Nat) : State :=
  match s.disp.retires next with
  | some (c, oc) =>
    if s.fails .orderHeader then (s.accessed .orderHeader).linkHalt
    else { s.accessed .orderHeader with shared := s.shared.putUnit (stateAddr c) (stateUnit stRetired oc.code) }
  | none => s

/-- That write fails. -/
def State.retireFails (s : State) (next : Nat) : Bool := (s.disp.retires next).isSome && s.fails .orderHeader

/-- The dispatcher forgets its cursor and enters HALTED; counts and LINK BASE are kept (R189). -/
def State.haltDispatcher (s : State) : State := { s with disp := s.disp.afterFailure }

/-- HALT completes with OK, RETIRED at once. A dispatcher that the retirement of its old cursor has halted writes nothing more (R194). -/
def State.halt (s : State) (o : OrderRef) : State :=
  if s.retireFails o.addr then s.retireCursor o.addr else ((s.retireCursor o.addr).completeAs o .halt .ok [] true).haltDispatcher

/-- The page is written once more, in the state the HALT finds; a page write that fails halts the dispatcher, and the HALT is forgotten (R189, R194). -/
def State.haltOrder (s : State) (o : OrderRef) : State :=
  if s.disp.state ≠ .halted ∧ s.syncReport.disp.state = .halted then s.syncReport else s.syncReport.halt o

/-! ## The hand-over (R188) -/

/-- The unit's answer to an order of a kind with its parameter units. HALT is the dispatcher's own. -/
def unitReply (s : State) (o : OrderRef) (us : List Word64) : OrderKind → Reply
  | .note => accept s
  | .halt => accept s
  | .setAlerts => setAlertsOrder (SetAlertsP.read us) s
  | .setPod => setPodOrder (SetPodP.read us) s
  | .powerPod => powerPodOrder (PowerPodP.read us) s
  | .clearPod => clearPodOrder (ClearPodP.read us) s
  | .setStimulus => setStimulusOrder (SetStimulusP.read us) s
  | .runStimulus => runStimulusOrder (RunStimulusP.read us) s
  | .arm => armOrder o (ArmP.read us) s
  | .stop => stopOrder o s
  | .force => forceOrder s
  | .takeStatus => takeStatusOrder (TakeIdP.read us) s
  | .releaseTake => releaseTakeOrder (TakeIdP.read us) s
  | .setSequence => setSequenceOrder (SetSequenceP.read us) s
  | .setLane => setLaneOrder (SetLaneP.read us) s
  | .snapshotLane => snapshotLaneOrder (SnapshotLaneP.read us) s
  | .resumeLane => resumeLaneOrder (ResumeLaneP.read us) s
  | .setMatch => setMatchOrder (SetMatchP.read us) s
  | .replay => replayOrder o (ReplayP.read us) s
  | .exportOrder => exportOrder o (ExportP.read us) s
  | .render => renderOrder o (RenderP.read us) s
  | .showTable => showOrder o (ShowP.read us) s
  | .setPanel => setPanelOrder (SetPanelP.read us) s

/-- The order's parameters are read, which may fail. An order without a parameter area reads none. -/
def State.paramsFail (s : State) (kind : OrderKind) : Bool := kind.paramUnits != 0 && s.fails .orderParams

/-- What failures remain after the parameters are read. -/
def State.paramsRead (s : State) (kind : OrderKind) : State := if kind.paramUnits = 0 then s else s.accessed .orderParams

/-- After a lane order a replay that waited on the lane may end (R157). -/
def State.afterUnit (s : State) (kind : OrderKind) : State :=
  match kind with
  | .resumeLane => s.replayClose
  | _ => s

/-- An order is handed to its unit, which may fail to read its parameters: it then completes with LINK FAULT, and the unit changes nothing (R188, R194). -/
def State.handUnit (s : State) (o : OrderRef) (kind : OrderKind) : State :=
  let s1 := s.paramsRead kind
  if s.paramsFail kind then (s1.raise .link).complete o kind .linkFault []
  else ((unitReply s1 o (s1.shared.getUnits (paramAddr o.addr) kind.paramUnits) kind).finish o kind).afterUnit kind

/-- A taken order is handed on and the dispatcher goes on to FOLLOWING or IDLE (R186); a HALT takes it to HALTED from where it stands (R182). -/
def State.handOrder (s : State) (o : OrderRef) (kind : OrderKind) : State :=
  if kind = .halt then s.haltOrder o else State.handUnit { s with disp := s.disp.onward } o kind

/-! ## Record headers (spec/11, 11.2) -/

/-- The kind of a record. -/
def Mem.orderKind (m : Mem) (addr : Nat) : Option OrderKind := OrderKind.ofCode (m.get (wrapAddr addr)).toNat

/-- The BARRIER flag of a record. -/
def Mem.barrier (m : Mem) (addr : Nat) : Bool := (m.get (wrapAddr (addr + 1))).getLsbD 0

/-- The record as its unit sees it, with its ALERT flag. -/
def Mem.orderRef (m : Mem) (addr : Nat) : OrderRef := ⟨addr, (m.get (wrapAddr (addr + 1))).getLsbD 1⟩

/-- A taken order waits: on a barrier with orders in flight, or as an EXPORT on a full queue (R186). -/
def State.orderWaits (s : State) (barrier : Bool) (kind : OrderKind) : Bool :=
  (barrier && !s.noneInFlight) || (kind == .exportOrder && decide (Config.exportQueue ≤ s.exporter.queue.length))

/-! ## The take (R185) -/

/-- The cursor's link is read for the next record's address: there is a cursor, and no nudge in BROKEN has found the address already. -/
def Dispatcher.readsLink (d : Dispatcher) : Bool := d.cursor.isSome && d.found.isNone

/-- That read fails. -/
def State.linkReadFails (s : State) : Bool := s.disp.readsLink && s.fails .orderHeader

/-- What failures remain after the next record's address is found. -/
def State.linkRead (s : State) : State := if s.disp.readsLink then s.accessed .orderHeader else s

/-- The address of the next record: the first order address without a cursor, else the one found in BROKEN or the cursor's link. -/
def State.nextRecord (s : State) : Nat :=
  match s.disp.cursor, s.disp.found with
  | none, _ => s.disp.firstOrder
  | some c, none => (s.shared.getUnit (linkAddr c)).toNat
  | some _, some a => a

/-- An unusable address: BROKEN, with CHAIN raised. -/
def State.broken (s : State) : State := { s with disp := { s.disp with state := .broken, found := none }, alerts := s.alerts.raise .chain }

/-- The dispatcher with record `addr` taken as its cursor. -/
def Dispatcher.taking (d : Dispatcher) (addr : Nat) : Dispatcher :=
  { d with consumed := d.consumed + 1, cursor := some addr, cursorOutcome := none, found := none }

/-- Record `addr` is taken (steps 2 and 3): header read, TAKEN written, count and cursor advanced, the DONE cursor before it retired. -/
def State.takeRecord (s : State) (addr : Nat) : State :=
  let s1 := s.accessed .orderHeader
  if s.fails .orderHeader then s1.linkHalt
  else
    let s2 := s1.accessed .orderHeader
    if s1.fails .orderHeader then s2.linkHalt
    else
      let s3 : State := { s2 with shared := s2.shared.putUnit (stateAddr addr) (stateUnit stTaken 0) }
      let s4 := s3.retireCursor addr
      if s4.disp.state = .halted then { s4 with disp := { s4.disp with consumed := s4.disp.consumed + 1 } }
      else { s4 with disp := s4.disp.taking addr }

/-- A taken order is handed on, waits, or completes with BAD KIND (step 4). Its header is the one in `m`, shared memory as step 2 read it. -/
def State.handTaken (s : State) (m : Mem) (addr : Nat) : State :=
  if s.disp.state = .halted then s
  else
    let o := m.orderRef addr
    match m.orderKind addr with
    | none => State.complete { s with disp := s.disp.onward } o .note .badKind []
    | some kind =>
      if s.orderWaits (m.barrier addr) kind then s.stallOn addr
      else s.handOrder o kind

/-- ORDER_TAKE (R185): while FOLLOWING with orders owed. The header is read before TAKEN and RETIRED are written. -/
def State.takeOrder (s : State) : State :=
  if s.disp.state = .following ∧ s.disp.owed ≠ 0 then
    let s1 := s.linkRead
    if s.linkReadFails then s1.linkHalt
    else if usableAddr s1.nextRecord then (s1.takeRecord s1.nextRecord).handTaken s1.shared s1.nextRecord
    else s1.broken
  else s

/-- The wait of the held order ends (R186): its record is read again and it is handed to its unit. A record whose kind then is no code (R195) stays held, and
the dispatcher STALLED: the model's choice (notes/assumptions/10.md). -/
def State.waitEnds (s : State) : State :=
  match s.disp.state, s.disp.held with
  | .stalled, some addr =>
    (match s.shared.orderKind addr with
      | none => s
      | some kind =>
        if s.orderWaits (s.shared.barrier addr) kind then s
        else s.handOrder (s.shared.orderRef addr) kind)
  | _, _ => s

/-! ## Nudges (R183, R184) -/

/-- The four return marks of the control block at `base`. -/
def Mem.returnMark (m : Mem) (base : Nat) (k : Fin 4) : BitVec 32 := BitVec.ofNat 32 (m.getNat (base + 0x10 + 4 * k.val) 4)

/-- Every lane is handed its return mark; a replay that waited on ring space may end (R128, R157). -/
def State.handMarks (s : State) : State :=
  (fourOrder.foldl (fun s k => s.handMark k (s.shared.returnMark s.disp.linkBase.toNat k)) s).replayClose

/-- The first order address and the report page address of the control block. -/
def State.blockFirst (s : State) : Nat := (s.shared.getUnit s.disp.linkBase.toNat).toNat
def State.blockPage (s : State) : Nat := (s.shared.getUnit (s.disp.linkBase.toNat + 8)).toNat

/-- A posted count is refused: it is more than 4,096 ahead of the consumed count. -/
def refusesCount (value consumed : BitVec 32) : Bool := decide (Config.maxOwed < (value - consumed).toNat)

/-- The dispatcher that leaves HALTED (R184). -/
def Dispatcher.started (d : Dispatcher) (value : BitVec 32) (first page : Nat) : Dispatcher :=
  { d with
    state := if value = 0 then .idle else .following
    posted := value
    consumed := 0
    cursor := none
    cursorOutcome := none
    held := none
    firstOrder := first
    pageAddr := page
    found := none }

/-- A nudge in HALTED (R184). -/
def State.nudgeHalted (s : State) (value : BitVec 32) : State :=
  if !usableAddr s.disp.linkBase.toNat then s.raise .chain
  else
    let s1 : State := { s with disp := { s.disp with consumed := 0 } }
    if refusesCount value 0 then s1.raise .chain
    else if s1.fails .controlBlock then (s1.accessed .controlBlock).raise .link
    else
      let s2 := s1.accessed .controlBlock
      if !usableAddr s2.blockPage then s2.raise .chain
      else State.handMarks { s2 with disp := s2.disp.started value s2.blockFirst s2.blockPage }

/-- In BROKEN a nudge reads the link again; a usable address is kept, and the take goes on with it at its second step (R185). -/
def State.retryLink (s : State) : State :=
  if s.disp.state ≠ .broken then s
  else if s.linkReadFails then s.linkRead.linkHalt
  else if usableAddr s.nextRecord then
    { s.linkRead with disp := { s.disp with state := .following, found := s.disp.cursor.map (fun _ => s.nextRecord) } }
  else s.linkRead.broken

/-- The dispatcher with a count it takes: from IDLE it goes on if orders are owed (R182). -/
def Dispatcher.counted (d : Dispatcher) (value : BitVec 32) : Dispatcher :=
  { d with posted := value, state := if d.state = .idle ∧ value ≠ d.consumed then .following else d.state }

/-- The nudge's count is taken and handed to the page (R193), or ignored with CHAIN raised (R183). -/
def State.takeCount (s : State) (value : BitVec 32) : State :=
  if refusesCount value s.disp.consumed then s.raise .chain else State.hands { s with disp := s.disp.counted value } [unitPosted]

/-- The control block read at a nudge gives the first order address to a dispatcher without a cursor. -/
def State.readBlock (s : State) : State :=
  { s.accessed .controlBlock with disp := { s.disp with firstOrder := if s.disp.cursor.isNone then s.blockFirst else s.disp.firstOrder } }

/-- A nudge outside HALTED (R183). -/
def State.nudgeRunning (s : State) (value : BitVec 32) : State :=
  let s1 := s.takeCount value
  if s1.fails .controlBlock then (s1.accessed .controlBlock).linkHalt
  else s1.readBlock.handMarks.retryLink

/-- A nudge (R183, R184). -/
def State.nudge (s : State) (value : BitVec 32) : State :=
  if s.disp.state = .halted then s.nudgeHalted value else s.nudgeRunning value

/-! ## Resets (R1, R190, R191) -/

/-- The state a power-on or part reset leaves: every field at its reset value; what lies outside the part stands as it is: shared memory,
the sense inputs and the comparator outputs, and the commands waiting. -/
def State.powerReset (s : State) : State :=
  { State.reset with
    shared := s.shared
    pending := s.pending
    pods := ⟨{ Pod.reset with probeAbsent := s.pods.n0.probeAbsent, hotSense := s.pods.n0.hotSense },
      { Pod.reset with probeAbsent := s.pods.n1.probeAbsent, hotSense := s.pods.n1.hotSense },
      { Pod.reset with probeAbsent := s.pods.n2.probeAbsent, hotSense := s.pods.n2.hotSense },
      { Pod.reset with probeAbsent := s.pods.n3.probeAbsent, hotSense := s.pods.n3.hotSense }⟩
    sampler := { Sampler.reset with comparators := s.sampler.comparators } }

/-- A take whose ARM and STOP orders a link reset abandons (R66, R190). -/
def Take.abandoned (t : Take) : Take := { t with armOrder := none, stops := [] }

/-- The panel after a link reset (R172): DARK, tables let go, the waiting SHOW abandoned, configuration and frame count kept. R172 names no staged
configuration there: the model drops it, as R173 does at every other entry to DARK (the model's choice, notes/assumptions/28.md). -/
def Panel.linkReset (p : Panel) : Panel :=
  { p with scanning := false, staged := none, shown := none, pendingTable := none, waitingShow := none, drawn := none }

/-- The renderer abandoned: its hold drops, no outcome is written, its counter stays (R162). -/
def State.renderAbandon (s : State) : State :=
  let s1 := s.endRight .renderer s.render.held
  { s1 with render := s1.render.idled }

/-- The part after a link reset (R190, R191): units keep running, long orders in flight are abandoned, LINK is raised. -/
def State.linkReset (s : State) : State :=
  let s1 := ((s.replayAbandon).exportAbandon).renderAbandon
  { s1 with
    disp := Dispatcher.reset
    alerts := s1.alerts.raise .link
    takes := { s1.takes with entries := s1.takes.entries.map Take.abandoned }
    lanes := s1.lanes.map (fun l => { (if l.inReplay then l.cancelsReplay else l) with suspended := true })
    panel := s1.panel.linkReset }

/-- A write to LINK BASE: taken in HALTED, and the lanes' ring suspension ends (R131, R179). -/
def State.writeLinkBase (s : State) (value : Word64) : State :=
  { s with
    disp := { s.disp with linkBase := if s.disp.state = .halted then value else s.disp.linkBase }
    lanes := s.lanes.map (fun l => { l with suspended := false }) }

/-! ## Alert registers (R191) -/

/-- Each 1 written clears its cause. -/
def Alerts.cleared (a : Alerts) (value : BitVec 32) : Alerts := { a with causes := a.causes &&& ~~~(value.setWidth 8) }

/-- The new mask. -/
def Alerts.masked (a : Alerts) (value : BitVec 32) : Alerts := { a with mask := value.setWidth 8 }

/-- What the host reads from PART STATE (spec/11, 11.1). -/
def State.partStateRead (s : State) : BitVec 32 := BitVec.ofNat 32 (s.disp.state.code + place (s.disp.consumed.toNat % 2 ^ 16) 16)

end Sys2Proof.Machine
end

