-- ==== Sys2Proof/Machine/LinkCommands.lean ====
section
/-! DEFINITION. Machine/LinkCommands.lean: the resets, the register writes, the dispatcher's own steps and the tick. -/

namespace Sys2Proof.Machine

/-- What every command answers: the part goes on. -/
abbrev Result := Host.Outcome State Fault Refusal

/-- POWER_ON_RESET (R1, R179, R190). -/
def execPowerOnReset (s : State) : Result := .next s.powerReset

/-- PART_RESET: a write of 1 to PART STATE resets the part, any other value is ignored (R179). -/
def execPartReset (value : BitVec 32) (s : State) : Result := .next (if value = 1 then s.powerReset else s.finish)

/-- LINK_RESET (R190). -/
def execLinkReset (s : State) : Result := .next s.linkReset.finish

/-- LINK_BASE_WRITE (R179, R131). -/
def execLinkBaseWrite (value : Word64) (s : State) : Result := .next (s.writeLinkBase value).finish

/-- NUDGE (R183, R184). -/
def execNudge (value : BitVec 32) (stores : List HostStore) (s : State) : Result := .next ((s.hostStores stores).nudge value).finishEvents

/-- ALERT_CAUSE_WRITE (R191). -/
def execAlertCauseWrite (value : BitVec 32) (s : State) : Result :=
  .next (State.finish { s with alerts := s.alerts.cleared value })

/-- ALERT_MASK_WRITE (R191). -/
def execAlertMaskWrite (value : BitVec 32) (s : State) : Result :=
  .next (State.finish { s with alerts := s.alerts.masked value })

/-- ORDER_TAKE (R185). -/
def execOrderTake (stores : List HostStore) (s : State) : Result := .next (s.hostStores stores).takeOrder.finishEvents

/-- DISPATCHER_WAIT_ENDS (R186). -/
def execDispatcherWaitEnds (s : State) : Result := .next s.waitEnds.finishEvents

/-- STAGE_REPORT_DELAY_EXPIRY (R109): the page is brought up to date, the current stage and stack depth once 10 µs have passed. -/
def execStageReportDelayExpiry (s : State) : Result := .next s.finish

/-- TICK (R1): `count` ticks in a row. -/
def execTick (count : Nat) (s : State) : Result := .next { s with tick := tickAdd s.tick count, wraps := s.wraps + (s.tick.toNat + count) / 2 ^ 56, failPlan := [] }

end Sys2Proof.Machine
end

