-- ==== Sys2Proof/Machine/OrderCommands.lean ====
section
/-! DEFINITION. Machine/OrderCommands.lean: the order commands, each the moment its unit is handed the order with its parameters (R188). The unit answers
at once, with an outcome if the order is immediate or refused; what an order in flight answers comes with the event that ends it. -/

namespace Sys2Proof.Machine

/-- A unit's answer carried out: an order it completes is completed, and the step closes. -/
def orderResult (r : Reply) (o : OrderRef) (kind : OrderKind) : Result := .next (r.finish o kind).finish

/-- The same for an order that may hand the sequencer events: they are judged before the step closes (R92, R93). -/
def orderResultEvents (r : Reply) (o : OrderRef) (kind : OrderKind) : Result := .next (r.finish o kind).finishEvents

/-- NOTE (R188). -/
def execNote (o : OrderRef) (s : State) : Result := orderResult (accept s) o .note

/-- HALT (R189): the page is written before the report writer stops. -/
def execHalt (o : OrderRef) (s : State) : Result := .next (s.haltOrder o).finish

/-- SET ALERTS (R192). -/
def execSetAlerts (o : OrderRef) (p : SetAlertsP) (s : State) : Result := orderResult (setAlertsOrder p s) o .setAlerts

/-- SET POD (R22). -/
def execSetPod (o : OrderRef) (p : SetPodP) (s : State) : Result := orderResult (setPodOrder p s) o .setPod

/-- POWER POD (R7). -/
def execPowerPod (o : OrderRef) (p : PowerPodP) (s : State) : Result := orderResultEvents (powerPodOrder p s) o .powerPod

/-- CLEAR POD (R21). -/
def execClearPod (o : OrderRef) (p : ClearPodP) (s : State) : Result := orderResult (clearPodOrder p s) o .clearPod

/-- SET STIMULUS (R34). -/
def execSetStimulus (o : OrderRef) (p : SetStimulusP) (s : State) : Result := orderResult (setStimulusOrder p s) o .setStimulus

/-- RUN STIMULUS (R35). -/
def execRunStimulus (o : OrderRef) (p : RunStimulusP) (s : State) : Result := orderResult (runStimulusOrder p s) o .runStimulus

/-- ARM (R68). -/
def execArm (o : OrderRef) (p : ArmP) (s : State) : Result := orderResult (armOrder o p s) o .arm

/-- STOP (R79). -/
def execStop (o : OrderRef) (s : State) : Result := orderResult (stopOrder o s) o .stop

/-- FORCE (R75). -/
def execForce (o : OrderRef) (s : State) : Result := orderResult (forceOrder s) o .force

/-- TAKE STATUS (R80). -/
def execTakeStatus (o : OrderRef) (p : TakeIdP) (s : State) : Result := orderResult (takeStatusOrder p s) o .takeStatus

/-- RELEASE TAKE (R81). -/
def execReleaseTake (o : OrderRef) (p : TakeIdP) (s : State) : Result := orderResult (releaseTakeOrder p s) o .releaseTake

/-- SET SEQUENCE (R88). -/
def execSetSequence (o : OrderRef) (p : SetSequenceP) (s : State) : Result := orderResult (setSequenceOrder p s) o .setSequence

/-- SET LANE (R112). -/
def execSetLane (o : OrderRef) (p : SetLaneP) (s : State) : Result := orderResult (setLaneOrder p s) o .setLane

/-- SNAPSHOT LANE (R135). -/
def execSnapshotLane (o : OrderRef) (p : SnapshotLaneP) (s : State) : Result := orderResult (snapshotLaneOrder p s) o .snapshotLane

/-- RESUME LANE (R136): a replay that waited on the lane may go on to its end (R157). -/
def execResumeLane (o : OrderRef) (p : ResumeLaneP) (s : State) : Result :=
  .next (((resumeLaneOrder p s).finish o .resumeLane).afterUnit .resumeLane).finishEvents

/-- SET MATCH (R140). -/
def execSetMatch (o : OrderRef) (p : SetMatchP) (s : State) : Result := orderResult (setMatchOrder p s) o .setMatch

/-- REPLAY (R149). -/
def execReplay (o : OrderRef) (p : ReplayP) (s : State) : Result := orderResult (replayOrder o p s) o .replay

/-- EXPORT (R160). -/
def execExport (o : OrderRef) (p : ExportP) (s : State) : Result := orderResult (exportOrder o p s) o .exportOrder

/-- RENDER (R163). -/
def execRender (o : OrderRef) (p : RenderP) (s : State) : Result := orderResult (renderOrder o p s) o .render

/-- SHOW (R176). -/
def execShow (o : OrderRef) (p : ShowP) (s : State) : Result := orderResult (showOrder o p s) o .showTable

/-- SET PANEL (R173). -/
def execSetPanel (o : OrderRef) (p : SetPanelP) (s : State) : Result := orderResult (setPanelOrder p s) o .setPanel

end Sys2Proof.Machine
end

