-- ==== Sys2Proof/Machine/EventCommands.lean ====
section
/-! DEFINITION. Machine/EventCommands.lean: what comes about by time, by the pods, by the capture memory port and by the panel. An event that comes while its
condition does not hold (a timer not due, a grant to another client) does nothing but close the step (notes/assumptions/2.md). -/

namespace Sys2Proof.Machine

/-! ## Pods and generators -/

/-- WARM_TIMER_EXPIRY (R4). -/
def execWarmTimerExpiry (p : Fin 4) (s : State) : Result :=
  .next (if (s.pods.get p).power = .warming ∧ timerDue (s.pods.get p).warmTimer s.tick then s.warmOver p else s).finish

/-- WAKE_TIMER_EXPIRY (R5). -/
def execWakeTimerExpiry (p : Fin 4) (s : State) : Result :=
  .next (if (s.pods.get p).power = .watch ∧ timerDue (s.pods.get p).wakeTimer s.tick then s.wakeOver p else s).finish

/-- MONITOR_PERIOD_EXPIRY (R10 to R12). -/
def execMonitorPeriodExpiry (analog : List Int) (s : State) : Result :=
  .next (if atOrBefore s.monitor.expiry s.tick then s.monitorExpiry analog else s).finishEvents

/-- The sense inputs of pod `p` as they now stand. -/
def State.senses (s : State) (p : Fin 4) (probeAbsent hot : Bool) : State :=
  s.setPodAt p { s.pods.get p with probeAbsent := probeAbsent, hotSense := hot }

/-- POD_SENSE_CHANGE (R13): evaluated unless the pod is OFF (R6). -/
def execPodSenseChange (p : Fin 4) (probeAbsent hot : Bool) (s : State) : Result :=
  .next (if (s.pods.get p).power = .off then s.senses p probeAbsent hot else (s.senses p probeAbsent hot).evalSenses p).finishEvents

/-- PERIOD_END (R29). -/
def execPeriodEnd (g : Fin 4) (s : State) : Result := .next (if s.unitDue g && s.lastUnit g then s.unitPeriodEnd g else s).finish

/-- The end of a time unit of generator `g`: the last of a period ends the period (R25, R26, R29). -/
def State.unitEnds (s : State) (g : Fin 4) : State := if s.lastUnit g then s.unitPeriodEnd g else s.unitAdvance g

/-- UNIT_END (R25, R26). -/
def execUnitEnd (g : Fin 4) (s : State) : Result := .next (if s.unitDue g then s.unitEnds g else s).finish

/-! ## Capture -/

/-- SAMPLE_INTERVAL (R39). -/
def execSampleInterval (levels : Chans) (s : State) : Result := .next (s.sampleInterval levels).finishEvents

/-- FRAME_IDLE_EXPIRY (R116, R117, R120). -/
def execFrameIdleExpiry (k : Fin 4) (s : State) : Result := .next (s.laneIdleExpiry k).searchFlush.finishEvents

/-- WINDOW_MAXIMUM_JUDGED (R97). -/
def execWindowMaximumJudged (s : State) : Result := .next s.seqMaximum.finishEvents

/-- IDLE_TIMER_EXPIRY (R51, R52). -/
def execIdleTimerExpiry (s : State) : Result := .next (if s.idleExpired then s.enterWatch else s).finish

/-- The comparator outputs as last given, and the pods then isolated. -/
def State.compared (s : State) (levels : Chans) : State :=
  { s with sampler := { s.sampler with comparators := levels, givenLatched := s.latchedPods } }

/-- WAKE_EDGE (R53). -/
def execWakeEdge (levels : Chans) (s : State) : Result :=
  .next (if s.sampler.state == .watch && s.wakeChange levels then s.wakeEdge levels else s.compared levels).finishEvents

/-- The access in flight is one of client `c`. -/
def State.granted (s : State) (c : Client) : Bool :=
  match s.pool.inFlight with
  | none => false
  | some g => g.client == c

/-- CAPTURE_WRITER_ACCESS (R49). -/
def execCaptureWriterAccess (s : State) : Result := .next (if s.granted .writer then s.portFree.writerAccess else s).finish

/-- The capturing take enters ENDED if nothing of it is left to drain or settle. -/
def State.endIfReady (s : State) : State :=
  match s.capIndex with
  | none => s
  | some i => if s.readyToEnd i then s.enterEnded i else s

/-- TAKE_ENTERS_ENDED (R78). -/
def execTakeEntersEnded (s : State) : Result := .next s.endIfReady.finish

/-! ## Readers -/

/-- A reader takes the data of its completed access (R64). -/
def State.readerTakes (s : State) : Reader → State
  | .replay => s.replayAccess
  | .exporter => s.exportAccess
  | .renderer => s.renderAccessed

/-- A reader goes on after an access whose data is discarded (R65). -/
def State.readerResumes (s : State) : Reader → State
  | .replay => s.replayResume
  | .exporter => s.exportRun exportFuel
  | .renderer => s.renderResume

/-- A reader's access completes. The data of one whose right has ended is discarded, and so is that of one whose block is then dropped (R63, R65). -/
def State.readerDone (s : State) (r : Reader) : State :=
  match s.waitingDrop with
  | some b => (s.portFree.dropWaited b).readerResumes r
  | none => if s.staleAccess (Reader.client r) then s.portFree.readerResumes r else s.portFree.readerTakes r

/-- READER_ACCESS_COMPLETE (R65). -/
def execReaderAccessComplete (r : Reader) (s : State) : Result := .next (if s.granted (Reader.client r) then s.readerDone r else s).finish

/-- REPLAY_INTERVAL (R152). -/
def execReplayInterval (s : State) : Result := .next s.replayInterval.finish

/-- BLOCK_FREED (R83). -/
def execBlockFreed (takeId : Nat) (s : State) : Result := .next (s.freeOne takeId).finish

/-! ## Panel -/

/-- A frame start that is due. -/
def State.frameIfDue (s : State) : State := if s.frameDue then s.frame s.panel.nextFrame else s

/-- FRAME_START (R173). -/
def execFrameStart (stores : List HostStore) (s : State) : Result := .next (s.hostStores stores).frameIfDue.finish

end Sys2Proof.Machine
end

