-- ==== Sys2Proof/Machine/FailureCommands.lean ====
section
/-! DEFINITION. Machine/FailureCommands.lean: a step in the course of which a shared-memory access fails (R194). The step runs as it would, with the failure in
store: every access of the part asks takeAccess whether it fails. -/

namespace Sys2Proof.Machine

/-- The access number `nth` (from 0) of kind `access` in this step will fail. -/
def State.willFail (s : State) (access : LinkAccess) (nth : Nat) : State := { s with failPlan := s.failPlan ++ [(access, nth)] }

/-- A command run from a state with failures in store; a failure within a failure puts one more in store. -/
def runCommand : Instr → State → Result
  | .powerOnReset, s => execPowerOnReset s
  | .partReset value, s => execPartReset value s
  | .linkReset, s => execLinkReset s
  | .linkBaseWrite value, s => execLinkBaseWrite value s
  | .nudge value stores, s => execNudge value stores s
  | .alertCauseWrite value, s => execAlertCauseWrite value s
  | .alertMaskWrite value, s => execAlertMaskWrite value s
  | .orderTake stores, s => execOrderTake stores s
  | .dispatcherWaitEnds, s => execDispatcherWaitEnds s
  | .note o, s => execNote o s
  | .halt o, s => execHalt o s
  | .setAlerts o p, s => execSetAlerts o p s
  | .setPod o p, s => execSetPod o p s
  | .powerPod o p, s => execPowerPod o p s
  | .clearPod o p, s => execClearPod o p s
  | .setStimulus o p, s => execSetStimulus o p s
  | .runStimulus o p, s => execRunStimulus o p s
  | .arm o p, s => execArm o p s
  | .stop o, s => execStop o s
  | .force o, s => execForce o s
  | .takeStatus o p, s => execTakeStatus o p s
  | .releaseTake o p, s => execReleaseTake o p s
  | .setSequence o p, s => execSetSequence o p s
  | .setLane o p, s => execSetLane o p s
  | .snapshotLane o p, s => execSnapshotLane o p s
  | .resumeLane o p, s => execResumeLane o p s
  | .setMatch o p, s => execSetMatch o p s
  | .replay o p, s => execReplay o p s
  | .exportOrder o p, s => execExport o p s
  | .render o p, s => execRender o p s
  | .showTable o p, s => execShow o p s
  | .setPanel o p, s => execSetPanel o p s
  | .warmTimerExpiry pod, s => execWarmTimerExpiry pod s
  | .wakeTimerExpiry pod, s => execWakeTimerExpiry pod s
  | .monitorPeriodExpiry analog, s => execMonitorPeriodExpiry analog s
  | .podSenseChange pod probeAbsent hot, s => execPodSenseChange pod probeAbsent hot s
  | .periodEnd gen, s => execPeriodEnd gen s
  | .sampleInterval levels, s => execSampleInterval levels s
  | .frameIdleExpiry lane, s => execFrameIdleExpiry lane s
  | .windowMaximumJudged, s => execWindowMaximumJudged s
  | .idleTimerExpiry, s => execIdleTimerExpiry s
  | .wakeEdge levels, s => execWakeEdge levels s
  | .captureWriterAccess, s => execCaptureWriterAccess s
  | .takeEntersEnded, s => execTakeEntersEnded s
  | .readerAccessComplete reader, s => execReaderAccessComplete reader s
  | .replayInterval, s => execReplayInterval s
  | .blockFreed takeId, s => execBlockFreed takeId s
  | .frameStart stores, s => execFrameStart stores s
  | .stageReportDelayExpiry, s => execStageReportDelayExpiry s
  | .sharedMemoryAccessFailure access nth during, s => runCommand during (s.willFail access nth)
  | .tick count, s => execTick count s
  | .unitEnd gen, s => execUnitEnd gen s

/-- SHARED_MEMORY_ACCESS_FAILURE (R194). -/
def execSharedMemoryAccessFailure (access : LinkAccess) (nth : Nat) (during : Instr) (s : State) : Result :=
  runCommand during (s.willFail access nth)

end Sys2Proof.Machine
end

