-- ==== Sys2Proof/Machine/Dispatch.lean ====
section
/-! DEFINITION. Machine/Dispatch.lean: the meaning of every command, one arm each. -/

namespace Sys2Proof.Machine

/-- The effect of a command on everything but the queue of waiting commands. -/
def exec (i : Instr) (s : State) : Host.Outcome State Fault Refusal :=
  match i with
  | .powerOnReset => Sys2Proof.Machine.execPowerOnReset s
  | .partReset value => Sys2Proof.Machine.execPartReset value s
  | .linkReset => Sys2Proof.Machine.execLinkReset s
  | .linkBaseWrite value => Sys2Proof.Machine.execLinkBaseWrite value s
  | .nudge value stores => Sys2Proof.Machine.execNudge value stores s
  | .alertCauseWrite value => Sys2Proof.Machine.execAlertCauseWrite value s
  | .alertMaskWrite value => Sys2Proof.Machine.execAlertMaskWrite value s
  | .orderTake stores => Sys2Proof.Machine.execOrderTake stores s
  | .dispatcherWaitEnds => Sys2Proof.Machine.execDispatcherWaitEnds s
  | .note o => Sys2Proof.Machine.execNote o s
  | .halt o => Sys2Proof.Machine.execHalt o s
  | .setAlerts o p => Sys2Proof.Machine.execSetAlerts o p s
  | .setPod o p => Sys2Proof.Machine.execSetPod o p s
  | .powerPod o p => Sys2Proof.Machine.execPowerPod o p s
  | .clearPod o p => Sys2Proof.Machine.execClearPod o p s
  | .setStimulus o p => Sys2Proof.Machine.execSetStimulus o p s
  | .runStimulus o p => Sys2Proof.Machine.execRunStimulus o p s
  | .arm o p => Sys2Proof.Machine.execArm o p s
  | .stop o => Sys2Proof.Machine.execStop o s
  | .force o => Sys2Proof.Machine.execForce o s
  | .takeStatus o p => Sys2Proof.Machine.execTakeStatus o p s
  | .releaseTake o p => Sys2Proof.Machine.execReleaseTake o p s
  | .setSequence o p => Sys2Proof.Machine.execSetSequence o p s
  | .setLane o p => Sys2Proof.Machine.execSetLane o p s
  | .snapshotLane o p => Sys2Proof.Machine.execSnapshotLane o p s
  | .resumeLane o p => Sys2Proof.Machine.execResumeLane o p s
  | .setMatch o p => Sys2Proof.Machine.execSetMatch o p s
  | .replay o p => Sys2Proof.Machine.execReplay o p s
  | .exportOrder o p => Sys2Proof.Machine.execExport o p s
  | .render o p => Sys2Proof.Machine.execRender o p s
  | .showTable o p => Sys2Proof.Machine.execShow o p s
  | .setPanel o p => Sys2Proof.Machine.execSetPanel o p s
  | .warmTimerExpiry pod => Sys2Proof.Machine.execWarmTimerExpiry pod s
  | .wakeTimerExpiry pod => Sys2Proof.Machine.execWakeTimerExpiry pod s
  | .monitorPeriodExpiry analog => Sys2Proof.Machine.execMonitorPeriodExpiry analog s
  | .podSenseChange pod probeAbsent hot => Sys2Proof.Machine.execPodSenseChange pod probeAbsent hot s
  | .periodEnd gen => Sys2Proof.Machine.execPeriodEnd gen s
  | .sampleInterval levels => Sys2Proof.Machine.execSampleInterval levels s
  | .frameIdleExpiry lane => Sys2Proof.Machine.execFrameIdleExpiry lane s
  | .windowMaximumJudged => Sys2Proof.Machine.execWindowMaximumJudged s
  | .idleTimerExpiry => Sys2Proof.Machine.execIdleTimerExpiry s
  | .wakeEdge levels => Sys2Proof.Machine.execWakeEdge levels s
  | .captureWriterAccess => Sys2Proof.Machine.execCaptureWriterAccess s
  | .takeEntersEnded => Sys2Proof.Machine.execTakeEntersEnded s
  | .readerAccessComplete reader => Sys2Proof.Machine.execReaderAccessComplete reader s
  | .replayInterval => Sys2Proof.Machine.execReplayInterval s
  | .blockFreed takeId => Sys2Proof.Machine.execBlockFreed takeId s
  | .frameStart stores => Sys2Proof.Machine.execFrameStart stores s
  | .stageReportDelayExpiry => Sys2Proof.Machine.execStageReportDelayExpiry s
  | .sharedMemoryAccessFailure access nth during => Sys2Proof.Machine.execSharedMemoryAccessFailure access nth during s
  | .tick count => Sys2Proof.Machine.execTick count s
  | .unitEnd gen => Sys2Proof.Machine.execUnitEnd gen s

end Sys2Proof.Machine
end

