-- ==== Sys2Proof/WellFormed.lean ====
section
/-! DEFINITION. WellFormed.lean: the commands that can come to the part: an order record at an address the dispatcher takes, every parameter the
content of its unit or of its place in a unit (spec/11, 11.2), every host store one aligned unit, one analog level for each channel.
Whether an order's fields lie in its ranges is no matter of form: its unit checks them (R195). -/

namespace Sys2Proof

/-- An 8-byte unit holds the number. -/
def fitsUnit (n : Nat) : Bool := decide (n < 2 ^ 64)

/-- An 8-byte unit holds the number as a two's complement number. -/
def fitsSigned (n : Int) : Bool := decide (-(2 ^ 63) ≤ n ∧ n < 2 ^ 63)

/-- `w` bits hold the number. -/
def fitsBits (w n : Nat) : Bool := decide (n < 2 ^ w)

/-- A shared-memory address of an 8-byte unit (spec/00, Conventions). -/
def unitAddress (a : Nat) : Bool := a % 8 == 0 && fitsUnit a

/-- A record address that the dispatcher takes: not 0, a multiple of 8 (R185). -/
def OrderRef.wellFormed (o : OrderRef) : Bool := o.addr != 0 && unitAddress o.addr

/-- A host store writes one unit. -/
def HostStore.wellFormed (st : HostStore) : Bool := unitAddress st.addr

/-- SET ALERTS. -/
def SetAlertsP.wellFormed (p : SetAlertsP) : Bool := [p.writeStaging, p.stagingLevel, p.writePool, p.poolLevel].all fitsUnit

/-- SET POD. -/
def SetPodP.wellFormed (p : SetPodP) : Bool :=
  [p.pod, p.change, p.middleCount, p.wakeSpan, p.actions, p.period].all fitsUnit &&
    [p.threshold, p.hysteresis, p.highLimit, p.lowLimit].all fitsSigned

/-- POWER POD. -/
def PowerPodP.wellFormed (p : PowerPodP) : Bool := [p.pod, p.direction, p.warmSpan].all fitsUnit

/-- SET STIMULUS. -/
def SetStimulusP.wellFormed (p : SetStimulusP) : Bool :=
  [p.generator, p.write, p.unitExp, p.period, p.duty, p.alignment, p.polarity, p.carrier, p.carrierPeriod, p.burst, p.chaining].all fitsUnit

/-- ARM. -/
def ArmP.wellFormed (p : ArmP) : Bool := [p.channels, p.intervalExp, p.depth, p.share, p.mode, p.watch, p.idleSpan].all fitsUnit

/-- A term position. -/
def TermP.wellFormed (t : TermP) : Bool :=
  fitsBits 8 t.kind && fitsBits 8 t.sel && fitsBits 8 t.arg && fitsBits 40 t.rest && fitsBits 32 t.mask && fitsBits 32 t.value

/-- A stage record: four term positions, and the places of units 8 to 10. -/
def StageP.wellFormed (p : StageP) : Bool :=
  p.terms.length == 4 && p.terms.all TermP.wellFormed &&
    [p.combine, p.metAction, p.metTarget, p.resume, p.earlyAction, p.earlyTarget, p.lateAction, p.lateTarget, p.stimAction, p.stimGen].all (fitsBits 8) &&
    fitsBits 16 p.count && fitsBits 1 p.mark && fitsBits 32 p.winMin && fitsBits 32 p.winMax

/-- SET SEQUENCE: sixteen stage records. -/
def SetSequenceP.wellFormed (p : SetSequenceP) : Bool := fitsUnit p.count && p.stages.length == 16 && p.stages.all StageP.wellFormed

/-- SET LANE: six protocol units. -/
def SetLaneP.wellFormed (p : SetLaneP) : Bool :=
  [p.lane, p.kind, p.source, p.chA, p.chB, p.chC, p.excMask, p.ringAddr, p.capacity, p.startCount, p.trip].all fitsUnit &&
    p.params.length == 6 && p.params.all fitsUnit

/-- SET MATCH. -/
def SetMatchP.wellFormed (p : SetMatchP) : Bool := [p.slot, p.enable, p.lane, p.index, p.mask, p.reference, p.mode].all fitsUnit

/-- REPLAY. -/
def ReplayP.wellFormed (p : ReplayP) : Bool := [p.takeId, p.rangeStart, p.rangeEnd, p.lanes, p.search, p.capacity].all fitsUnit

/-- EXPORT. -/
def ExportP.wellFormed (p : ExportP) : Bool := [p.takeId, p.firstBlock, p.count, p.dest, p.capacity].all fitsUnit

/-- RENDER: 32 trace units. -/
def RenderP.wellFormed (p : RenderP) : Bool :=
  [p.source, p.winStart, p.width, p.cols, p.traceCount, p.tableA, p.tableB].all fitsUnit && p.traces.length == 32 && p.traces.all fitsUnit

/-- SET PANEL: 32 band units and two palette units. -/
def SetPanelP.wellFormed (p : SetPanelP) : Bool :=
  [p.enable, p.overlay, p.stride, p.origin, p.width, p.bandCount].all fitsUnit && p.bands.length == 32 && p.bands.all fitsUnit &&
    p.palette.length == 2

/-- A command that can come to the part. -/
def Instr.wellFormed : Instr → Bool
  | .powerOnReset => true
  | .partReset _ => true
  | .linkReset => true
  | .linkBaseWrite _ => true
  | .nudge _ stores => stores.all HostStore.wellFormed
  | .alertCauseWrite _ => true
  | .alertMaskWrite _ => true
  | .orderTake stores => stores.all HostStore.wellFormed
  | .dispatcherWaitEnds => true
  | .note o => o.wellFormed
  | .halt o => o.wellFormed
  | .setAlerts o p => o.wellFormed && p.wellFormed
  | .setPod o p => o.wellFormed && p.wellFormed
  | .powerPod o p => o.wellFormed && p.wellFormed
  | .clearPod o p => o.wellFormed && fitsUnit p.pod
  | .setStimulus o p => o.wellFormed && p.wellFormed
  | .runStimulus o p => o.wellFormed && fitsUnit p.generator && fitsUnit p.action
  | .arm o p => o.wellFormed && p.wellFormed
  | .stop o => o.wellFormed
  | .force o => o.wellFormed
  | .takeStatus o p => o.wellFormed && fitsUnit p.takeId
  | .releaseTake o p => o.wellFormed && fitsUnit p.takeId
  | .setSequence o p => o.wellFormed && p.wellFormed
  | .setLane o p => o.wellFormed && p.wellFormed
  | .snapshotLane o p => o.wellFormed && fitsUnit p.lane
  | .resumeLane o p => o.wellFormed && fitsUnit p.lane && fitsUnit p.clear && fitsUnit p.excMask
  | .setMatch o p => o.wellFormed && p.wellFormed
  | .replay o p => o.wellFormed && p.wellFormed
  | .exportOrder o p => o.wellFormed && p.wellFormed
  | .render o p => o.wellFormed && p.wellFormed
  | .showTable o p => o.wellFormed && fitsUnit p.table
  | .setPanel o p => o.wellFormed && p.wellFormed
  | .warmTimerExpiry _ => true
  | .wakeTimerExpiry _ => true
  | .monitorPeriodExpiry analog => analog.length == 32
  | .podSenseChange _ _ _ => true
  | .periodEnd _ => true
  | .sampleInterval _ => true
  | .frameIdleExpiry _ => true
  | .windowMaximumJudged => true
  | .idleTimerExpiry => true
  | .wakeEdge _ => true
  | .captureWriterAccess => true
  | .takeEntersEnded => true
  | .readerAccessComplete _ => true
  | .replayInterval => true
  | .blockFreed id => decide (1 ≤ id ∧ id ≤ 255)
  | .frameStart stores => stores.all HostStore.wellFormed
  | .stageReportDelayExpiry => true
  | .sharedMemoryAccessFailure _ _ during => during.wellFormed
  | .tick _ => true
  | .unitEnd _ => true

end Sys2Proof
end

