-- ==== Sys2Proof/Safety.lean ====
section
/-! DEFINITION. Safety.lean: what every state of the part has (the invariants of the statements), and the words the statements use: a step's closing,
an order's completion, the bytes of shared memory that a step may write. -/

namespace Sys2Proof.Machine

/-! ## Invariants -/

/-- The indices of the blocks that are not FREE. -/
def Pool.owned (p : Pool) : List Nat := p.blocks.map (fun e => e.1)

/-- Every one of the 4,096 blocks is in exactly one place: the free list, or one entry of the block table that is not FREE (R57, R58). -/
def Pool.partitioned (p : Pool) : Prop := (p.owned ++ p.free).Perm (List.range Config.blockCount)

/-- The take table as ARM and the releases leave it (R66, R67): eight entries, an EMPTY one alone without an id and never with sealed blocks, no id twice,
at most one take capturing, and nothing acquired before PRETRIG. -/
def State.takesNamed (s : State) : Prop :=
  s.takes.entries.length = 8 ∧
  (∀ i, ((s.takeAt i).state = .empty ↔ (s.takeAt i).id = 0) ∧ ((s.takeAt i).state = .empty → (s.takeAt i).sealedCount = 0) ∧
    ((s.takeAt i).state = .waiting → (s.takeAt i).firstSeq = 0 ∧ (s.takeAt i).sealedCount = 0 ∧ (s.takeAt i).acquired = 0) ∧
    (s.takeAt i).firstSeq < 2 ^ 32) ∧
  (∀ i j, (s.takeAt i).id = (s.takeAt j).id → (s.takeAt i).id ≠ 0 → i = j) ∧
  (∀ i j, (s.takeAt i).capturing = true → (s.takeAt j).capturing = true → i = j)

/-- The block entry is SEALED at place `j` of the sealed sequence of take `t` (R60, R66). -/
def Block.sealedAt (e : Block) (t : Take) (j : Nat) : Prop := e.sealedIn = true ∧ e.takeId = t.id ∧ e.seqNo = (t.firstSeq + j) % 2 ^ 32

/-- The block entry is the FILLING block of take `t`: it follows the sealed sequence, and is the last one acquired (R59). -/
def Block.fillsIn (e : Block) (t : Take) : Prop :=
  t.sampling = true ∧ e.takeId = t.id ∧ e.seqNo = (t.firstSeq + t.sealedCount) % 2 ^ 32 ∧ t.acquired = (e.seqNo + 1) % 2 ^ 32

/-- The block with one more record, not its first, written behind those it holds (R49). -/
def Block.written (e : Block) (r : Staged) : Block := { e with records := e.records ++ [r.record], lastTick := r.time }

/-- Every block stands where R58 has it: on the free list; FILLING, and then the capture writer's; or SEALED, at one place of one take's sealed sequence, each
place of which one block has. The last clause says which number the next block gets while a take that goes on has no filling block. -/
def State.blocksPlaced (s : State) : Prop :=
  s.pool.partitioned ∧ s.takesNamed ∧
  (∀ b e, s.pool.block b = some e → (e.sealedIn = false ↔ s.writer.filling = some b)) ∧
  (∀ b, s.writer.filling = some b → ∃ e i, s.pool.block b = some e ∧ e.fillsIn (s.takeAt i)) ∧
  (∀ b e, s.pool.block b = some e → e.sealedIn = true → ∃ i j, j < (s.takeAt i).sealedCount ∧ e.sealedAt (s.takeAt i) j) ∧
  (∀ i j, j < (s.takeAt i).sealedCount → ∃! b, ∃ e, s.pool.block b = some e ∧ e.sealedAt (s.takeAt i) j) ∧
  (∀ i, (s.takeAt i).sampling = true → (s.takeAt i).endReason = none → s.writer.filling = none →
    (s.takeAt i).acquired = ((s.takeAt i).firstSeq + (s.takeAt i).sealedCount) % 2 ^ 32)

/-- The tables of fixed size have their sizes: eight take entries (R66), eight match slots (R139), 32 monitored channels (R10), the 64 units of the
report page (R193). -/
def State.tablesSized (s : State) : Prop :=
  s.takes.entries.length = 8 ∧ s.slots.length = 8 ∧ s.monitor.channels.length = 32 ∧ s.report.image.length = 64

/-- No failure is in store, as between any two steps (R194). -/
def State.settled (s : State) : Prop := s.failPlan = []

/-- A state between two steps: no failure in store, shared memory in its canonical form. Both are kept by every step. -/
def State.ready (s : State) : Prop := s.settled ∧ s.shared.wf = true

/-- No event waits for the sequencer (R92, R93). -/
def State.quiet (s : State) : Prop := s.seq.events = SeqEvents.none

/-- The commands that set or advance the tick count (R1). -/
def movesTick : Instr → Bool
  | .powerOnReset => true
  | .partReset value => value == 1
  | .tick _ => true
  | .sharedMemoryAccessFailure _ _ during => movesTick during
  | _ => false

/-! ## Bytes -/

/-- Address `a` is one of the `n` bytes from `base` on, addresses taken modulo 2^64. -/
def inBytes (base n a : Nat) : Prop := (a + 2 ^ 64 - base % 2 ^ 64) % 2 ^ 64 < n

/-- Address `a` lies in the report page, which the report writer writes outside HALTED (R193). -/
def State.inPage (s : State) (a : Nat) : Prop := s.disp.state ≠ .halted ∧ inBytes s.disp.pageAddr 512 a

/-- Every byte outside `written` and the page of `s` reads in `t` as in `s`. -/
def bytesKept (s t : State) (written : Nat → Prop) : Prop :=
  ∀ a, a < 2 ^ 64 → ¬ written a → ¬ s.inPage a → t.shared.get a = s.shared.get a

/-- A step stores nothing of its own. -/
def storesNothing (_ : Nat) : Prop := False

/-- Every unit of the part is in `t` as in `s`: only the dispatcher, the alert causes, the report writer, the port and shared memory may differ. -/
def unitsKept (s t : State) : Prop :=
  t.pods = s.pods ∧ t.monitor = s.monitor ∧ t.gens = s.gens ∧ t.chain01 = s.chain01 ∧ t.chain23 = s.chain23 ∧ t.sampler = s.sampler ∧
    t.staging = s.staging ∧ t.writer = s.writer ∧ t.takes = s.takes ∧ t.seq = s.seq ∧ t.lanes = s.lanes ∧ t.slots = s.slots ∧ t.replay = s.replay ∧
    t.exporter = s.exporter ∧ t.render = s.render ∧ t.panel = s.panel ∧ t.pool.blocks = s.pool.blocks ∧ t.pool.free = s.pool.free ∧
    t.pool.tripLevel = s.pool.tripLevel ∧ t.pool.tripArmed = s.pool.tripArmed

/-! ## The closing of a step -/

/-- `t` is `u` closed: the port may have granted (R64), the page is up to date, no failure is in store; nothing else differs. -/
def closedFrom (u t : State) : Prop :=
  t = { u with
    shared := t.shared
    report := t.report
    failPlan := []
    pool := { u.pool with lastGranted := t.pool.lastGranted, inFlight := t.pool.inFlight } } ∧
  bytesKept u t storesNothing

/-! ## Completion of an order (R187) -/

/-- The state an order's record is left in: DONE as the cursor, else RETIRED. -/
def State.recordState (s : State) (o : OrderRef) : Nat := if s.disp.cursor = some o.addr then stDone else stRetired

/-- The bytes that a completion with `n` result units writes. -/
def completionBytes (o : OrderRef) (kind : OrderKind) (n a : Nat) : Prop :=
  inBytes (stateAddr o.addr) 8 a ∨ inBytes (resultAddr o.addr kind) (8 * n) a

/-- The record of an order with `n` result units lies at an address the dispatcher takes, inside the address space and clear of the report page. -/
def State.recordClear (s : State) (o : OrderRef) (kind : OrderKind) (n : Nat) : Prop :=
  usableAddr o.addr = true ∧ resultAddr o.addr kind + 8 * n ≤ 2 ^ 64 ∧
    (s.disp.state = .halted ∨
      (s.disp.pageAddr + 512 ≤ 2 ^ 64 ∧ (resultAddr o.addr kind + 8 * n ≤ s.disp.pageAddr ∨ s.disp.pageAddr + 512 ≤ o.addr)))

/-- `t` is `u` with the order completed and the step closed: outcome and state in the record's state unit, the result in its area, ORDER raised if the order
asks for it, the outcome of the cursor noted; nothing else differs, and no other byte outside the page does. -/
def completedFrom (u t : State) (o : OrderRef) (kind : OrderKind) (oc : Outcome) (result : List Word64) : Prop :=
  t = { u with
    shared := t.shared
    report := t.report
    failPlan := []
    disp := { u.disp with cursorOutcome := if u.disp.cursor = some o.addr then some oc else u.disp.cursorOutcome }
    alerts := u.alerts.raiseIf o.alert .order
    pool := { u.pool with lastGranted := t.pool.lastGranted, inFlight := t.pool.inFlight } } ∧
  t.shared.getUnit (stateAddr o.addr) = stateUnit (u.recordState o) oc.code ∧
  t.shared.getUnits (resultAddr o.addr kind) result.length = result ∧
  bytesKept u t (completionBytes o kind result.length)

end Sys2Proof.Machine
end

