-- ==== Sys2Proof/Certificates/Slice0/Obligations.lean ====
section
/-! DEFINITION. Certificates/Slice0/Obligations.lean: the statements for the provers. `ready s` says what holds between any two steps; `closedFrom u t` and
`completedFrom u t` (Safety.lean) say that `t` is `u` with the step closed, or with an order completed and the step closed, and nothing else different. -/

open Sys2Proof Sys2Proof.Machine

/-! ## The queue, and what every step keeps -/

/-- A step runs the command in front of the queue on the part with the rest of the queue; with nothing waiting the part idles (log 13). -/
def Obligations.StepRunsFrontCommand : Prop :=
  (∀ (c : Instr) (rest : List Instr) (s : State), step { s with pending := c :: rest } = exec c { s with pending := rest }) ∧
  (∀ s : State, s.pending = [] → step s = .next s)

/-- No command stops the part: each answers a next state, as the model reads the manual (log 33). The rest is the model's choice, not the manual's: no failure is left in store
(log 12), no command touches the queue (log 13), and only the resets and TICK move the tick count (log 1), by themselves or in a failure command (log 12). -/
def Obligations.EveryCommandGoesOn : Prop :=
  ∀ (c : Instr) (s : State), ∃ t, exec c s = .next t ∧ t.settled ∧ t.pending = s.pending ∧ (movesTick c = false → t.tick = s.tick)

/-- Every step keeps the canonical form of shared memory: addresses rising, no byte 0 listed. The form is the model's own, not the manual's (log 6). -/
def Obligations.MemoryStaysCanonical : Prop :=
  ∀ s t : State, s.shared.wf = true → step s = .next t → t.shared.wf = true

/-- Every step keeps each of the 4,096 blocks in exactly one place (R57, R58): on the free list or owned; and, once the take table is as ARM and the releases leave it,
each owned block FILLING as the capture writer's alone, or SEALED at one place of one take's sealed sequence, each place of which one block has. -/
def Obligations.BlocksStayPartitioned : Prop :=
  (∀ s t : State, s.pool.partitioned → step s = .next t → t.pool.partitioned) ∧
  (∀ s t : State, s.blocksPlaced → step s = .next t → t.blocksPlaced)

/-- Every step keeps the sizes of the tables. -/
def Obligations.TablesKeepTheirSizes : Prop :=
  ∀ s t : State, s.tablesSized → step s = .next t → t.tablesSized

/-- The part after power-on reset meets what every step keeps: every block in its place and the tables at their sizes (R58, R66); and, by the model's own
conventions, shared memory in canonical form (log 6) and no failure in store (log 12). Its queue is empty there, which is the model's choice too (log 13) and no invariant. -/
def Obligations.InvariantsAtReset : Prop :=
  State.reset.ready ∧ State.reset.pool.partitioned ∧ State.reset.blocksPlaced ∧ State.reset.tablesSized ∧ State.reset.pending = []

/-! ## Time and resets -/

/-- The tick count of R1, 56 bits, one more at every tick and 0 after 2^56 - 1; 0 after power-on and part reset, unchanged by a link reset. That TICK adds its ticks at once,
and by itself neither writes the page nor grants the port, is the model's choice (logs 1, 14, 15), as is the count of the wraps beside it (log 32). -/
def Obligations.TickCount : Prop :=
  ∀ s : State, s.ready →
    (∃ t, exec (.tick 1) s = .next t ∧ t = { s with tick := s.tick + 1, wraps := t.wraps } ∧
      (s.tick.toNat = 2 ^ 56 - 1 → t.tick = 0 ∧ t.wraps = s.wraps + 1) ∧
      (s.tick.toNat < 2 ^ 56 - 1 → t.tick.toNat = s.tick.toNat + 1 ∧ t.wraps = s.wraps)) ∧
    (∀ n : Nat, exec (.tick n) s = .next { s with tick := s.tick + BitVec.ofNat 56 n, wraps := s.wraps + (s.tick.toNat + n) / 2 ^ 56 }) ∧
    (∃ t, exec .powerOnReset s = .next t ∧ t.tick = 0) ∧
    (∃ t, exec (.partReset 1) s = .next t ∧ t.tick = 0) ∧
    (∃ t, exec .linkReset s = .next t ∧ t.tick = s.tick)

/-- Power-on reset and part reset leave every field at its reset value, but for what lies outside the part: shared memory, the queue, the sense inputs and
the comparator outputs (log 8). Any other value written to PART STATE changes nothing. -/
def Obligations.ResetReturnsEveryField : Prop :=
  ∀ s : State, s.ready →
    exec .powerOnReset s = .next s.powerReset ∧ exec (.partReset 1) s = .next s.powerReset ∧
    s.powerReset = { State.reset with shared := s.shared, pending := s.pending, pods := s.powerReset.pods, sampler := s.powerReset.sampler } ∧
    (∀ p : Fin 4, s.powerReset.pods.get p =
      { Pod.reset with probeAbsent := (s.pods.get p).probeAbsent, hotSense := (s.pods.get p).hotSense }) ∧
    s.powerReset.sampler = { Sampler.reset with comparators := s.sampler.comparators } ∧
    (∀ v : BitVec 32, v ≠ 1 → ∃ t, exec (.partReset v) s = .next t ∧ closedFrom s t)

/-- Values after power-on reset (R2, R10, R24, R38, R44, R48, R58, R61, R66, R85, R110, R139, R162, R172, R179, R181). -/
def Obligations.ValuesAtReset : Prop :=
  (∀ p : Fin 4, (State.reset.pods.get p).power = .off ∧ (State.reset.pods.get p).applied = ⟨140, 5⟩ ∧ (State.reset.pods.get p).wakeSpan = 20 ∧
    (State.reset.pods.get p).highLimit = 150 ∧ (State.reset.pods.get p).lowLimit = -50 ∧ (State.reset.pods.get p).middleCount = 4 ∧
    (State.reset.pods.get p).actions = ⟨.isolate, .isolate, .mark, .mark, .isolate⟩ ∧ (State.reset.pods.get p).latch = false ∧
    (State.reset.pods.get p).unknown = 0) ∧
  State.reset.monitor.period = 10 ∧
  (∀ g : Fin 4, (State.reset.gens.get g).state = .stopped ∧ (State.reset.gens.get g).applied = ⟨0, 0, 0, .edge, false, .none, 2, 0⟩ ∧
    State.reset.connectorHigh g = false) ∧
  State.reset.sampler.state = .idle ∧ State.reset.staging.fill = 0 ∧ State.reset.staging.tripLevel = 3072 ∧ State.reset.staging.tripArmed = true ∧
  State.reset.pool.free = List.range 4096 ∧ State.reset.pool.tripLevel = 256 ∧ State.reset.takes.nextId = 1 ∧
  State.reset.takes.entries.all (fun t => t.state == .empty) = true ∧ State.reset.seq.state = .unloaded ∧
  (∀ k : Fin 4, (State.reset.lanes.get k).state = .off ∧ (State.reset.lanes.get k).excMask = Exc.bits .ringFull ||| Exc.bits .emptyFrame) ∧
  State.reset.slots.all (fun m => !m.enabled) = true ∧ State.reset.render.state = .idle ∧ State.reset.panel.scanning = false ∧
  State.reset.disp.state = .halted ∧ State.reset.disp.linkBase = 0 ∧ State.reset.alerts = ⟨0, 0⟩ ∧ State.reset.alertLine = false

/-- A link reset (R190): the dispatcher is HALTED with counts and LINK BASE 0, LINK is set, long orders in flight are forgotten without an outcome, the lanes'
rings are suspended, the panel is DARK; pods, generators, monitor, sampler, staging, match slots and the mask stand, and no byte of shared memory changes. -/
def Obligations.LinkResetForgetsOrders : Prop :=
  ∀ s : State, s.ready → ∃ t, exec .linkReset s = .next t ∧
    t.disp = Dispatcher.reset ∧ t.alerts = s.alerts.raise .link ∧ t.noneInFlight = true ∧
    (∀ k : Fin 4, (t.lanes.get k).suspended = true) ∧ t.panel.scanning = false ∧ t.panel.frameCount = s.panel.frameCount ∧
    t.panel.config = s.panel.config ∧ t.pods = s.pods ∧ t.gens = s.gens ∧ t.monitor = s.monitor ∧ t.sampler = s.sampler ∧ t.staging = s.staging ∧
    t.slots = s.slots ∧ t.shared = s.shared

/-! ## Registers and alerts -/

/-- LINK BASE takes a write in HALTED and ignores it otherwise (R179); any write ends the lanes' ring suspension (R131). ALERT CAUSE: each 1 written clears its
cause, a 0 leaves it. ALERT MASK takes the value. The alert line is high exactly while an unmasked cause is set (R191). -/
def Obligations.RegisterWrites : Prop :=
  ∀ s : State, s.ready →
    (∀ v : Word64, ∃ t, exec (.linkBaseWrite v) s = .next t ∧
      closedFrom { s with
        disp := { s.disp with linkBase := if s.disp.state = .halted then v else s.disp.linkBase }
        lanes := s.lanes.map (fun l => { l with suspended := false }) } t) ∧
    (∀ v : BitVec 32, ∃ t, exec (.alertCauseWrite v) s = .next t ∧ closedFrom { s with alerts := ⟨t.alerts.causes, s.alerts.mask⟩ } t ∧
      ∀ i, i < 8 → t.alerts.causes.getLsbD i = (s.alerts.causes.getLsbD i && !v.getLsbD i)) ∧
    (∀ v : BitVec 32, ∃ t, exec (.alertMaskWrite v) s = .next t ∧ closedFrom { s with alerts := ⟨s.alerts.causes, t.alerts.mask⟩ } t ∧
      (∀ i, i < 8 → t.alerts.mask.getLsbD i = v.getLsbD i) ∧
      (t.alertLine = true ↔ ∃ i, i < 8 ∧ s.alerts.causes.getLsbD i = true ∧ v.getLsbD i = true))

/-- A nudge in HALTED (R184): with LINK BASE 0 or misaligned it is ignored, and CHAIN is raised; with a count above 4,096 or an unusable page address the dispatcher
stays HALTED with its consumed count 0, and CHAIN is raised; else the counts begin again, the addresses are taken, there is no cursor, and the dispatcher is IDLE or
FOLLOWING. In the last case no replay is running, so that no order can end in the step. -/
def Obligations.NudgeInHalted : Prop :=
  ∀ (s : State) (v : BitVec 32), s.ready → s.quiet → s.disp.state = .halted →
    (usableAddr s.disp.linkBase.toNat = false →
      ∃ t, exec (.nudge v []) s = .next t ∧ closedFrom { s with alerts := s.alerts.raise .chain } t) ∧
    (usableAddr s.disp.linkBase.toNat = true → (4096 < v.toNat ∨ usableAddr s.blockPage = false) →
      ∃ t, exec (.nudge v []) s = .next t ∧
        closedFrom { s with disp := { s.disp with consumed := 0 }, alerts := s.alerts.raise .chain } t) ∧
    (usableAddr s.disp.linkBase.toNat = true → v.toNat ≤ 4096 → usableAddr s.blockPage = true → s.replay.running = false →
      ∃ t, exec (.nudge v []) s = .next t ∧
        t.disp = { s.disp with
          state := if v = 0 then .idle else .following
          posted := v
          consumed := 0
          cursor := none
          cursorOutcome := none
          held := none
          firstOrder := s.blockFirst
          pageAddr := s.blockPage
          found := none } ∧
        t.pods = s.pods ∧ t.monitor = s.monitor ∧ t.gens = s.gens ∧ t.sampler = s.sampler ∧ t.staging = s.staging ∧ t.takes = s.takes ∧ t.seq = s.seq ∧
        t.slots = s.slots ∧ t.render = s.render ∧ t.panel = s.panel ∧
        ((∀ k : Fin 4, (s.lanes.get k).pendingRecs = []) → t.alerts = s.alerts ∧ bytesKept s t (inBytes s.blockPage 512)))

/-- A nudge in IDLE: a count at most 4,096 ahead of the consumed count is taken, and orders owed take the dispatcher to FOLLOWING; a count further ahead is
ignored with CHAIN raised (R183, R182). No replay is running. -/
def Obligations.NudgeTakesCount : Prop :=
  ∀ (s : State) (v : BitVec 32), s.ready → s.quiet → s.disp.state = .idle → s.replay.running = false →
    ∃ t, exec (.nudge v []) s = .next t ∧
      t.disp = { s.disp with
        posted := if (v - s.disp.consumed).toNat ≤ 4096 then v else s.disp.posted
        state := if (v - s.disp.consumed).toNat ≤ 4096 ∧ v ≠ s.disp.consumed then .following else .idle
        firstOrder := if s.disp.cursor = none then s.blockFirst else s.disp.firstOrder } ∧
      (4096 < (v - s.disp.consumed).toNat → t.alerts.causes.getLsbD Cause.chain.index = true) ∧
      t.pods = s.pods ∧ t.monitor = s.monitor ∧ t.gens = s.gens ∧ t.sampler = s.sampler ∧ t.staging = s.staging ∧ t.takes = s.takes ∧ t.seq = s.seq ∧
      t.slots = s.slots ∧ t.render = s.render ∧ t.panel = s.panel ∧
      ((∀ k : Fin 4, (s.lanes.get k).pendingRecs = []) → bytesKept s t storesNothing)

/-! ## The order chain -/

/-- The record at `a` holds a NOTE without the BARRIER flag. -/
def noteAt (s : State) (a : Nat) : Prop := s.shared.orderKind a = some .note ∧ s.shared.barrier a = false

/-- The take of a first record, a NOTE (R185): TAKEN and then DONE with OK in its state unit, one more order consumed, the record the cursor. A next-record address
of 0 or not a multiple of 8 takes the dispatcher to BROKEN with CHAIN raised, and nothing is taken. With no orders owed, or in any state but FOLLOWING, ORDER_TAKE takes
nothing. -/
def Obligations.OrderTakeFirst : Prop :=
  ∀ s : State, s.ready → s.quiet →
    (s.disp.state = .following → s.disp.owed ≠ 0 → s.disp.cursor = none →
      s.recordClear (s.shared.orderRef s.disp.firstOrder) .note 0 → noteAt s s.disp.firstOrder →
      ∃ t, exec (.orderTake []) s = .next t ∧
        t.disp.cursor = some s.disp.firstOrder ∧ t.disp.cursorOutcome = some .ok ∧ t.disp.consumed = s.disp.consumed + 1 ∧
        t.disp.posted = s.disp.posted ∧ t.disp.state = (if s.disp.owed = 1 then .idle else .following) ∧
        t.shared.getUnit (stateAddr s.disp.firstOrder) = stateUnit stDone Outcome.ok.code ∧
        bytesKept s t (inBytes (stateAddr s.disp.firstOrder) 8) ∧ unitsKept s t ∧
        t.alerts = s.alerts.raiseIf (s.shared.orderRef s.disp.firstOrder).alert .order) ∧
    (s.disp.state = .following → s.disp.owed ≠ 0 → usableAddr s.nextRecord = false →
      ∃ t, exec (.orderTake []) s = .next t ∧
        closedFrom { s with disp := { s.disp with state := .broken, found := none }, alerts := s.alerts.raise .chain } t) ∧
    ((s.disp.state ≠ .following ∨ s.disp.owed = 0) →
      ∃ t, exec (.orderTake []) s = .next t ∧ closedFrom s t)

/-- The bytes of the record at `c` up to its parameters lie inside the address space and clear of the page and of those of the record at `a`. -/
def headersApart (s : State) (c a : Nat) : Prop :=
  usableAddr c = true ∧ c + 0x18 ≤ 2 ^ 64 ∧ (c + 0x18 ≤ a ∨ a + 0x18 ≤ c) ∧
    (s.disp.pageAddr + 512 ≤ 2 ^ 64 ∧ (c + 0x18 ≤ s.disp.pageAddr ∨ s.disp.pageAddr + 512 ≤ c))

/-- The take of a next record, a NOTE, behind a cursor left DONE (R185, R187): the next record's address is the cursor's link, or the address that a nudge in BROKEN
found there, and the old cursor is written RETIRED with its outcome. -/
def Obligations.OrderTakeNext : Prop :=
  ∀ (s : State) (c a : Nat) (oc : Outcome), s.ready → s.quiet → s.disp.state = .following → s.disp.owed ≠ 0 →
    s.disp.cursor = some c → s.disp.cursorOutcome = some oc → s.disp.found.getD (s.shared.getUnit (linkAddr c)).toNat = a →
    s.recordClear (s.shared.orderRef a) .note 0 → headersApart s c a → noteAt s a →
    ∃ t, exec (.orderTake []) s = .next t ∧
      t.disp.cursor = some a ∧ t.disp.cursorOutcome = some .ok ∧ t.disp.consumed = s.disp.consumed + 1 ∧ t.disp.found = none ∧
      t.shared.getUnit (stateAddr c) = stateUnit stRetired oc.code ∧
      t.shared.getUnit (stateAddr a) = stateUnit stDone Outcome.ok.code ∧
      bytesKept s t (fun x => inBytes (stateAddr c) 8 x ∨ inBytes (stateAddr a) 8 x) ∧ unitsKept s t ∧
      t.alerts = s.alerts.raiseIf (s.shared.orderRef a).alert .order

/-- The wait of a held NOTE ends once no order is in flight (R186): it completes, and the dispatcher leaves STALLED. That the record's kind and flags are read again then is the
model's choice (log 10). -/
def Obligations.WaitEndsHandsOrder : Prop :=
  ∀ (s : State) (a : Nat), s.ready → s.quiet → s.disp.state = .stalled → s.disp.held = some a → s.noneInFlight = true →
    s.shared.orderKind a = some .note → s.recordClear (s.shared.orderRef a) .note 0 →
    ∃ t, exec .dispatcherWaitEnds s = .next t ∧
      completedFrom { s with disp := { s.disp with held := none, state := if s.disp.owed = 0 then .idle else .following } } t
        (s.shared.orderRef a) .note .ok []

/-- NOTE completes with OK and has no other effect (R188). HALT, the cursor, completes with OK and is written RETIRED at once; the dispatcher forgets it and is HALTED, its
counts and LINK BASE kept (R189). -/
def Obligations.NoteAndHalt : Prop :=
  ∀ (s : State) (o : OrderRef), s.ready →
    (s.recordClear o .note 0 → ∃ t, exec (.note o) s = .next t ∧ completedFrom s t o .note .ok []) ∧
    (s.recordClear o .halt 0 → s.disp.cursor = some o.addr →
      ∃ t, exec (.halt o) s = .next t ∧
        t.disp = { s.disp with state := .halted, cursor := none, cursorOutcome := none, held := none, found := none } ∧
        t.shared.getUnit (stateAddr o.addr) = stateUnit stRetired Outcome.ok.code ∧
        t.alerts = s.alerts.raiseIf o.alert .order ∧ bytesKept s t (inBytes (stateAddr o.addr) 8) ∧ unitsKept s t)

/-- R192, SET ALERTS: a code outside its list or a level that is read and out of range gives BAD FIELD and writes nothing; otherwise OK, each level asked for is
written, its trip is armed against the new level, and neither write raises a cause. -/
def Obligations.SetAlertsWritesLevels : Prop :=
  ∀ (s : State) (o : OrderRef) (p : SetAlertsP), s.ready → s.recordClear o .setAlerts 0 →
    (p.valid = true ↔ (p.writeStaging ≤ 1 ∧ p.writePool ≤ 1 ∧ (p.writeStaging = 1 → 1 ≤ p.stagingLevel ∧ p.stagingLevel ≤ 4096) ∧
      (p.writePool = 1 → p.poolLevel ≤ 4096))) ∧
    (p.valid = false → ∃ t, exec (.setAlerts o p) s = .next t ∧ completedFrom s t o .setAlerts .badField []) ∧
    (p.valid = true → ∃ t, exec (.setAlerts o p) s = .next t ∧
      completedFrom { s with
        staging := { s.staging with
          tripLevel := if p.writeStaging = 1 then p.stagingLevel else s.staging.tripLevel
          tripArmed := if p.writeStaging = 1 then decide (s.staging.fill ≤ p.stagingLevel) else s.staging.tripArmed }
        pool := { s.pool with
          tripLevel := if p.writePool = 1 then p.poolLevel else s.pool.tripLevel
          tripArmed := if p.writePool = 1 then decide (p.poolLevel ≤ s.pool.freeCount) else s.pool.tripArmed } } t
        o .setAlerts .ok [])

/-- Every order with a field out of its range completes with BAD FIELD and changes nothing (R195, R187). EXPORT is checked only while its queue has room (R159). That the result area of TAKE STATUS, SNAPSHOT LANE, EXPORT
and SHOW then stands is the model's reading (log 11). -/
def Obligations.BadFieldChangesNothing : Prop :=
  ∀ (s : State) (o : OrderRef), s.ready → s.quiet → s.replay.running = false → (∀ kind, s.recordClear o kind 0) →
    (∀ p : PowerPodP, p.valid = false → ∃ t, exec (.powerPod o p) s = .next t ∧ completedFrom s t o .powerPod .badField []) ∧
    (∀ p : ClearPodP, 3 < p.pod → ∃ t, exec (.clearPod o p) s = .next t ∧ completedFrom s t o .clearPod .badField []) ∧
    (∀ p : SnapshotLaneP, 3 < p.lane → ∃ t, exec (.snapshotLane o p) s = .next t ∧ completedFrom s t o .snapshotLane .badField []) ∧
    (∀ p : ResumeLaneP, p.valid = false → ∃ t, exec (.resumeLane o p) s = .next t ∧ completedFrom s t o .resumeLane .badField []) ∧
    (∀ p : SetPodP, p.valid = false → ∃ t, exec (.setPod o p) s = .next t ∧ completedFrom s t o .setPod .badField []) ∧
    (∀ p : SetStimulusP, p.valid = false → ∃ t, exec (.setStimulus o p) s = .next t ∧ completedFrom s t o .setStimulus .badField []) ∧
    (∀ p : RunStimulusP, p.valid = false → ∃ t, exec (.runStimulus o p) s = .next t ∧ completedFrom s t o .runStimulus .badField []) ∧
    (∀ p : SetPanelP, p.valid = false → ∃ t, exec (.setPanel o p) s = .next t ∧ completedFrom s t o .setPanel .badField []) ∧
    (∀ p : SetSequenceP, p.valid = false → ∃ t, exec (.setSequence o p) s = .next t ∧ completedFrom s t o .setSequence .badField []) ∧
    (∀ p : SetLaneP, p.valid = false → ∃ t, exec (.setLane o p) s = .next t ∧ completedFrom s t o .setLane .badField []) ∧
    (∀ p : SetMatchP, p.valid = false → ∃ t, exec (.setMatch o p) s = .next t ∧ completedFrom s t o .setMatch .badField []) ∧
    (∀ p : TakeIdP, 255 < p.takeId → ∃ t, exec (.takeStatus o p) s = .next t ∧ completedFrom s t o .takeStatus .badField []) ∧
    (∀ p : TakeIdP, (p.takeId = 0 ∨ 255 < p.takeId) → ∃ t, exec (.releaseTake o p) s = .next t ∧ completedFrom s t o .releaseTake .badField []) ∧
    (∀ p : ExportP, p.valid = false → s.exporter.queue.length < 4 →
      ∃ t, exec (.exportOrder o p) s = .next t ∧ completedFrom s t o .exportOrder .badField []) ∧
    (∀ p : ShowP, usableAddr p.table = false → ∃ t, exec (.showTable o p) s = .next t ∧ completedFrom s t o .showTable .badField []) ∧
    (∀ p : ArmP, p.valid = false → ∃ t, exec (.arm o p) s = .next t ∧ completedFrom s t o .arm .badField []) ∧
    (∀ p : ReplayP, p.valid = false → ∃ t, exec (.replay o p) s = .next t ∧ completedFrom s t o .replay .badField []) ∧
    (∀ p : RenderP, p.valid = false → ∃ t, exec (.render o p) s = .next t ∧ completedFrom s t o .render .badField [])

/-! ## Pods -/

/-- SET POD with its fields in range (R22, R8, R9): each group in the change set is written, a comparator set is applied at once with no take capturing and staged
otherwise, and only the named pod and the monitor period change. -/
def Obligations.SetPodWrites : Prop :=
  ∀ (s : State) (o : OrderRef) (p : SetPodP), s.ready → s.recordClear o .setPod 0 → p.valid = true →
    ∃ t, exec (.setPod o p) s = .next t ∧ completedFrom { s with pods := t.pods, monitor := t.monitor } t o .setPod .ok [] ∧
      (∀ q : Fin 4, q ≠ fin4 p.pod → t.pods.get q = s.pods.get q) ∧
      t.monitor = { s.monitor with period := if p.changes 5 then p.period else s.monitor.period } ∧
      (let x := s.pods.get (fin4 p.pod)
       let y := t.pods.get (fin4 p.pod)
       y = { x with
         applied := if p.changes 0 && s.capIndex.isNone then ⟨p.threshold, p.hysteresis⟩ else x.applied
         staged := if p.changes 0 then ⟨p.threshold, p.hysteresis⟩ else x.staged
         stagedPending := if p.changes 0 then s.capIndex.isSome else x.stagedPending
         generation := if p.changes 0 && s.capIndex.isNone then x.generation + 1 else x.generation
         highLimit := if p.changes 1 then p.highLimit else x.highLimit
         lowLimit := if p.changes 1 then p.lowLimit else x.lowLimit
         middleCount := if p.changes 2 then p.middleCount else x.middleCount
         wakeSpan := if p.changes 3 then p.wakeSpan else x.wakeSpan
         actions := if p.changes 4 then p.actionTable else x.actions })

/-- POWER POD (R7, R3). ON of an OFF pod whose senses are normal and whose sense sources are inactive: it warms for the span asked for, in units of 10 µs. ON of any OFF pod,
whatever its senses and whatever else is at work: it warms, and each sense source is active as its sense reads (R6); where the capturing take, if any, does not list the pod and
the sequencer does not run, nothing else changes but the pod's sources and latch, what their FAULT records do to a take being recorded, and a generator that the latch silences. ON
of a pod that is not OFF, and OFF of an OFF pod, change nothing. OFF: BUSY for a pod that the capturing take lists; else the pod is OFF with its timers stopped, no source is active, the latch is kept, and the generator on its
connector does not run (R6, R32). -/
def Obligations.PowerPodSwitches : Prop :=
  ∀ (s : State) (o : OrderRef) (p : PowerPodP), s.ready → s.recordClear o .powerPod 0 → p.valid = true → s.quiet →
    (p.direction = 1 →
     let x := s.pods.get (fin4 p.pod)
     (x.power = .off → x.probeAbsent = false → x.hotSense = false → x.sources.lost.active = false → x.sources.hot.active = false →
       ∃ t, exec (.powerPod o p) s = .next t ∧
         completedFrom
           { s with pods := (s.pods.set (fin4 p.pod) { x with power := .warming, warmTimer := some (tickAdd s.tick (p.warmSpan * 10000)) }) }
           t o .powerPod .ok []) ∧
     (x.power = .off →
       ∃ t, exec (.powerPod o p) s = .next t ∧
         (let y := t.pods.get (fin4 p.pod)
          y.power = .warming ∧ y.warmTimer = some (tickAdd s.tick (p.warmSpan * 10000)) ∧ y.sources.lost.active = x.probeAbsent ∧
          y.sources.hot.active = x.hotSense)) ∧
     (x.power = .off → s.listed (fin4 p.pod) = false → s.seq.state ≠ .running →
       ∃ t, exec (.powerPod o p) s = .next t ∧
         (let y := t.pods.get (fin4 p.pod)
          y.power = .warming ∧ y.warmTimer = some (tickAdd s.tick (p.warmSpan * 10000)) ∧ y.sources.lost.active = x.probeAbsent ∧
          y.sources.hot.active = x.hotSense ∧
          y = { x with power := .warming, warmTimer := y.warmTimer, sources := y.sources, latch := y.latch }) ∧
         (∀ q : Fin 4, q ≠ fin4 p.pod → t.pods.get q = s.pods.get q) ∧
         t.shared.getUnit (stateAddr o.addr) = stateUnit (s.recordState o) Outcome.ok.code ∧ bytesKept s t (completionBytes o .powerPod 0) ∧
         t.monitor = s.monitor ∧ t.lanes = s.lanes ∧ t.seq = s.seq ∧ t.slots = s.slots ∧ t.panel = s.panel ∧ t.pool.blocks = s.pool.blocks ∧
         t.pool.free = s.pool.free ∧ t.writer = s.writer ∧ ((t.pods.get (fin4 p.pod)).latch = x.latch → t.gens = s.gens) ∧
         (s.recordingIndex = none → t.takes = s.takes ∧ t.staging = s.staging)) ∧
     (x.power ≠ .off → ∃ t, exec (.powerPod o p) s = .next t ∧ completedFrom s t o .powerPod .ok [])) ∧
    (p.direction = 0 →
      (s.listed (fin4 p.pod) = true → ∃ t, exec (.powerPod o p) s = .next t ∧ completedFrom s t o .powerPod .busy []) ∧
      (s.listed (fin4 p.pod) = false → (s.pods.get (fin4 p.pod)).power ≠ .off →
        ∃ t, exec (.powerPod o p) s = .next t ∧
          (t.pods.get (fin4 p.pod)).power = .off ∧ (t.pods.get (fin4 p.pod)).warmTimer = none ∧ (t.pods.get (fin4 p.pod)).wakeTimer = none ∧
          (∀ src, ((t.pods.get (fin4 p.pod)).sources.get src).active = false) ∧
          (t.pods.get (fin4 p.pod)).latch = (s.pods.get (fin4 p.pod)).latch ∧
          (t.gens.get (t.control (fin4 p.pod))).state ≠ .running ∧
          (∀ q : Fin 4, q ≠ fin4 p.pod → t.pods.get q = s.pods.get q) ∧
          (s.chained (fin4 p.pod) = false → ∀ g : Fin 4, g ≠ fin4 p.pod → t.gens.get g = s.gens.get g) ∧
          t.shared.getUnit (stateAddr o.addr) = stateUnit (s.recordState o) Outcome.ok.code ∧ bytesKept s t (completionBytes o .powerPod 0) ∧
          t.monitor = s.monitor ∧ t.lanes = s.lanes ∧ t.seq = s.seq ∧ t.slots = s.slots ∧ t.panel = s.panel ∧
          (s.recordingIndex = none → t.staging = s.staging ∧ t.takes = s.takes ∧ t.alerts = s.alerts.raiseIf o.alert .order)) ∧
      (s.listed (fin4 p.pod) = false → (s.pods.get (fin4 p.pod)).power = .off →
        ∃ t, exec (.powerPod o p) s = .next t ∧ completedFrom s t o .powerPod .ok []))

/-- CLEAR POD (R21): WRONG STATE while a source at ISOLATE is active; OK with no effect while the latch is clear; else OK with the latch clear and held by no
source. No take is being recorded, so that no FAULT record is closed. -/
def Obligations.ClearPodClearsLatch : Prop :=
  ∀ (s : State) (o : OrderRef) (p : ClearPodP), s.ready → s.recordClear o .clearPod 0 → p.pod ≤ 3 →
    ((s.pods.get (fin4 p.pod)).actionLevel = 4 →
      ∃ t, exec (.clearPod o p) s = .next t ∧ completedFrom s t o .clearPod .wrongState []) ∧
    ((s.pods.get (fin4 p.pod)).actionLevel ≠ 4 → (s.pods.get (fin4 p.pod)).latch = false →
      ∃ t, exec (.clearPod o p) s = .next t ∧ completedFrom s t o .clearPod .ok []) ∧
    ((s.pods.get (fin4 p.pod)).actionLevel ≠ 4 → (s.pods.get (fin4 p.pod)).latch = true → s.recordingIndex = none →
      ∃ t, exec (.clearPod o p) s = .next t ∧ completedFrom { s with pods := t.pods, sampler := t.sampler } t o .clearPod .ok [] ∧
        (t.pods.get (fin4 p.pod)).latch = false ∧ (∀ src, ((t.pods.get (fin4 p.pod)).sources.get src).holdsLatch = false) ∧
        (∀ q : Fin 4, q ≠ fin4 p.pod → t.pods.get q = s.pods.get q))

/-- The warm timer and the wake timer of a pod run out (R4, R5): the pod is ON; after a warm span its channels' measurement state is reset (R10). No take
waits for it. Before it is due either command changes nothing (log 2). -/
def Obligations.PodTimersEnd : Prop :=
  ∀ (s : State) (p : Fin 4), s.ready → s.capIndex = none →
    (timerDue (s.pods.get p).warmTimer s.tick = false → ∃ t, exec (.warmTimerExpiry p) s = .next t ∧ closedFrom s t) ∧
    (timerDue (s.pods.get p).wakeTimer s.tick = false → ∃ t, exec (.wakeTimerExpiry p) s = .next t ∧ closedFrom s t) ∧
    ((s.pods.get p).power = .warming → timerDue (s.pods.get p).warmTimer s.tick = true →
      ∃ t, exec (.warmTimerExpiry p) s = .next t ∧
        closedFrom { s with pods := s.pods.set p { s.pods.get p with power := .on, warmTimer := none }, monitor := t.monitor } t ∧
        (∀ ch, ch < s.monitor.channels.length → t.monitor.channel ch = if podOf ch = p then ⟨0, 3, 3, 0⟩ else s.monitor.channel ch)) ∧
    ((s.pods.get p).power = .watch → timerDue (s.pods.get p).wakeTimer s.tick = true →
      ∃ t, exec (.wakeTimerExpiry p) s = .next t ∧
        closedFrom { s with pods := s.pods.set p { s.pods.get p with power := .on, wakeTimer := none } } t)

/-- What one evaluation makes of a source (R14), `x` before it and `y` after: `act` is its action in the table, `hit` the channels that bring it about, `well` those
recovered. Inactive, it activates with the channels that hit; active, it grows by them, ends once every channel of its mask is recovered, or stays. -/
def sourceFollows (x y : SourceRec) (act : FaultAction) (hit well : Nat → Prop) : Prop :=
  (x.active = false → (∀ i, i < 8 → ¬ hit i) → y = x) ∧
  (x.active = false → (∃ i, i < 8 ∧ hit i) → y.active = true ∧ y.action = act ∧ ∀ i, i < 8 → (y.mask.getLsbD i = true ↔ hit i)) ∧
  (x.active = true → (∃ i, i < 8 ∧ hit i ∧ x.mask.getLsbD i = false) →
    y.active = true ∧ y.action = x.action ∧ ∀ i, i < 8 → (y.mask.getLsbD i = true ↔ (x.mask.getLsbD i = true ∨ hit i))) ∧
  (x.active = true → (∀ i, i < 8 → hit i → x.mask.getLsbD i = true) →
    ((∀ i, i < 8 → x.mask.getLsbD i = true → well i) → y.active = false ∧ y.mask = 0) ∧
    ((∃ i, i < 8 ∧ x.mask.getLsbD i = true ∧ ¬ well i) → y = x))

/-- The source, `x` before a step and `y` after it, has isolated its pod there: it activated or grew at ISOLATE. -/
def isolates (x y : SourceRec) : Prop := y.active = true ∧ y.action = .isolate ∧ (x.active = false ∨ y.mask ≠ x.mask)

/-- A measurement of a channel of an ON or WATCH pod (R10): the clipped level, and the run counts against the pod's limits and threshold, each at most at its top; a channel of
an OFF or WARMING pod keeps its fields; the next period begins. OVER, UNDER and MIDDLE of each pod measured follow the new fields (R11, R12, R14); one that activates or grows at
ISOLATE sets the latch, and a latch that sets silences the generator on the pod's connector (R19, R33). No take is capturing. -/
def Obligations.MonitorMeasures : Prop :=
  ∀ (s : State) (analog : List Int), s.ready → atOrBefore s.monitor.expiry s.tick = true → s.capIndex = none → s.seq.state ≠ .running →
    ∃ t, exec (.monitorPeriodExpiry analog) s = .next t ∧
      t.monitor.period = s.monitor.period ∧ t.monitor.expiry = tickAdd s.monitor.expiry (s.monitor.period * 1000000) ∧
      (∀ ch, ch < s.monitor.channels.length →
        (((s.pods.get (podOf ch)).power = .off ∨ (s.pods.get (podOf ch)).power = .warming) → t.monitor.channel ch = s.monitor.channel ch) ∧
        (((s.pods.get (podOf ch)).power = .on ∨ (s.pods.get (podOf ch)).power = .watch) →
          (t.monitor.channel ch).last = max (-3100) (min 3100 (analog.getD ch 0)) ∧
          (t.monitor.channel ch).overRun =
            (if (s.pods.get (podOf ch)).highLimit * 10 < (t.monitor.channel ch).last then 0 else min ((s.monitor.channel ch).overRun + 1) 3) ∧
          (t.monitor.channel ch).underRun =
            (if (t.monitor.channel ch).last < (s.pods.get (podOf ch)).lowLimit * 10 then 0 else min ((s.monitor.channel ch).underRun + 1) 3) ∧
          (t.monitor.channel ch).middleRun =
            (if (s.pods.get (podOf ch)).applied.threshold - 10 ≤ (t.monitor.channel ch).last ∧
                (t.monitor.channel ch).last ≤ (s.pods.get (podOf ch)).applied.threshold + 10 then
              min ((s.monitor.channel ch).middleRun + 1) 15 else 0))) ∧
      (∀ p : Fin 4, t.pods.get p = { s.pods.get p with sources := (t.pods.get p).sources, latch := (t.pods.get p).latch }) ∧
      (∀ p : Fin 4,
        (let x := s.pods.get p
         let y := t.pods.get p
         let m := fun i => t.monitor.channel (8 * p.val + i)
         y.sources.lost = x.sources.lost ∧ y.sources.hot = x.sources.hot ∧
         ((x.power = .off ∨ x.power = .warming) → y = x) ∧
         ((x.power = .on ∨ x.power = .watch) →
           sourceFollows x.sources.overLimit y.sources.overLimit x.actions.overLimit (fun i => x.highLimit * 10 < (m i).last)
             (fun i => (m i).overRun = 3) ∧
           sourceFollows x.sources.under y.sources.under x.actions.under (fun i => (m i).last < x.lowLimit * 10) (fun i => (m i).underRun = 3) ∧
           sourceFollows x.sources.middle y.sources.middle x.actions.middle (fun i => x.middleCount ≤ (m i).middleRun)
             (fun i => (m i).middleRun = 0) ∧
           (y.latch = true ↔
             (x.latch = true ∨ isolates x.sources.overLimit y.sources.overLimit ∨ isolates x.sources.under y.sources.under ∨
               isolates x.sources.middle y.sources.middle)) ∧
           (x.latch = false → y.latch = true →
             (t.gens.get (s.control p)).state = .silenced ∧ (t.gens.get (s.control p)).output = false)))) ∧
      ((∀ p : Fin 4, (t.pods.get p).latch = (s.pods.get p).latch) → t.gens = s.gens) ∧
      t.sampler = { s.sampler with givenLatched := t.sampler.givenLatched, wakingPods := t.sampler.wakingPods } ∧
      t.staging = s.staging ∧ t.takes = s.takes ∧ t.lanes = s.lanes ∧ t.seq = s.seq ∧ t.slots = s.slots ∧ t.panel = s.panel ∧ t.disp = s.disp ∧
      bytesKept s t storesNothing

/-- A probe goes absent on a pod that is not OFF, its temperature normal (R13, R14, R20): LOST activates with every channel in its mask and the table's action in force; at MARK and
above the POD cause is raised, at IGNORE it is not. At ISOLATE the latch sets, held by LOST, every channel of the pod is unknown, and a latch that was clear silences the generator
on the connector, whose pending settings apply (R16, R19, R33). While a take is recorded, MARK and ISOLATE insert a FAULT begin for all eight channels, then open in the take (R17);
MARK AND END of a listed pod inserts its own and ends the take FAULTED, its FAULT open at the end and staged records left to drain (R18, R77). The senses of an OFF pod change
nothing else (R6). The sequencer does not run. -/
def Obligations.ProbeLossActivates : Prop :=
  ∀ (s : State) (p : Fin 4), s.ready → s.seq.state ≠ .running →
    (let x := s.pods.get p
     let z : Pod := { x with probeAbsent := true, hotSense := false }
     let act := x.actions.lost
     let lost : SourceRec := { x.sources.lost with active := true, mask := 0xFF, action := act }
     (∀ absent hot : Bool, x.power = .off →
       ∃ t, exec (.podSenseChange p absent hot) s = .next t ∧
         closedFrom { s with pods := s.pods.set p { x with probeAbsent := absent, hotSense := hot } } t) ∧
     (x.power ≠ .off → x.sources.lost.active = false → x.sources.hot.active = false →
       (s.capIndex = none → act ≠ .isolate →
         ∃ t, exec (.podSenseChange p true false) s = .next t ∧
           t.pods = s.pods.set p { z with sources := { x.sources with lost := lost } } ∧
           t.alerts = (if act = .ignore then s.alerts else s.alerts.raise .pod) ∧ t.gens = s.gens ∧ t.lanes = s.lanes ∧ t.takes = s.takes ∧
           t.monitor = s.monitor ∧ t.staging = s.staging ∧ t.seq = s.seq ∧ t.slots = s.slots ∧ t.panel = s.panel ∧ t.disp = s.disp ∧
           bytesKept s t storesNothing) ∧
       (s.capIndex = none → act = .isolate →
         ∃ t, exec (.podSenseChange p true false) s = .next t ∧
           t.pods = s.pods.set p { z with latch := true, sources := { x.sources with lost := { lost with holdsLatch := true } } } ∧
           (t.pods.get p).unknown = 0xFF ∧ t.alerts = s.alerts.raise .pod ∧ (x.latch = true → t.gens = s.gens) ∧
           (x.latch = false → s.chained p = false →
             (let g := s.gens.get p
              t.gens = s.gens.set p { g with
                state := .silenced
                output := false
                counter := 0
                down := false
                periodsDone := 0
                applied := if g.stagedPending then g.staged else g.applied
                stagedPending := false })) ∧
           (x.latch = false → s.chained p = true →
             (t.gens.get (evenOf p)).state = .silenced ∧ (t.gens.get (oddOf p)).state = .silenced ∧ (t.gens.get (oddOf p)).output = false) ∧
           t.lanes = s.lanes ∧ t.takes = s.takes ∧ t.monitor = s.monitor ∧ t.staging = s.staging ∧ t.seq = s.seq ∧ t.slots = s.slots ∧
           t.panel = s.panel ∧ t.disp = s.disp ∧ bytesKept s t storesNothing) ∧
       (∀ i, s.recordingIndex = some i → s.staging.overflow = false → s.staging.fill + 2 ≤ 4096 →
         (let began := s.staging.records ++ s.admitted (s.takeAt i).id (s.recordTime s.intervalTime) (.fault p .lost true act 0xFF)
          ((act = .mark ∨ act = .isolate) →
            ∃ t, exec (.podSenseChange p true false) s = .next t ∧ t.staging.records = began ∧
              (t.pods.get p).sources.lost = { lost with openRec := some act, holdsLatch := lost.holdsLatch || act == .isolate } ∧
              (t.pods.get p).latch = (x.latch || act == .isolate) ∧ t.alerts.causes.getLsbD Cause.pod.index = true ∧
              (∀ q : Fin 4, q ≠ p → t.pods.get q = s.pods.get q) ∧ (act = .mark → t.gens = s.gens) ∧ t.lanes = s.lanes ∧ t.takes = s.takes ∧
              t.monitor = s.monitor ∧ t.seq = s.seq ∧ t.slots = s.slots ∧ t.panel = s.panel ∧ t.disp = s.disp ∧ bytesKept s t storesNothing) ∧
          (act = .markAndEnd → podIn p (s.takeAt i).channels = true → (∀ k : Fin 4, (s.lanes.get k).attached = 0) → s.placesLeft ≠ 0 →
            ∃ t, exec (.podSenseChange p true false) s = .next t ∧ t.staging.records = began ∧ (t.takeAt i).endReason = some .faulted ∧
              (t.takeAt i).state = (s.takeAt i).state ∧ (t.takeAt i).openPods.getLsbD p.val = true ∧ t.sampler.state = .idle ∧
              (t.pods.get p).sources.lost = { lost with openRec := none } ∧ (t.pods.get p).latch = x.latch ∧
              t.alerts.causes.getLsbD Cause.pod.index = true ∧ t.gens = s.gens ∧ t.lanes = s.lanes ∧ t.writer = s.writer ∧
              t.pool.blocks = s.pool.blocks ∧ t.pool.free = s.pool.free ∧ (∀ j, j ≠ i → t.takeAt j = s.takeAt j) ∧ t.monitor = s.monitor ∧
              t.slots = s.slots ∧ t.panel = s.panel ∧ t.disp = s.disp ∧ bytesKept s t storesNothing)))))

/-- A pod's unknown channels (R16): all eight while the latch is set; else exactly the channels in the mask of an active source in force at MARK or MARK AND END. -/
def Obligations.UnknownChannels : Prop :=
  ∀ (x : Pod) (i : Nat), i < 8 →
    (x.unknown.getLsbD i = true ↔
      (x.latch = true ∨ ∃ src, (x.sources.get src).active = true ∧
        ((x.sources.get src).action = .mark ∨ (x.sources.get src).action = .markAndEnd) ∧ (x.sources.get src).mask.getLsbD i = true))

/-! ## Stimulus generators -/

/-- SET STIMULUS (R34, R30). Settings of an unchained generator left unchained are applied at once while it does not run, and staged while it runs and is not idle; an idle one, its
applied period 0, takes them at once and begins a period if theirs is not 0 (R28); that its periods done stand then is the model's choice (log 29). With nothing to write and no chaining asked for, nothing changes. One that chains
or unchains a pair with a generator RUNNING or SILENCED completes with BUSY; on a stopped pair it sets or clears the chained flag of that pair alone. -/
def Obligations.SetStimulusWrites : Prop :=
  ∀ (s : State) (o : OrderRef) (p : SetStimulusP), s.ready → s.recordClear o .setStimulus 0 → p.valid = true →
    (let g := fin4 p.generator
     (p.write = 1 → p.chaining = 0 → s.chained g = false → (s.gens.get g).state ≠ .running →
       ∃ t, exec (.setStimulus o p) s = .next t ∧
         completedFrom { s with gens := s.gens.set g { s.gens.get g with staged := p.settings, applied := p.settings, stagedPending := false } } t
           o .setStimulus .ok []) ∧
     (p.write = 1 → p.chaining = 0 → s.chained g = false → (s.gens.get g).state = .running → s.genIdle g = false →
       ∃ t, exec (.setStimulus o p) s = .next t ∧
         completedFrom { s with gens := s.gens.set g { s.gens.get g with staged := p.settings, stagedPending := true } } t o .setStimulus .ok []) ∧
     (p.write = 1 → p.chaining = 0 → s.chained g = false → (s.gens.get g).state = .running → (s.gens.get g).applied.period = 0 →
       ∃ t, exec (.setStimulus o p) s = .next t ∧ completedFrom { s with gens := s.gens.set g (t.gens.get g) } t o .setStimulus .ok [] ∧
         (let y := t.gens.get g
          y.state = .running ∧ y.applied = p.settings ∧ y.staged = p.settings ∧ y.stagedPending = false ∧
          (p.settings.period = 0 → y = { s.gens.get g with staged := p.settings, applied := p.settings, stagedPending := false }) ∧
          (p.settings.period ≠ 0 → y.counter = 0 ∧ y.down = false ∧ y.unitStart = s.tick ∧ y.output = p.settings.activeAt 0 ∧
            y.periodsDone = (s.gens.get g).periodsDone))) ∧
     (p.write = 0 → p.chaining = 0 → ∃ t, exec (.setStimulus o p) s = .next t ∧ completedFrom s t o .setStimulus .ok []) ∧
     (p.chaining ≠ 0 → s.pairBusy g = true → ∃ t, exec (.setStimulus o p) s = .next t ∧ completedFrom s t o .setStimulus .busy []) ∧
     (p.chaining ≠ 0 → p.write = 0 → s.pairBusy g = false → ∃ t, exec (.setStimulus o p) s = .next t ∧
       completedFrom { s with gens := t.gens, chain01 := t.chain01, chain23 := t.chain23 } t o .setStimulus .ok [] ∧
       t.chained g = (p.chaining == 1) ∧
       (p.generator < 2 → t.chain23 = s.chain23) ∧ (2 ≤ p.generator → t.chain01 = s.chain01)))

/-- RUN STIMULUS (R35). Of an unchained generator whose pod is powered: START of a STOPPED one, or of a SILENCED one with the latch clear, runs it from the start of a period, START
of a RUNNING one changes nothing, and RESTART applies a pending set and runs it from the start. STOP of a RUNNING one stops it with its output inactive and a pending set applied, and of
any other changes nothing. START of a SILENCED one with the latch set, and RESTART of a SILENCED one, complete with WRONG STATE; with the pod OFF, START and RESTART complete with POD OFF.
Of a chained pair (R31): the even member is refused with WRONG STATE whatever is asked, and START of the odd one, STOPPED with both pods powered, runs the pair. -/
def Obligations.RunStimulusStartsAndStops : Prop :=
  ∀ (s : State) (o : OrderRef) (p : RunStimulusP), s.ready → s.recordClear o .runStimulus 0 → p.valid = true →
    (let g := fin4 p.generator
     let x := s.gens.get g
     let pod := s.pods.get g
     let begins := fun (a : GenSettings) => ∃ t, exec (.runStimulus o p) s = .next t ∧
       completedFrom { s with gens := s.gens.set g (t.gens.get g) } t o .runStimulus .ok [] ∧
       (let y := t.gens.get g
        y.state = .running ∧ y.counter = 0 ∧ y.down = false ∧ y.periodsDone = 0 ∧ y.unitStart = s.tick ∧ y.output = a.activeAt 0 ∧ y.applied = a)
     let answers := fun (oc : Outcome) => ∃ t, exec (.runStimulus o p) s = .next t ∧ completedFrom s t o .runStimulus oc []
     (s.chained g = false →
       (p.action = 0 → pod.power ≠ .off → (x.state = .stopped ∨ (x.state = .silenced ∧ pod.latch = false)) → begins x.applied) ∧
       (p.action = 0 → pod.power ≠ .off → x.state = .running → answers .ok) ∧
       (p.action = 0 → pod.power ≠ .off → x.state = .silenced → pod.latch = true → answers .wrongState) ∧
       (p.action = 2 → pod.power ≠ .off → x.state ≠ .silenced → begins (if x.stagedPending then x.staged else x.applied)) ∧
       (p.action = 2 → pod.power ≠ .off → x.state = .silenced → answers .wrongState) ∧
       (p.action = 1 → x.state = .running →
         ∃ t, exec (.runStimulus o p) s = .next t ∧
           completedFrom
             { s with gens := (s.gens.set g
               { x with
                 state := .stopped
                 output := false
                 stagedPending := false
                 applied := if x.stagedPending then x.staged else x.applied }) } t o .runStimulus .ok []) ∧
       (p.action = 1 → x.state ≠ .running → answers .ok) ∧
       (p.action ≠ 1 → pod.power = .off → answers .podOff)) ∧
     (s.chained g = true →
       (g = evenOf g → answers .wrongState) ∧
       (g = oddOf g → p.action = 0 → (s.pods.get (evenOf g)).power ≠ .off → pod.power ≠ .off → x.state = .stopped →
         ∃ t, exec (.runStimulus o p) s = .next t ∧ completedFrom { s with gens := t.gens } t o .runStimulus .ok [] ∧
           (t.gens.get g).state = .running ∧ (t.gens.get g).counter = 0 ∧ (t.gens.get g).down = false ∧ (t.gens.get g).periodsDone = 0 ∧
           (t.gens.get g).unitStart = s.tick ∧ (t.gens.get g).output = (s.genApplied g).activeAt 0 ∧ (t.gens.get g).applied = x.applied ∧
           t.gens.get (evenOf g) = { s.gens.get (evenOf g) with state := .running } ∧
           (∀ h : Fin 4, h ≠ g → h ≠ evenOf g → t.gens.get h = s.gens.get h))))

/-- The end of a time unit of a generator that no pair is chained from; of a chained pair only the odd member has units (R31), so the even member's commands change nothing, and in EDGE
alignment the pair's counter runs to the period the two members join. Of an unchained one: within its period (R25, R26): in EDGE alignment the counter advances and the output is active while it is below the duty; in CENTRE
alignment the counter turns at the top, and the output is active at counter values from period less duty on. At the last unit (R29), which UNIT_END and PERIOD_END both name: one more
period done, a pending set applied, and the next period begins at the boundary, or the burst is complete and the generator stops with its output inactive. Before a unit is due neither
command changes anything (the model's choice, log 2). That UNIT_END at the last unit is PERIOD_END, and that a pair's units are its odd member's, the model reads from the
rules (log 29). -/
def Obligations.GeneratorUnitsEnd : Prop :=
  ∀ (s : State) (g : Fin 4), s.ready →
    (s.unitDue g = false → (∃ t, exec (.unitEnd g) s = .next t ∧ closedFrom s t) ∧ ∃ t, exec (.periodEnd g) s = .next t ∧ closedFrom s t) ∧
    (s.chained g = true → g = evenOf g → s.unitDue g = false) ∧
    (s.chained g = true → s.unitDue g = true → (s.gens.get g).applied.alignment = .edge → (s.gens.get g).down = false →
      (let x := s.gens.get g
       let e := s.gens.get (evenOf g)
       x.counter + 1 < e.applied.period * 65536 + x.applied.period →
       ∃ t, exec (.unitEnd g) s = .next t ∧
         closedFrom { s with gens := (s.gens.set (evenOf g) { e with state := .running }).set g (t.gens.get g) } t ∧
         (t.gens.get g).counter = x.counter + 1 ∧ (t.gens.get g).output = decide (x.counter + 1 < e.applied.duty * 65536 + x.applied.duty) ∧
         (t.gens.get g).unitStart = tickAdd x.unitStart (2 ^ x.applied.unitExp) ∧ (t.gens.get g).applied = x.applied)) ∧
    (s.chained g = false → s.unitDue g = true → s.lastUnit g = false →
      ∃ t, exec (.unitEnd g) s = .next t ∧ closedFrom { s with gens := s.gens.set g (t.gens.get g) } t ∧
        (let x := s.gens.get g
         let y := t.gens.get g
         y.state = .running ∧ y.applied = x.applied ∧ y.periodsDone = x.periodsDone ∧ y.unitStart = tickAdd x.unitStart (2 ^ x.applied.unitExp) ∧
         (x.applied.alignment = .edge → x.down = false →
           y.counter = x.counter + 1 ∧ y.down = false ∧ y.output = decide (x.counter + 1 < x.applied.duty)) ∧
         (x.applied.alignment = .centre → x.down = false → x.counter + 1 < x.applied.period → y.counter = x.counter + 1 ∧ y.down = false) ∧
         (x.applied.alignment = .centre → x.down = false → x.applied.period ≤ x.counter + 1 → y.counter = x.counter ∧ y.down = true) ∧
         (x.applied.alignment = .centre → x.down = true → y.counter = x.counter - 1 ∧ y.down = true) ∧
         (x.applied.alignment = .centre → y.output = decide (x.applied.period - x.applied.duty ≤ y.counter)))) ∧
    (s.chained g = false → s.unitDue g = true → s.lastUnit g = true →
      exec (.unitEnd g) s = exec (.periodEnd g) s ∧
      ∃ t, exec (.periodEnd g) s = .next t ∧ closedFrom { s with gens := s.gens.set g (t.gens.get g) } t ∧
        (let x := s.gens.get g
         let y := t.gens.get g
         let a := if x.stagedPending then x.staged else x.applied
         y.applied = a ∧ y.stagedPending = false ∧ y.periodsDone = min (x.periodsDone + 1) 65535 ∧ y.counter = 0 ∧ y.down = false ∧
         y.unitStart = tickAdd x.unitStart (2 ^ x.applied.unitExp) ∧
         (a.burst ≠ 0 ∧ a.burst ≤ y.periodsDone → y.state = .stopped ∧ y.output = false) ∧
         (¬ (a.burst ≠ 0 ∧ a.burst ≤ y.periodsDone) → y.state = .running ∧ y.output = a.activeAt 0)))

/-! ## The sequencer and the match slots -/

/-- SET SEQUENCE (R88): BUSY while the sequencer is RUNNING or DONE; else the stage table is replaced and the sequencer is LOADED. -/
def Obligations.SetSequenceLoads : Prop :=
  ∀ (s : State) (o : OrderRef) (p : SetSequenceP), s.ready → s.recordClear o .setSequence 0 → p.valid = true →
    ((s.seq.state = .running ∨ s.seq.state = .done) →
      ∃ t, exec (.setSequence o p) s = .next t ∧ completedFrom s t o .setSequence .busy []) ∧
    ((s.seq.state = .unloaded ∨ s.seq.state = .loaded) →
      ∃ t, exec (.setSequence o p) s = .next t ∧
        completedFrom { s with seq := { s.seq with state := .loaded, stages := (p.stages.take p.count).map StageP.stage } } t o .setSequence .ok [])

/-- R90: a PATTERN term holds exactly when every channel in its mask is known and has the term's value for it; with an empty mask it holds always. -/
def Obligations.PatternTermHolds : Prop :=
  ∀ (mask value : Chans) (x : SeqInput),
    (Term.holds x (.pattern mask value) = true ↔
      ∀ c, c < 32 → mask.getLsbD c = true → x.known.getLsbD c = true ∧ x.levels.getLsbD c = value.getLsbD c) ∧
    Term.holds x (.pattern 0 value) = true

/-- The window maximum of the current stage of a capture run is judged in the present interval, past its evaluation: the late path NEXT enters its target, first evaluated in
the next interval (R97, R98). -/
def Obligations.WindowMaximumTakesLatePath : Prop :=
  ∀ s : State, s.ready → s.quiet → s.captureRuns = true → s.seqPassed = true → s.seq.cur.winMax ≠ 0 → s.seq.cur.lateAction = .next →
    atOrBefore s.seq.startTime s.intervalTime = true → s.seq.judgeTime s.sampler.intervalExp = s.intervalTime →
    s.sampler.intervalExp ≤ 20 → (∀ st ∈ s.seq.stages, st.winMax < 2 ^ 32) →
    ∃ t, exec .windowMaximumJudged s = .next t ∧ t.seq.stage = s.seq.cur.lateTarget ∧ t.seq.count = 0 ∧ t.seq.heldBefore = false ∧
      t.seq.firstPending = true ∧ t.seq.startTime = tickAdd s.intervalTime (2 ^ s.sampler.intervalExp) ∧ t.seq.stack = s.seq.stack ∧
      t.staging = s.staging ∧ t.gens = s.gens ∧ t.pods = s.pods ∧ t.sampler = s.sampler ∧ t.lanes = s.lanes ∧ t.slots = s.slots ∧ t.alerts = s.alerts ∧
      t.disp = s.disp ∧ bytesKept s t storesNothing

/-- SET MATCH (R140): BUSY while the slot is bound to a lane at work, or enabling it for one; else the slot takes the order's fields, or its reset values, and the other
slots stand. -/
def Obligations.SetMatchWrites : Prop :=
  ∀ (s : State) (o : OrderRef) (p : SetMatchP), s.ready → s.recordClear o .setMatch 0 → p.valid = true → s.slots.length = 8 →
    (let old := s.slots.getD p.slot MatchSlot.reset
     let busy := (old.enabled = true ∧ (s.lanes.get old.lane).atWork = true) ∨ (p.enable = 1 ∧ (s.lanes.get (fin4 p.lane)).atWork = true)
     (busy → ∃ t, exec (.setMatch o p) s = .next t ∧ completedFrom s t o .setMatch .busy []) ∧
     (¬ busy → ∃ t, exec (.setMatch o p) s = .next t ∧ completedFrom { s with slots := t.slots } t o .setMatch .ok [] ∧
       (∀ j, j ≠ p.slot → t.slots.getD j MatchSlot.reset = s.slots.getD j MatchSlot.reset) ∧
       t.slots.getD p.slot MatchSlot.reset =
         (if p.enable = 1 then ⟨true, fin4 p.lane, p.index, BitVec.ofNat 32 p.mask, BitVec.ofNat 32 p.reference, p.mode == 0⟩ else MatchSlot.reset)))

/-- A slot's relation to a record (R142): UNORDERED exactly when its field is absent or not COMPLETE; else LESS, GREATER or EQUAL of the masked values, unsigned. -/
def Obligations.SlotRelation : Prop :=
  ∀ (m : MatchSlot) (fields : List Field),
    (m.relation fields = .unordered ↔ ∀ f, fields[m.index]? = some f → f.tag ≠ .complete) ∧
    (∀ f, fields[m.index]? = some f → f.tag = .complete →
      (m.relation fields = .less ↔ (f.value &&& m.mask).toNat < (m.reference &&& m.mask).toNat) ∧
      (m.relation fields = .greater ↔ (m.reference &&& m.mask).toNat < (f.value &&& m.mask).toNat) ∧
      (m.relation fields = .equal ↔ f.value &&& m.mask = m.reference &&& m.mask))

/-! ## Decode lanes -/

/-- SET LANE (R112, R132): BUSY for a lane at work; kind NONE leaves it OFF; another kind leaves it IDLE with the order's configuration, mask, ring and counts and an empty
stack; accepted, either clears every sticky flag. Other lanes stand. -/
def Obligations.SetLaneConfigures : Prop :=
  ∀ (s : State) (o : OrderRef) (p : SetLaneP), s.ready → s.recordClear o .setLane 0 → p.valid = true →
    ((s.lanes.get (fin4 p.lane)).atWork = true → ∃ t, exec (.setLane o p) s = .next t ∧ completedFrom s t o .setLane .busy []) ∧
    ((s.lanes.get (fin4 p.lane)).atWork = false →
      ∃ t, exec (.setLane o p) s = .next t ∧
        completedFrom { s with lanes := s.lanes.set (fin4 p.lane) (t.lanes.get (fin4 p.lane)) } t o .setLane .ok [] ∧
        (let l := t.lanes.get (fin4 p.lane)
         (p.kind = 0 → l.state = .off ∧ l.config = LaneConfig.reset ∧ l.sticky = 0) ∧
         (p.kind ≠ 0 → l.state = .idle ∧ l.config = p.config ∧ l.sticky = 0 ∧ l.excMask.toNat = p.excMask ∧ l.ringAddr = p.ringAddr ∧
           l.capacity = p.capacity ∧ l.written.toNat = p.startCount ∧ l.returned.toNat = p.startCount ∧ l.lost = 0 ∧ l.trip = p.trip ∧
           l.tripArmed = true ∧ l.dec = Decoder.reset)))

/-- SNAPSHOT LANE (R135) completes with OK and the lane's decoding context, and then masks every exception of the lane. RESUME LANE with no replay running (R136): WRONG STATE for an OFF
lane; else the chosen flags are cleared and the mask written; a HELD lane without an open frame goes back to ATTACHED, taking vectors again from the next interval, or to IDLE when it was detached. -/
def Obligations.SnapshotAndResume : Prop :=
  ∀ (s : State) (o : OrderRef), s.ready →
    (∀ p : SnapshotLaneP, s.recordClear o .snapshotLane 16 → p.lane ≤ 3 → (s.lanes.get (fin4 p.lane)).dec.stack.length ≤ 8 →
      ∃ t, exec (.snapshotLane o p) s = .next t ∧
        completedFrom { s with lanes := s.lanes.set (fin4 p.lane) { s.lanes.get (fin4 p.lane) with excMask := 0x7F } } t o .snapshotLane .ok
          (s.lanes.get (fin4 p.lane)).snapshot) ∧
    (∀ p : ResumeLaneP, s.quiet → s.recordClear o .resumeLane 0 → p.valid = true → s.replay.running = false →
      (let l := s.lanes.get (fin4 p.lane)
       (l.state = .off → ∃ t, exec (.resumeLane o p) s = .next t ∧ completedFrom s t o .resumeLane .wrongState []) ∧
       (l.state ≠ .off → l.state ≠ .held → ∃ t, exec (.resumeLane o p) s = .next t ∧
         completedFrom
           { s with lanes := (s.lanes.set (fin4 p.lane)
             { l with sticky := l.sticky &&& ~~~(BitVec.ofNat 7 p.clear), excMask := BitVec.ofNat 7 p.excMask }) } t o .resumeLane .ok []) ∧
       (l.state = .held → l.heldReplay = false → l.dec.inFrame = false →
         ∃ t, exec (.resumeLane o p) s = .next t ∧
           completedFrom { s with lanes := s.lanes.set (fin4 p.lane) (t.lanes.get (fin4 p.lane)) } t o .resumeLane .ok [] ∧
           (t.lanes.get (fin4 p.lane)).state = (if l.attached = 0 then .idle else .attached) ∧
           (l.attached ≠ 0 → (t.lanes.get (fin4 p.lane)).takesVector s.intervalTime = false ∧
             ∀ later, later ≠ s.intervalTime → (t.lanes.get (fin4 p.lane)).takesVector later = true) ∧
           (t.lanes.get (fin4 p.lane)).sticky = l.sticky &&& ~~~(BitVec.ofNat 7 p.clear) ∧
           (t.lanes.get (fin4 p.lane)).excMask = BitVec.ofNat 7 p.excMask ∧ (t.lanes.get (fin4 p.lane)).dec.inFrame = false)))

/-- A record offered to a lane ring. With room for it (R127) its units follow the written count, each at its place in the ring, and the count advances by their number. Live and
without room (R129) it is dropped and counted lost, and RING FULL is among the exceptions. -/
def Obligations.RecordGoesToRing : Prop :=
  ∀ (s : State) (k : Fin 4) (live : Bool) (units : List Word64), s.ready → (s.lanes.get k).suspended = false →
    (let l := s.lanes.get k
     let t := s.ringOffer k live units
     (l.pendingRecs = [] → units.length ≤ l.freeUnits → 0 < l.capacity → l.written.toNat + units.length < 2 ^ 32 →
       l.ringAddr + 8 * l.capacity ≤ 2 ^ 64 →
       (∀ i, i < units.length → t.shared.getUnit (l.ringAddr + 8 * ((l.written.toNat + i) % l.capacity)) = units.getD i 0) ∧
       (t.lanes.get k).written.toNat = l.written.toNat + units.length ∧ (t.lanes.get k).lostBefore = false ∧ (t.lanes.get k).lost = l.lost ∧
       (∀ a, a < 2 ^ 64 → ¬ inBytes l.ringAddr (8 * l.capacity) a → t.shared.get a = s.shared.get a)) ∧
     (live = true → l.freeUnits < units.length → l.lost < 2 ^ 32 →
       t = { s with lanes := (s.lanes.set k { l with lost := min (l.lost + 1) (2 ^ 32 - 1), lostBefore := true }) } ∧ l.ringFull true units = true))

/-- The idle measure of an ATTACHED lane runs out with no sequencer run: its frame closes and it is HUNTING, and no other lane's decoder changes (R116, R117, R120). -/
def Obligations.FrameIdleClosesFrame : Prop :=
  ∀ (s : State) (k : Fin 4), s.ready → s.quiet → (s.lanes.get k).state = .attached → s.laneIdles k = true → s.seq.state ≠ .running →
    ∃ t, exec (.frameIdleExpiry k) s = .next t ∧ (t.lanes.get k).dec.inFrame = false ∧ (t.lanes.get k).dec.stack = [] ∧
      (∀ j : Fin 4, j ≠ k → t.lanes.get j = s.lanes.get j) ∧ t.pods = s.pods ∧ t.gens = s.gens ∧ t.seq = s.seq ∧
      t.slots = s.slots ∧ t.monitor = s.monitor ∧ t.panel = s.panel ∧ t.disp = s.disp ∧
      bytesKept s t (inBytes (s.lanes.get k).ringAddr (8 * (s.lanes.get k).capacity))

/-! ## Capture -/

/-- Sources that are all inactive and latches that are all clear. -/
def podsHealthy (s : State) : Prop :=
  ∀ p : Fin 4, (s.pods.get p).latch = false ∧ ∀ src, ((s.pods.get p).sources.get src).active = false

/-- ARM with its fields in range is refused with BUSY, NO TAKE SLOT, NO BLOCKS, POD OFF or WRONG STATE, in that order of checks (R68). -/
def Obligations.ArmRefusals : Prop :=
  ∀ (s : State) (o : OrderRef) (p : ArmP), s.ready → s.recordClear o .arm 0 → p.valid = true →
    (let m := BitVec.ofNat 32 p.channels
     let busy := s.capIndex.isSome = true ∨ s.seq.serving = .search
     let full := ∀ e ∈ s.takes.entries, e.state ≠ .empty
     let off := ∃ q : Fin 4, podIn q m = true ∧ ((s.pods.get q).power = .off ∨ (s.pods.get q).latch = true)
     (busy → ∃ t, exec (.arm o p) s = .next t ∧ completedFrom s t o .arm .busy []) ∧
     (¬ busy → full → ∃ t, exec (.arm o p) s = .next t ∧ completedFrom s t o .arm .noTakeSlot []) ∧
     (¬ busy → ¬ full → s.pool.freeCount < 2 → ∃ t, exec (.arm o p) s = .next t ∧ completedFrom s t o .arm .noBlocks []) ∧
     (¬ busy → ¬ full → 2 ≤ s.pool.freeCount → off → ∃ t, exec (.arm o p) s = .next t ∧ completedFrom s t o .arm .podOff []) ∧
     (¬ busy → ¬ full → 2 ≤ s.pool.freeCount → ¬ off → p.mode = 0 → s.seq.state = .unloaded →
       ∃ t, exec (.arm o p) s = .next t ∧ completedFrom s t o .arm .wrongState []))

/-- The conditions under which an ARM is accepted into entry `i` (R68). -/
def armAccepted (s : State) (p : ArmP) (i : Nat) : Prop :=
  p.valid = true ∧ s.capIndex = none ∧ s.seq.serving ≠ .search ∧ findIdxFrom (fun t => t.state == .empty) s.takes.entries 0 = some i ∧
    2 ≤ s.pool.freeCount ∧
    (∀ q : Fin 4, podIn q (BitVec.ofNat 32 p.channels) = true → (s.pods.get q).power ≠ .off ∧ (s.pods.get q).latch = false) ∧
    (p.mode = 0 → s.seq.state ≠ .unloaded)

/-- The id that R66 gives a new take: the first one from the next id value on that no entry holds, counting on from 255 to 1. -/
def freshTakeId (s : State) (id : Nat) : Prop :=
  (∀ e ∈ s.takes.entries, e.id ≠ id) ∧
    ∃ j, j < 255 ∧ id = (s.takes.nextId - 1 + j) % 255 + 1 ∧ ∀ h, h < j → ∃ e ∈ s.takes.entries, e.id = (s.takes.nextId - 1 + h) % 255 + 1

/-- An accepted ARM with a listed pod WARMING or in WATCH creates a take in WAITING with the order's settings under the next free id, and stays in flight (R68, R66, R87). -/
def Obligations.ArmWaitsForPods : Prop :=
  ∀ (s : State) (o : OrderRef) (p : ArmP) (i : Nat), s.ready → s.tablesSized → armAccepted s p i →
    (∃ q : Fin 4, podIn q (BitVec.ofNat 32 p.channels) = true ∧ ((s.pods.get q).power = .warming ∨ (s.pods.get q).power = .watch)) →
    ∃ t, exec (.arm o p) s = .next t ∧ closedFrom { s with takes := t.takes, seq := t.seq } t ∧
      freshTakeId s (t.takeAt i).id ∧ t.takes.nextId = (t.takeAt i).id % 255 + 1 ∧
      t.takes.shown = (t.takeAt i).id ∧ (t.takeAt i).state = .waiting ∧ (t.takeAt i).channels = BitVec.ofNat 32 p.channels ∧
      (t.takeAt i).intervalExp = p.intervalExp ∧ (t.takeAt i).depth = p.depth ∧ (t.takeAt i).share = p.share ∧
      (t.takeAt i).mode = trigModeOf p.mode ∧ (t.takeAt i).idleSpan = (if p.watch = 1 then some p.idleSpan else none) ∧
      (t.takeAt i).armOrder = some o ∧ (∀ j, j ≠ i → t.takeAt j = s.takeAt j) ∧
      (p.mode = 0 → t.seq = { s.seq with serving := .capture, servingTake := (t.takeAt i).id }) ∧ (p.mode ≠ 0 → t.seq = s.seq)

/-- An accepted ARM whose listed pods are all ON, with every pod healthy, starts capturing at once (R68, R70, R59): the take has the next free id (R66) and is in PRETRIG, the head of the free list is its filling
block, and the sampler samples its channels on a grid from this tick, its levels due to be restated. -/
def Obligations.ArmStartsCapture : Prop :=
  ∀ (s : State) (o : OrderRef) (p : ArmP) (i b : Nat) (rest : List Nat), s.ready → s.tablesSized → armAccepted s p i → podsHealthy s →
    (∀ q : Fin 4, podIn q (BitVec.ofNat 32 p.channels) = true → (s.pods.get q).power = .on) → s.pool.free = b :: rest →
    ∃ t, exec (.arm o p) s = .next t ∧ freshTakeId s (t.takeAt i).id ∧ t.takes.nextId = (t.takeAt i).id % 255 + 1 ∧
      t.takes.shown = (t.takeAt i).id ∧ (t.takeAt i).state = .pretrig ∧ (t.takeAt i).armOrder = some o ∧ (t.takeAt i).acquired = 1 ∧
      t.writer.filling = some b ∧ t.pool.free = rest ∧ t.sampler.state = .sampling ∧ t.sampler.origin = s.tick ∧ t.sampler.streamTime = s.tick ∧
      t.sampler.channels = BitVec.ofNat 32 p.channels ∧ t.sampler.intervalExp = p.intervalExp ∧ t.sampler.restateDue = true ∧
      (p.mode = 0 → t.seq.state = .running ∧ t.seq.serving = .capture ∧ t.seq.stage = 0 ∧ t.seq.startTime = s.tick) ∧
      t.lanes = s.lanes.map (fun l => l.considered (BitVec.ofNat 32 p.channels) (t.takeAt i).id) ∧ (∀ j, j ≠ i → t.takeAt j = s.takeAt j) ∧
      t.staging = s.staging ∧ t.gens = s.gens ∧ t.monitor = s.monitor ∧ t.slots = s.slots ∧ t.panel = s.panel ∧ t.disp = s.disp ∧
      bytesKept s t storesNothing

/-- STOP (R79, R77): NO SUCH TAKE with no take capturing; a take with staged records still to drain and no lane attached ends with reason STOPPED, the sampler is IDLE and
the order waits on the take. -/
def Obligations.StopEndsTake : Prop :=
  ∀ (s : State) (o : OrderRef), s.ready → s.recordClear o .stop 0 →
    (s.capIndex = none → ∃ t, exec (.stop o) s = .next t ∧ completedFrom s t o .stop .noSuchTake []) ∧
    (∀ i, s.capIndex = some i → (s.takeAt i).sampling = true → (s.takeAt i).endReason = none → (∀ k : Fin 4, (s.lanes.get k).attached = 0) →
      s.staging.records ≠ [] → s.placesLeft ≠ 0 →
      ∃ t, exec (.stop o) s = .next t ∧ (t.takeAt i).endReason = some .stopped ∧ (t.takeAt i).state = (s.takeAt i).state ∧
        (t.takeAt i).stops = (s.takeAt i).stops ++ [o] ∧ t.sampler.state = .idle ∧ t.staging = s.staging ∧ t.writer = s.writer ∧
        t.disp = s.disp ∧ t.gens = s.gens ∧ t.monitor = s.monitor ∧ t.slots = s.slots ∧ t.lanes = s.lanes ∧ t.panel = s.panel ∧ t.alerts = s.alerts ∧
        t.pool.blocks = s.pool.blocks ∧ t.pool.free = s.pool.free ∧ (∀ j, j ≠ i → t.takeAt j = s.takeAt j) ∧ bytesKept s t storesNothing ∧
        (s.seq.serving = .capture → s.seq.servingTake = (s.takeAt i).id → t.seq.state = .loaded ∧ t.seq.serving = .none))

/-- R75, FORCE: NO SUCH TAKE with no take capturing; WRONG STATE, changing nothing, in WAITING, in POSTTRIG or ending; in PRETRIG and not ending OK, and the take is triggered
in the present sample interval whatever its mode: a running sequencer of the take is DONE, and a sampler in WATCH is woken. -/
def Obligations.ForceTriggers : Prop :=
  ∀ (s : State) (o : OrderRef), s.ready → s.recordClear o .force 0 →
    (s.capIndex = none → ∃ t, exec (.force o) s = .next t ∧ completedFrom s t o .force .noSuchTake []) ∧
    (∀ i, s.capIndex = some i →
      (((s.takeAt i).state = .waiting ∨ (s.takeAt i).state = .posttrig ∨ (s.takeAt i).endReason.isSome = true) →
        ∃ t, exec (.force o) s = .next t ∧ completedFrom s t o .force .wrongState []) ∧
      ((s.takeAt i).state = .pretrig → (s.takeAt i).endReason = none →
        ∃ t, exec (.force o) s = .next t ∧ t.shared.getUnit (stateAddr o.addr) = stateUnit (s.recordState o) Outcome.ok.code ∧
          (t.takeAt i).state = .posttrig ∧
          (t.takeAt i).trigger = some ⟨s.intervalTime, .force, none, s.sampler.state == .waking⟩ ∧
          t.alerts.causes.getLsbD Cause.take.index = true ∧
          (s.seq.state = .running → s.seq.serving = .capture → s.seq.servingTake = (s.takeAt i).id → t.seq.state = .done) ∧
          (s.sampler.state = .watch → t.sampler.state = .waking) ∧
          t.gens = s.gens ∧ t.monitor = s.monitor ∧ t.slots = s.slots ∧ t.panel = s.panel ∧ t.pool.blocks = s.pool.blocks ∧
          t.pool.free = s.pool.free ∧
          (s.sampler.state ≠ .watch → t.lanes = s.lanes ∧ t.pods = s.pods ∧ bytesKept s t (completionBytes o .force 0))))

/-- TAKE STATUS (R80): the summary of the entry with the id, or of the capturing take for id 0, and no other effect; NO SUCH TAKE when there is none. RELEASE TAKE (R81, R83): NO SUCH
TAKE, WRONG STATE while it is capturing, OK with no effect while it is RELEASING; an ENDED take that no reader names goes to RELEASING, or to EMPTY at once when it holds no block. That the result
area of a TAKE STATUS with NO SUCH TAKE stands is the model's reading (log 11). -/
def Obligations.TakeStatusAndRelease : Prop :=
  ∀ (s : State) (o : OrderRef) (p : TakeIdP), s.ready → p.takeId ≤ 255 →
    (s.recordClear o .takeStatus 6 →
      (let named := if p.takeId = 0 then s.capIndex else s.takeIndex p.takeId
       (named = none → ∃ t, exec (.takeStatus o p) s = .next t ∧ completedFrom s t o .takeStatus .noSuchTake []) ∧
       (∀ i, named = some i →
         ∃ t, exec (.takeStatus o p) s = .next t ∧ completedFrom s t o .takeStatus .ok ((s.takeAt i).summary s.writer.filling.isSome)))) ∧
    (s.recordClear o .releaseTake 0 → 1 ≤ p.takeId →
      (s.takeIndex p.takeId = none → ∃ t, exec (.releaseTake o p) s = .next t ∧ completedFrom s t o .releaseTake .noSuchTake []) ∧
      (∀ i, s.takeIndex p.takeId = some i →
        ((s.takeAt i).capturing = true → ∃ t, exec (.releaseTake o p) s = .next t ∧ completedFrom s t o .releaseTake .wrongState []) ∧
        ((s.takeAt i).state = .releasing → ∃ t, exec (.releaseTake o p) s = .next t ∧ completedFrom s t o .releaseTake .ok []) ∧
        ((s.takeAt i).state = .ended → s.replay.running = false → s.exporter.queue = [] → s.render.order = none →
          ∃ t, exec (.releaseTake o p) s = .next t ∧
            completedFrom
              { s with takes := { s.takes with entries := (putAt s.takes.entries i
                (if (s.takeAt i).sealedCount = 0 then Take.reset else { s.takeAt i with state := .releasing })) } } t
              o .releaseTake .ok [])))

/-- A front block of a RELEASING take that no reader holds goes to the tail of the free list, and the entry loses it from its front, or is EMPTY when it was the last (R83, R58). That
the first block sequence number runs modulo 2^32 is the model's choice (log 36). -/
def Obligations.BlockFreedGoesToTail : Prop :=
  ∀ (s : State) (id i b : Nat), s.ready → s.takeIndex id = some i → s.freeable i = some b → i < s.takes.entries.length →
    ∃ t, exec (.blockFreed id) s = .next t ∧ closedFrom { s with pool := t.pool, takes := t.takes } t ∧ t.pool.free = s.pool.free ++ [b] ∧
      b ∉ t.pool.owned ∧
      ((s.takeAt i).sealedCount = 1 → t.takeAt i = Take.reset) ∧
      (1 < (s.takeAt i).sealedCount → t.takeAt i = { s.takeAt i with
        firstSeq := ((s.takeAt i).firstSeq + 1) % 2 ^ 32, sealedCount := (s.takeAt i).sealedCount - 1 })

/-- No lane is ATTACHED and the sequencer does not run: a vector goes to the record former alone. -/
def recordsOnly (s : State) : Prop := (∀ k : Fin 4, (s.lanes.get k).state ≠ .attached) ∧ s.seq.state ≠ .running

/-- A sample interval (R39, R43): in IDLE nothing happens; in SAMPLING, with no lane and no sequencer run, the presented levels become the current levels, and a CHANGE with the
listed levels is offered to staging exactly when a listed channel differs or the levels are due to be restated. In OVERFLOW, or with the FIFO full, that CHANGE is discarded: staging
is in OVERFLOW with one more record lost, the take counts it, and the stream time stands (R45). In WAKING, in an interval that begins at or after the last listed pod's return to ON, all pods healthy, sampling resumes: GAP,
ANCHOR and a CHANGE that restates the levels, all of this interval, and one more gap in the take (R54). -/
def Obligations.SampleIntervalFormsChange : Prop :=
  ∀ (s : State) (levels : Chans), s.ready → s.quiet →
    (s.sampler.state = .idle → ∃ t, exec (.sampleInterval levels) s = .next t ∧ closedFrom s t) ∧
    (∀ i, s.sampler.state = .sampling → recordsOnly s → s.recordingIndex = some i → (s.takeAt i).mode ≠ .immediate →
      s.staging.overflow = false → s.staging.fill + 2 ≤ 4096 →
      ∃ t, exec (.sampleInterval levels) s = .next t ∧ t.sampler.current = s.presented levels ∧ t.sampler.previous = s.presented levels ∧
        (let due := s.sampler.restateDue || (s.presented levels ^^^ s.sampler.previous) &&& s.sampler.channels != 0
         (due = false → t.staging = s.staging) ∧
         (due = true → t.sampler.restateDue = false ∧
           t.staging.records = s.staging.records ++
             s.admitted (s.takeAt i).id (s.recordTime s.intervalTime) (.change (s.presented levels &&& s.sampler.channels)))) ∧
        t.pods = s.pods ∧ t.gens = s.gens ∧ t.takes = s.takes ∧ t.lanes = s.lanes ∧ t.monitor = s.monitor ∧ t.seq = s.seq ∧ t.slots = s.slots ∧
        t.panel = s.panel ∧ t.disp = s.disp ∧ bytesKept s t storesNothing) ∧
    (∀ i, s.sampler.state = .sampling → recordsOnly s → s.recordingIndex = some i → (s.takeAt i).mode ≠ .immediate →
      (s.staging.overflow = true ∨ 4096 ≤ s.staging.fill) →
      ∃ t, exec (.sampleInterval levels) s = .next t ∧ t.sampler.current = s.presented levels ∧ t.sampler.previous = s.presented levels ∧
        t.sampler.streamTime = s.sampler.streamTime ∧
        (let due := s.sampler.restateDue || (s.presented levels ^^^ s.sampler.previous) &&& s.sampler.channels != 0
         (due = false → t.staging = s.staging ∧ t.takes = s.takes) ∧
         (due = true → t.sampler.restateDue = false ∧
           t.staging = { s.staging with overflow := true, lost := min (s.staging.lost + 1) (2 ^ 32 - 1) } ∧
           t.takes = { s.takes with entries := putAt s.takes.entries i { s.takeAt i with lost := min ((s.takeAt i).lost + 1) (2 ^ 32 - 1) } })) ∧
        t.alerts = s.alerts ∧ t.pods = s.pods ∧ t.gens = s.gens ∧ t.lanes = s.lanes ∧ t.monitor = s.monitor ∧ t.seq = s.seq ∧ t.slots = s.slots ∧
        t.panel = s.panel ∧ t.disp = s.disp ∧ bytesKept s t storesNothing) ∧
    (∀ i, s.sampler.state = .waking → s.resumes = true → podsHealthy s → recordsOnly s → s.recordingIndex = some i →
      (s.takeAt i).mode ≠ .immediate → s.staging.overflow = false → s.staging.fill + 4 ≤ 4096 →
      ∃ t, exec (.sampleInterval levels) s = .next t ∧ t.sampler.state = .sampling ∧ t.sampler.current = s.presented levels ∧
        t.sampler.streamTime = s.intervalTime ∧ t.sampler.restateDue = false ∧
        t.sampler.idleTimer =
          (if (s.takeAt i).state = .pretrig then s.sampler.idleSpan.map (fun n => tickAdd s.intervalTime (n * 1000000)) else none) ∧
        t.staging.records = s.staging.records ++
          s.admitted (s.takeAt i).id s.intervalTime (.gap 0 true s.sampler.wakingTrigger s.sampler.wakingPods) ++
          [⟨⟨0, .anchor s.intervalTime⟩, s.intervalTime, (s.takeAt i).id⟩,
           ⟨⟨0, .change (s.presented levels &&& s.sampler.channels)⟩, s.intervalTime, (s.takeAt i).id⟩] ∧
        t.takes = { s.takes with entries := putAt s.takes.entries i { s.takeAt i with gaps := min ((s.takeAt i).gaps + 1) 65535 } } ∧
        t.pods = s.pods ∧ t.gens = s.gens ∧ t.lanes = s.lanes ∧ t.monitor = s.monitor ∧ t.seq = s.seq ∧ t.slots = s.slots ∧
        t.panel = s.panel ∧ t.disp = s.disp ∧ bytesKept s t storesNothing)

/-- The idle timer runs out in SAMPLING (R51, R52): a WATCH record is offered, every listed ON pod with a clear latch goes to WATCH, and the sampler is in WATCH; before that IDLE TIMER
EXPIRY changes nothing (log 2). A wake edge in WATCH, with no lane and no sequencer run (R53): the presented levels are latched with the interval's time, a WAKE is offered, every pod in
WATCH loads its wake timer, and the sampler is WAKING. -/
def Obligations.WatchAndWake : Prop :=
  ∀ s : State, s.ready →
    (s.idleExpired = false → ∃ t, exec .idleTimerExpiry s = .next t ∧ closedFrom s t) ∧
    (∀ i, s.recordingIndex = some i → s.staging.overflow = false → s.staging.fill + 2 ≤ 4096 →
      (s.idleExpired = true →
        ∃ t, exec .idleTimerExpiry s = .next t ∧ t.sampler.state = .watch ∧ t.sampler.idleTimer = none ∧
          t.staging.records = s.staging.records ++ s.admitted (s.takeAt i).id (s.recordTime s.intervalTime) .watch ∧
          (∀ p : Fin 4, t.pods.get p =
            (if podIn p s.sampler.channels = true ∧ (s.pods.get p).power = .on ∧ (s.pods.get p).latch = false then
              { s.pods.get p with power := .watch }
             else s.pods.get p)) ∧
          t.gens = s.gens ∧ t.lanes = s.lanes ∧ t.seq = s.seq ∧ t.takes = s.takes ∧ t.monitor = s.monitor ∧ t.slots = s.slots ∧ t.panel = s.panel ∧
          t.disp = s.disp ∧ bytesKept s t storesNothing) ∧
      (∀ levels : Chans, s.quiet → s.sampler.state = .watch → s.wakeChange levels = true → recordsOnly s →
        ∃ t, exec (.wakeEdge levels) s = .next t ∧ t.sampler.state = .waking ∧
          t.sampler.wakeLatch = some (s.presented levels &&& s.sampler.channels, s.intervalTime) ∧
          t.staging.records = s.staging.records ++
            s.admitted (s.takeAt i).id (s.recordTime s.intervalTime) (.wake (s.presented levels &&& s.sampler.channels)) ∧
          (∀ p : Fin 4, t.pods.get p =
            (if (s.pods.get p).power = .watch ∧ (s.pods.get p).wakeTimer = none then
              { s.pods.get p with wakeTimer := some (tickAdd s.tick ((s.pods.get p).wakeSpan * 1000)) }
             else s.pods.get p)) ∧
          t.gens = s.gens ∧ t.lanes = s.lanes ∧ t.seq = s.seq ∧ t.takes = s.takes ∧ t.monitor = s.monitor ∧ t.slots = s.slots ∧ t.panel = s.panel ∧
          t.disp = s.disp ∧ bytesKept s t storesNothing))

/-- Block `c` of `t` is a new filling block of take entry `i` of `s`, every pending comparator set applied first (R59). -/
def acquiredIn (s t : State) (i c : Nat) : Prop :=
  t.writer.filling = some c ∧ t.pods = s.pods.map Pod.applyStaged ∧
    t.pool.block c = some ⟨false, (s.takeAt i).id, (s.takeAt i).acquired, 0, 0, t.pods.map (fun p => p.generation), 0, false, []⟩ ∧
    (t.takeAt i).acquired = ((s.takeAt i).acquired + 1) % 2 ^ 32

/-- The part of a grant to the writer that every case shares: the access was its own, and the oldest record leaves for the filling block `b` of take entry `i`. -/
def writerGranted (s : State) (i b : Nat) (e : Block) (r : Staged) (rest : List Staged) : Prop :=
  s.pool.inFlight = some ⟨.writer, false, none, none⟩ ∧ s.capIndex = some i ∧ (s.takeAt i).sampling = true ∧ s.writer.filling = some b ∧
    s.pool.block b = some e ∧ s.staging.records = r :: rest

/-- A grant to the capture writer (R49): the oldest staged record is appended to the filling block; as the block's first it goes behind the block-start ANCHOR, which the same access
writes (the model's reading, log 24). A block that it fills is
SEALED (R60), and then: in POSTTRIG the take ends FILLED at its depth, SHORT with no free block, and else the head of the free list is the next filling block (R76); in PRETRIG the front
block is dropped to the tail of the free list if the sequence is longer than the share or no block is free, and the next block is acquired (R71, R72). With the FIFO drained to
2,047 in OVERFLOW, GAP and ANCHOR follow and staging is in NORMAL (R46). The last record of an ending take settles the block: it is SEALED (R78).
That block numbers run modulo 2^32, a block 0 again counting as the first, is the model's choice (log 36). -/
def Obligations.WriterDrainsOldest : Prop :=
  ∀ (s : State) (i b : Nat) (e : Block) (r : Staged) (rest : List Staged), s.ready → writerGranted s i b e r rest →
    ((s.takeAt i).endReason = none → s.staging.overflow = false → e.records.length + 2 < 16384 → (e.records = [] → r.record.body.isAnchor = false) →
      ∃ t, exec .captureWriterAccess s = .next t ∧ t.staging.records = rest ∧ t.writer = { s.writer with lastTime := r.time } ∧
        (e.records ≠ [] → t.pool.block b = some (e.written r)) ∧
        (e.records = [] →
          (let start := if e.seqNo = 0 then s.sampler.origin else s.writer.lastTime
           t.pool.block b = some { e with records := [⟨0, .anchor start⟩, r.record], firstTick := start, lastTick := r.time })) ∧
        t.pool.free = s.pool.free ∧ (t.takeAt i).state = (s.takeAt i).state ∧ t.pods = s.pods ∧ t.lanes = s.lanes ∧ t.seq = s.seq ∧
        t.sampler = s.sampler ∧ t.gens = s.gens ∧ t.monitor = s.monitor ∧ t.slots = s.slots ∧ t.panel = s.panel ∧ t.alerts = s.alerts ∧
        t.disp = s.disp ∧ (∀ c, c ≠ b → t.pool.block c = s.pool.block c) ∧ bytesKept s t storesNothing) ∧
    ((s.takeAt i).endReason = none → s.staging.overflow = false → e.records.length + 1 = 16384 → s.render.order = none →
      (let full := { e.written r with sealedIn := true }
       ((s.takeAt i).state = .posttrig → (∀ k : Fin 4, (s.lanes.get k).attached = 0) →
         ((s.takeAt i).depth ≤ (s.takeAt i).sealedCount + 1 ∨ s.pool.free = []) →
         ∃ t, exec .captureWriterAccess s = .next t ∧ t.pool.block b = some full ∧ t.writer.filling = none ∧ t.staging.records = [] ∧
           (t.takeAt i).state = .posttrig ∧ (t.takeAt i).sealedCount = (s.takeAt i).sealedCount + 1 ∧
           (t.takeAt i).endReason = some (if (s.takeAt i).depth ≤ (s.takeAt i).sealedCount + 1 then .filled else .short) ∧
           t.sampler.state = .idle ∧ t.pool.free = s.pool.free ∧ bytesKept s t storesNothing) ∧
       (∀ c more, (s.takeAt i).state = .posttrig → (s.takeAt i).sealedCount + 1 < (s.takeAt i).depth → s.pool.free = c :: more →
         s.pool.block c = none →
         ∃ t, exec .captureWriterAccess s = .next t ∧ t.pool.block b = some full ∧ acquiredIn s t i c ∧ t.pool.free = more ∧
           t.staging.records = rest ∧ (t.takeAt i).sealedCount = (s.takeAt i).sealedCount + 1 ∧ (t.takeAt i).firstSeq = (s.takeAt i).firstSeq ∧
           (t.takeAt i).endReason = none ∧ t.lanes = s.lanes ∧ t.seq = s.seq ∧ t.sampler = s.sampler ∧ bytesKept s t storesNothing) ∧
       (∀ c more, (s.takeAt i).state = .pretrig → (s.takeAt i).sealedCount + 1 ≤ (s.takeAt i).share → s.pool.free = c :: more →
         s.pool.block c = none →
         ∃ t, exec .captureWriterAccess s = .next t ∧ t.pool.block b = some full ∧ acquiredIn s t i c ∧ t.pool.free = more ∧
           (t.takeAt i).sealedCount = (s.takeAt i).sealedCount + 1 ∧ (t.takeAt i).firstSeq = (s.takeAt i).firstSeq ∧ bytesKept s t storesNothing) ∧
       (∀ f d c more, (s.takeAt i).state = .pretrig → ((s.takeAt i).share < (s.takeAt i).sealedCount + 1 ∨ s.pool.free = []) →
         s.frontBlock i = some f → f ≠ b → s.pool.block f = some d → d.revocable = false → s.pool.free ++ [f] = c :: more →
         (c = f ∨ s.pool.block c = none) →
         ∃ t, exec .captureWriterAccess s = .next t ∧ t.pool.block b = some full ∧ acquiredIn s t i c ∧ t.pool.free = more ∧
           (c ≠ f → t.pool.block f = none) ∧ (t.takeAt i).sealedCount = (s.takeAt i).sealedCount ∧
           (t.takeAt i).firstSeq = ((s.takeAt i).firstSeq + 1) % 2 ^ 32 ∧ bytesKept s t storesNothing))) ∧
    ((s.takeAt i).endReason = none → s.staging.overflow = true → rest.length ≤ 2047 → podsHealthy s → e.records ≠ [] →
      e.records.length + 1 < 16384 →
      ∃ t, exec .captureWriterAccess s = .next t ∧ t.pool.block b = some (e.written r) ∧ t.writer = { s.writer with lastTime := r.time } ∧
        t.staging.records = rest ++
          s.admitted (s.takeAt i).id s.intervalTime
            (.gap (min s.staging.lost (2 ^ 24 - 1)) false s.staging.triggerInLoss s.staging.changedPods) ++
          [⟨⟨0, .anchor s.intervalTime⟩, s.intervalTime, (s.takeAt i).id⟩] ∧
        t.staging.overflow = false ∧ t.staging.lost = 0 ∧ t.staging.triggerInLoss = false ∧ t.staging.changedPods = 0 ∧
        t.sampler = { s.sampler with streamTime := s.intervalTime, restateDue := true } ∧
        (t.takeAt i).gaps = min ((s.takeAt i).gaps + 1) 65535 ∧
        (s.staging.triggerInLoss = true → ∀ p, (t.takeAt i).trigger = some p → p.inGap = true) ∧ t.pods = s.pods ∧ t.lanes = s.lanes ∧
        t.seq = s.seq ∧ t.pool.free = s.pool.free ∧ bytesKept s t storesNothing) ∧
    ((s.takeAt i).endReason.isSome = true → s.staging.overflow = false → rest = [] → (s.takeAt i).state = .posttrig → s.render.order = none →
      e.records ≠ [] → e.records.length + 1 < 16384 →
      ∃ t, exec .captureWriterAccess s = .next t ∧ t.pool.block b = some { e.written r with sealedIn := true } ∧ t.writer.filling = none ∧
        t.staging.records = [] ∧ (t.takeAt i).sealedCount = (s.takeAt i).sealedCount + 1 ∧ (t.takeAt i).state = .posttrig ∧
        (t.takeAt i).endReason = (s.takeAt i).endReason ∧ t.pool.free = s.pool.free ∧ t.pods = s.pods ∧ t.lanes = s.lanes ∧
        bytesKept s t storesNothing)

/-- An ending take with nothing left to drain or settle enters ENDED (R78): its ARM order completes, OK or PARTLY by the end reason, with the summary of the entry as it then stands,
and TAKE is raised. No render is bound to it and no STOP waits. -/
def Obligations.TakeEndsCompletesArm : Prop :=
  ∀ (s : State) (i : Nat) (o : OrderRef), s.ready → s.capIndex = some i → i < s.takes.entries.length → s.readyToEnd i = true →
    (s.takeAt i).armOrder = some o → (s.takeAt i).stops = [] → s.render.order = none → s.recordClear o .arm 6 →
    ∃ t, exec .takeEntersEnded s = .next t ∧
      completedFrom { s with takes := t.takes, pool := s.pool.unrevocable (s.takeAt i).id, alerts := s.alerts.raise .take } t o .arm
        (if (s.takeAt i).endReason = some .filled ∨ (s.takeAt i).endReason = some .stopped then .ok else .partly) ((t.takeAt i).summary false) ∧
      (t.takeAt i).state = .ended ∧ (t.takeAt i).armOrder = none ∧ (∀ j, j ≠ i → t.takeAt j = s.takeAt j)

/-! ## Reading stored takes -/

/-- REPLAY with its fields in range (R149, R150): NO SUCH TAKE unless the take is ENDED, BUSY while the engine runs or a named lane is not IDLE; without a search, a range that misses the recorded
span completes at once with OK and no hits, its result bearing the range as clipped (the model's reading, log 22); else the engine runs, every named lane is REPLAYING from frame number 0, and the order is in flight. -/
def Obligations.ReplayStarts : Prop :=
  ∀ (s : State) (o : OrderRef) (p : ReplayP), s.ready → s.recordClear o .replay 71 → p.valid = true →
    ((∀ i, s.takeIndex p.takeId = some i → (s.takeAt i).state ≠ .ended) →
      ∃ t, exec (.replay o p) s = .next t ∧ completedFrom s t o .replay .noSuchTake []) ∧
    (∀ i, s.takeIndex p.takeId = some i → (s.takeAt i).state = .ended →
      (s.replay.running = true → ∃ t, exec (.replay o p) s = .next t ∧ completedFrom s t o .replay .busy []) ∧
      (s.replay.running = false → (∃ k : Fin 4, (BitVec.ofNat 4 p.lanes).getLsbD k.val = true ∧ (s.lanes.get k).state ≠ .idle) →
        ∃ t, exec (.replay o p) s = .next t ∧ completedFrom s t o .replay .busy []) ∧
      (s.replay.running = false → p.search = 0 →
        (∀ k : Fin 4, (BitVec.ofNat 4 p.lanes).getLsbD k.val = true → (s.lanes.get k).state = .idle) →
        ∀ f l, s.recordedSpan (s.takeAt i) = some (f, l) →
          (min p.rangeEnd l < max p.rangeStart f →
            ∃ t, exec (.replay o p) s = .next t ∧
              completedFrom s t o .replay .ok (emptyReplay p (max p.rangeStart f, min p.rangeEnd l))) ∧
          (max p.rangeStart f ≤ min p.rangeEnd l →
            ∃ t, exec (.replay o p) s = .next t ∧ t.replay.running = true ∧ t.replay.order = some o ∧ t.replay.takeId = p.takeId ∧
              t.replay.first = max p.rangeStart f ∧ t.replay.last = min p.rangeEnd l ∧ t.replay.hits = [] ∧
              (∀ k : Fin 4, (BitVec.ofNat 4 p.lanes).getLsbD k.val = true →
                (t.lanes.get k).state = .replaying ∧ (t.lanes.get k).dec.seqNo = 0 ∧ (t.lanes.get k).replayFrames = 0) ∧
              (∀ k : Fin 4, (BitVec.ofNat 4 p.lanes).getLsbD k.val = false → t.lanes.get k = s.lanes.get k) ∧
              t.pods = s.pods ∧ t.gens = s.gens ∧ t.monitor = s.monitor ∧ t.staging = s.staging ∧ t.takes = s.takes ∧ t.seq = s.seq ∧ t.slots = s.slots ∧
              t.panel = s.panel ∧ t.alerts = s.alerts ∧ t.disp = s.disp ∧ bytesKept s t storesNothing)))

/-- One interval of a replay without a search run, before the last of its range and with no gap notice due (R152): the interval is the last one handed, the next one follows on the
grid, and the levels are those the stored records rebuild. -/
def Obligations.ReplayIntervalHandsNext : Prop :=
  ∀ s : State, s.ready → s.replayReady = true → s.dueNotice = none → s.searchRuns = false →
    s.replay.nextInterval + 2 ^ s.replayTake.intervalExp ≤ s.replayLastInterval →
    ∃ t, exec .replayInterval s = .next t ∧ t.replay.running = true ∧ t.replay.phase = .feeding ∧
      t.replay.lastHanded = some s.replay.nextInterval ∧ t.replay.nextInterval = s.replay.nextInterval + 2 ^ s.replayTake.intervalExp ∧
      t.replay.levels = (rebuiltAt s.replayTake.channels (Rebuilt.start s.replay.front) (s.takeRecords s.replayTake) s.replay.nextInterval).levels ∧
      t.takes = s.takes ∧ t.pods = s.pods ∧ t.gens = s.gens ∧ t.monitor = s.monitor ∧ t.staging = s.staging ∧ t.slots = s.slots ∧ t.panel = s.panel ∧
      t.disp = s.disp ∧ (∀ k : Fin 4, s.replay.lanes.getLsbD k.val = false → t.lanes.get k = s.lanes.get k)

/-- The bytes of an export's burst lie inside the address space and clear of the page. -/
def burstClear (s : State) (a n : Nat) : Prop :=
  a + 8 * n ≤ 2 ^ 64 ∧
    (s.disp.state = .halted ∨ (s.disp.pageAddr + 512 ≤ 2 ^ 64 ∧ (a + 8 * n ≤ s.disp.pageAddr ∨ s.disp.pageAddr + 512 ≤ a)))

/-- EXPORT (R159, R160). Behind other orders in a queue with room, its run clipped at the take's end, it joins the tail; with four orders queued the dispatcher is STALLED and
holds it (R186; for the command EXPORT itself this is the model's choice, log 10). With none queued and no access of an order before it in flight it runs at once: the engine holds the first block of its run and writes that block's header. -/
def Obligations.ExportJoinsQueue : Prop :=
  ∀ (s : State) (o : OrderRef) (p : ExportP), s.ready →
    (4 ≤ s.exporter.queue.length →
      ∃ t, exec (.exportOrder o p) s = .next t ∧ closedFrom { s with disp := { s.disp with state := .stalled, held := some o.addr } } t) ∧
    (∀ i, s.exporter.queue.length < 4 → p.valid = true → s.takeIndex p.takeId = some i → (s.takeAt i).state = .ended →
      (s.takeAt i).blockOffset p.firstBlock < (s.takeAt i).sealedCount →
      (let job : ExportJob :=
         ⟨o, p.takeId, p.firstBlock, min p.count ((s.takeAt i).sealedCount - (s.takeAt i).blockOffset p.firstBlock), p.dest, p.capacity⟩
       (s.exporter.queue ≠ [] → s.exporter.held.isSome = true →
         ∃ t, exec (.exportOrder o p) s = .next t ∧
           closedFrom { s with exporter := { s.exporter with queue := s.exporter.queue ++ [job] } } t) ∧
       (∀ b e, s.exporter.queue = [] → s.staleAccess .exporter = false → s.pool.find p.takeId p.firstBlock = some b →
         s.pool.blockOf p.takeId p.firstBlock = some e → s.pool.block b = some e →
         32 + 8 * e.records.length ≤ p.capacity → burstClear s p.dest 4 →
         ∃ t, exec (.exportOrder o p) s = .next t ∧ t.exporter.queue = [job] ∧ t.exporter.held = some b ∧ t.exporter.index = 0 ∧
           t.exporter.copied = 0 ∧ t.exporter.bytes = 0 ∧ t.exporter.nextSeq = p.firstBlock ∧
           t.pool.block b = some { e with holdCount := e.holdCount + 1 } ∧ t.pool.free = s.pool.free ∧
           t.shared.getUnits p.dest 4 =
             [BitVec.ofNat 64 (e.seqNo + e.records.length * 2 ^ 32), BitVec.zeroExtend 64 e.firstTick, BitVec.zeroExtend 64 e.lastTick,
              BitVec.ofNat 64 (e.generations.n0.toNat + e.generations.n1.toNat * 2 ^ 16 + e.generations.n2.toNat * 2 ^ 32 +
                e.generations.n3.toNat * 2 ^ 48)] ∧
           bytesKept s t (inBytes p.dest 32) ∧ t.takes = s.takes ∧ t.pods = s.pods ∧ t.gens = s.gens ∧ t.lanes = s.lanes ∧ t.seq = s.seq ∧
           t.staging = s.staging ∧ t.sampler = s.sampler ∧ t.monitor = s.monitor ∧ t.slots = s.slots ∧ t.replay = s.replay ∧ t.render = s.render ∧
           t.panel = s.panel ∧ t.alerts = s.alerts ∧ t.disp = s.disp)))

/-- A reader's access completes. The export engine's in the midst of a block (R160, R64): the next 64 records are written as units straight after those before them. Its last one of a
block: the hold drops, and the next block of the run is held and its header written, or the order, its run copied and none queued behind it, completes with OK and its result. The
replay engine's while feeding, and the renderer's in a SCAN or in its rebuild, in the midst of a block: 64 more records are read, and the rebuild writes the cells it has passed
(R148, R151, R165). How far that is, and so when reading stops, is the model's choice (log 27): a watch that has ended with no GAP read yet keeps it back. One whose right has ended (R65): its data is discarded, and the hold it kept drops. That
the next block's number runs modulo 2^32 is the model's choice (log 36). -/
def Obligations.ReaderAccessCompletes : Prop :=
  ∀ (s : State) (b : Nat) (e : Block), s.ready → s.pool.block b = some e →
    (∀ (j : ExportJob) (rest : List ExportJob), s.pool.inFlight = some ⟨.exporter, false, none, none⟩ → s.exporter.queue = j :: rest →
      s.exporter.held = some b → s.exporter.index ≤ e.records.length → e.records.length ≤ s.exporter.index + 64 →
      (let a := j.dest + s.exporter.bytes + 32 + 8 * s.exporter.index
       let n := e.records.length - s.exporter.index
       let bytes := s.exporter.bytes + (32 + 8 * e.records.length)
       let seq := (s.exporter.nextSeq + 1) % 2 ^ 32
       burstClear s a n →
       (∀ b' e', s.exporter.copied + 1 < j.count → s.pool.find j.takeId seq = some b' → s.pool.blockOf j.takeId seq = some e' →
         s.pool.block b' = some e' → b' ≠ b → bytes + 32 + 8 * e'.records.length ≤ j.capacity → burstClear s (j.dest + bytes) 4 →
         ∃ t, exec (.readerAccessComplete .exporter) s = .next t ∧
           t.exporter = { s.exporter with held := some b', index := 0, bytes := bytes, copied := s.exporter.copied + 1, nextSeq := seq } ∧
           t.shared.getUnits a n = (e.records.drop s.exporter.index).map CapRec.unit ∧
           t.shared.getUnits (j.dest + bytes) 4 = e'.segmentHeader ∧ bytesKept s t (inBytes a (8 * n + 32)) ∧
           t.pool.block b = some { e with holdCount := e.holdCount - 1 } ∧ t.pool.block b' = some { e' with holdCount := e'.holdCount + 1 } ∧
           t.pool.free = s.pool.free ∧ t.disp = s.disp ∧ t.alerts = s.alerts ∧ t.takes = s.takes) ∧
       (s.exporter.copied + 1 = j.count → rest = [] → s.exporter.nextSeq < 2 ^ 32 → s.recordClear j.order .exportOrder 3 →
         (a + 8 * n ≤ j.order.addr ∨ resultAddr j.order.addr .exportOrder + 24 ≤ a) →
         ∃ t, exec (.readerAccessComplete .exporter) s = .next t ∧ t.exporter = Exporter.reset ∧
           t.shared.getUnits a n = (e.records.drop s.exporter.index).map CapRec.unit ∧
           t.shared.getUnit (stateAddr j.order.addr) = stateUnit (s.recordState j.order) Outcome.ok.code ∧
           t.shared.getUnits (resultAddr j.order.addr .exportOrder) 3 =
             [BitVec.ofNat 64 (j.count + 2 ^ 16), BitVec.ofNat 64 bytes, BitVec.ofNat 64 s.exporter.nextSeq] ∧
           bytesKept s t (fun x => inBytes a (8 * n) x ∨ completionBytes j.order .exportOrder 3 x) ∧
           t.alerts = s.alerts.raiseIf j.order.alert .order ∧
           t.pool.block b = some { e with holdCount := e.holdCount - 1, revocable := e.revocable } ∧ t.pool.free = s.pool.free ∧
           t.takes = s.takes))) ∧
    (s.pool.inFlight = some ⟨.replay, false, none, none⟩ → s.replay.held = some b → s.replay.phase = .feeding →
      s.replay.readCount + 64 < recordsBefore (s.sealedBlocks s.replayTake) e.seqNo + e.records.length →
      ∃ t, exec (.readerAccessComplete .replay) s = .next t ∧
        closedFrom { s with replay := { s.replay with readCount := s.replay.readCount + 64 }, pool := { s.pool with inFlight := none } } t) ∧
    (s.pool.inFlight = some ⟨.renderer, false, none, none⟩ → s.render.order.isSome = true → s.render.state = .building →
      s.render.held = some b → s.render.index + 64 < e.records.length →
      (let read := ((e.timed s.renderTake.intervalExp).drop s.render.index).take 64
       let cur := { s.render.cur with records := s.render.cur.records ++ read }
       let size := 32 + 2 * s.render.cols * s.render.traces.length
       (s.render.scanning = true → (scanNotes .plain noNotes (s.render.scanned ++ read)).full = false →
         ∃ t, exec (.readerAccessComplete .renderer) s = .next t ∧
           closedFrom
             { s with
               render := { s.render with scanned := s.render.scanned ++ read, index := s.render.index + 64 }
               pool := { s.pool with inFlight := none } } t) ∧
       (s.render.scanning = false → cur.limit s.renderTake.intervalExp ≤ s.render.winLast →
         ∃ t, exec (.readerAccessComplete .renderer) s = .next t ∧
           t.render = { s.render with
             cur := cur
             index := s.render.index + 64
             reached := t.render.reached
             colsWritten := t.render.colsWritten } ∧
           s.render.colsWritten ≤ t.render.colsWritten ∧ t.takes = s.takes ∧ t.pool.blocks = s.pool.blocks ∧ t.pool.free = s.pool.free ∧
           t.panel = s.panel ∧ t.alerts = s.alerts ∧ t.disp = s.disp ∧ bytesKept s t (inBytes s.render.target size)))) ∧
    (∀ (j : ExportJob) (rest : List ExportJob), s.granted .exporter = true → s.staleAccess .exporter = false →
      (∀ g, s.pool.inFlight = some g → g.drops = none ∧ g.frees = none) →
      s.exporter.queue = j :: rest → s.exporter.held = some b → s.exporter.index + 64 < e.records.length →
      (let a := j.dest + s.exporter.bytes + 32 + 8 * s.exporter.index
       burstClear s a 64 →
       ∃ t, exec (.readerAccessComplete .exporter) s = .next t ∧ t.exporter = { s.exporter with index := s.exporter.index + 64 } ∧
         t.shared.getUnits a 64 = ((e.records.drop s.exporter.index).take 64).map CapRec.unit ∧ bytesKept s t (inBytes a (8 * 64)) ∧
         t.disp = s.disp ∧ t.alerts = s.alerts ∧ t.takes = s.takes ∧ t.pods = s.pods ∧ t.gens = s.gens ∧ t.lanes = s.lanes ∧ t.seq = s.seq ∧
         t.staging = s.staging ∧ t.panel = s.panel ∧ t.pool.blocks = s.pool.blocks ∧ t.pool.free = s.pool.free)) ∧
    (s.pool.inFlight = some ⟨.replay, true, some b, none⟩ → s.replay.running = false →
      ∃ t, exec (.readerAccessComplete .replay) s = .next t ∧
        closedFrom { s with pool := { s.pool.setBlock b { e with holdCount := e.holdCount - 1 } with inFlight := none } } t)

/-! ## Rendering and the panel -/

/-- RENDER of the capturing take with a sealed block at its front and none in flight (R163, R164, R165): BUSY if table A is shown or pending; else the order is served, its first
generation has the counter's number and table A as its target, and the renderer holds the front block. -/
def Obligations.RenderStartsGeneration : Prop :=
  ∀ (s : State) (o : OrderRef) (p : RenderP) (i : Nat), s.ready → s.recordClear o .render 2 → p.valid = true → p.source = 0 → s.capIndex = some i →
    s.takeIndex (s.takeAt i).id = some i → s.render.order = none →
    (s.panelHas p.tableA = true → ∃ t, exec (.render o p) s = .next t ∧ completedFrom s t o .render .busy []) ∧
    (∀ b e, s.panelHas p.tableA = false → s.panelHas p.tableB = false → s.render.held = none →
      (∀ g, s.pool.inFlight = some g → g.client ≠ .renderer) → s.frontBlock i = some b → s.pool.block b = some e → 1 ≤ (s.takeAt i).sealedCount →
      (s.takeAt i).firstSeq + (s.takeAt i).sealedCount ≤ 2 ^ 32 →
      ∃ t, exec (.render o p) s = .next t ∧ t.render.order = some o ∧ t.render.state = .building ∧ t.render.live = true ∧
        t.render.takeId = (s.takeAt i).id ∧ t.render.number = s.render.nextGen ∧
        t.render.nextGen = (if s.render.nextGen = 2 ^ 32 - 1 then 1 else s.render.nextGen + 1) ∧ t.render.target = p.tableA ∧
        t.render.held = some b ∧ t.takes = s.takes ∧ t.pods = s.pods ∧ t.gens = s.gens ∧ t.lanes = s.lanes ∧ t.seq = s.seq ∧ t.staging = s.staging ∧
        t.panel = s.panel ∧ t.alerts = s.alerts ∧ t.disp = s.disp ∧ bytesKept s t (inBytes p.tableA 32))

/-- SHOW (R176): WRONG STATE while the panel is DARK; BUSY while a live RENDER is in flight; with no RENDER in flight and no SHOW waiting, its table is pending and the order waits
for a frame start. That the result area of a refused SHOW stands is the model's reading (log 11). -/
def Obligations.ShowMakesTablePending : Prop :=
  ∀ (s : State) (o : OrderRef) (p : ShowP), s.ready → s.recordClear o .showTable 1 → usableAddr p.table = true → p.table < 2 ^ 64 →
    (s.panel.scanning = false → ∃ t, exec (.showTable o p) s = .next t ∧ completedFrom s t o .showTable .wrongState []) ∧
    (s.panel.scanning = true → s.render.order.isSome = true → s.render.live = true →
      ∃ t, exec (.showTable o p) s = .next t ∧ completedFrom s t o .showTable .busy []) ∧
    (s.panel.scanning = true → s.render.order = none → s.panel.waitingShow = none →
      ∃ t, exec (.showTable o p) s = .next t ∧
        closedFrom { s with panel := { s.panel with pendingTable := some (p.table, true), waitingShow := some o } } t)

/-- SET PANEL (R173): while SCANNING an enabling order stages its configuration; a disabling one, with no SHOW waiting and no generation waiting for a frame, leaves the panel DARK with that
configuration and no table; an enabling one in DARK, under the same conditions and with no table pending, starts frames at once. -/
def Obligations.SetPanelStagesOrSwitches : Prop :=
  ∀ (s : State) (o : OrderRef) (p : SetPanelP), s.ready → s.recordClear o .setPanel 0 → p.valid = true →
    (p.enable = 1 → s.panel.scanning = true → ∃ t, exec (.setPanel o p) s = .next t ∧
      completedFrom { s with panel := { s.panel with staged := some p.config } } t o .setPanel .ok []) ∧
    (p.enable = 0 → s.panel.waitingShow = none → s.render.state ≠ .waitingFrame → ∃ t, exec (.setPanel o p) s = .next t ∧
      completedFrom { s with panel := { s.panel with
        scanning := false, config := p.config, staged := none, shown := none, pendingTable := none, drawn := none } } t o .setPanel .ok []) ∧
    (p.enable = 1 → s.panel.scanning = false → s.panel.staged = none → s.panel.pendingTable = none → s.render.state ≠ .waitingFrame →
      ∃ t, exec (.setPanel o p) s = .next t ∧ completedFrom { s with panel := t.panel } t o .setPanel .ok [] ∧
        t.panel.scanning = true ∧ t.panel.config = p.config ∧ t.panel.frameCount = s.panel.frameCount + 1 ∧
        t.panel.nextFrame = tickAdd s.tick 16666667)

/-- A frame start that is due, with no generation waiting for it (R173, R174, R176): a staged configuration is taken, a pending table becomes the shown table, the frame is drawn and
counted, and the next one is due a frame period later; a waiting SHOW completes with OK and the table let go. That before it is due a frame start does nothing (log 2), and that the frame drawn holds shared memory as it stood
at its start (log 28), is the model's choice. -/
def Obligations.FrameStartShowsPending : Prop :=
  ∀ s : State, s.ready → s.render.state ≠ .waitingFrame →
    (s.frameDue = false → ∃ t, exec (.frameStart []) s = .next t ∧ closedFrom s t) ∧
    (s.frameDue = true →
      (let config := (match s.panel.staged with | none => s.panel.config | some c => c)
       let shown := (match s.panel.pendingTable with | none => s.panel.shown | some (a, _) => some a)
       let letGo := (if s.panel.shown = shown then none else s.panel.shown)
       (s.panel.waitingShow = none → ∃ t, exec (.frameStart []) s = .next t ∧
         closedFrom { s with panel := { s.panel with
           config := config
           staged := none
           shown := shown
           pendingTable := none
           frameCount := s.panel.frameCount + 1
           nextFrame := tickAdd s.panel.nextFrame 16666667
           drawn := some ⟨config, shown, s.shared, false, false⟩ } } t) ∧
       (∀ o a, s.panel.waitingShow = some o → s.panel.pendingTable = some (a, true) → s.recordClear o .showTable 1 →
         ∃ t, exec (.frameStart []) s = .next t ∧
           completedFrom
             { s with panel := { s.panel with
               config := config
               staged := none
               shown := some a
               pendingTable := none
               waitingShow := none
               frameCount := s.panel.frameCount + 1
               nextFrame := tickAdd s.panel.nextFrame 16666667
               drawn := t.panel.drawn } }
             t o .showTable .ok [BitVec.ofNat 64 (letGo.getD 0)])))

/-! ## The report page and failures -/

/-- 10 µs after the last write, the report writer hands over the current stage and the stack depth (R109); the part is otherwise as it was. -/
def Obligations.StageReportCatchesUp : Prop :=
  ∀ (s : State) (w : Tick), s.ready → s.report.stageWritten = some w → 10000 ≤ ticksFrom w s.tick →
    ∃ t, exec .stageReportDelayExpiry s = .next t ∧ closedFrom s t ∧ t.report.stage = s.seq.stage ∧ t.report.depth = s.seq.stack.length

/-- A failed access (R194): of the control block at a nudge in IDLE, the dispatcher is HALTED with its counts and LINK BASE kept and LINK raised; of the result area of a TAKE STATUS, the record
says LINK FAULT; of the state write of a NOTE, the record stays as it stood and the dispatcher is HALTED. That a failed write leaves its bytes as they stood, and
that the failed access is counted among its kind from 0, is the model's choice (log 12). -/
def Obligations.FailedAccesses : Prop :=
  ∀ s : State, s.ready → s.quiet →
    (∀ v : BitVec 32, s.disp.state = .idle → (v - s.disp.consumed).toNat ≤ 4096 →
      ∃ t, exec (.sharedMemoryAccessFailure .controlBlock 0 (.nudge v [])) s = .next t ∧
        t.disp = { s.disp with posted := v, state := .halted, cursor := none, cursorOutcome := none, held := none, found := none } ∧
        t.alerts = s.alerts.raise .link ∧ unitsKept s t ∧ bytesKept s t storesNothing) ∧
    (∀ (o : OrderRef) (p : TakeIdP) (i : Nat), s.recordClear o .takeStatus 6 → 1 ≤ p.takeId → p.takeId ≤ 255 → s.takeIndex p.takeId = some i →
      ∃ t, exec (.sharedMemoryAccessFailure .resultArea 0 (.takeStatus o p)) s = .next t ∧
        t.shared.getUnit (stateAddr o.addr) = stateUnit (s.recordState o) Outcome.linkFault.code ∧
        t.alerts = (s.alerts.raise .link).raiseIf o.alert .order ∧ unitsKept s t ∧ t.settled ∧
        bytesKept s t (inBytes (stateAddr o.addr) 8)) ∧
    (∀ o : OrderRef, s.recordClear o .note 0 →
      ∃ t, exec (.sharedMemoryAccessFailure .orderHeader 0 (.note o)) s = .next t ∧ t.disp.state = .halted ∧ t.disp.cursor = none ∧
        t.shared.getUnit (stateAddr o.addr) = s.shared.getUnit (stateAddr o.addr) ∧ t.alerts = s.alerts.raise .link ∧ unitsKept s t ∧
        t.settled ∧ bytesKept s t storesNothing)

/-! ## The met path of the sequencer -/

/-- The step of a sequencer that meets its current stage in the interval of time `t` (R96, R99): mark, stimulus and FIRE given out, and the stage that the met action enters with the return
stack and its flags; `from_` is the sequencer before it. -/
def takesMetPath (from_ : Sequencer) (k : Nat) (t : Tick) (r : SeqStep) : Prop :=
  r.outs = (if from_.cur.mark then [.markStage from_.stage] else []) ++
      (if from_.cur.stimulus.isSome then [.stimulus from_.cur.stimulus] else []) ++
      (if from_.cur.metAction = .fire then [.fire from_.stage] else []) ∧
  (from_.cur.metAction ≠ .fire →
    r.seq.count = 0 ∧ r.seq.heldBefore = false ∧ r.seq.firstPending = true ∧ r.seq.startTime = tickAdd t (2 ^ k)) ∧
  (match from_.cur.metAction with
    | .next => r.seq.stage = from_.cur.metTarget ∧ r.seq.stack = from_.stack ∧ r.seq.stackLost = from_.stackLost ∧
        r.seq.stackEmpty = from_.stackEmpty
    | .enter => r.seq.stage = from_.cur.metTarget ∧ r.seq.stack = (from_.cur.resume :: from_.stack).take 3 ∧
        (r.seq.stackLost = true ↔ (from_.stackLost = true ∨ 3 ≤ from_.stack.length)) ∧ r.seq.stackEmpty = from_.stackEmpty
    | .ret => r.seq.stackLost = from_.stackLost ∧
        (∀ n rest, from_.stack = n :: rest → r.seq.stage = n ∧ r.seq.stack = rest ∧ r.seq.stackEmpty = from_.stackEmpty) ∧
        (from_.stack = [] → r.seq.stage = 0 ∧ r.seq.stack = [] ∧ r.seq.stackEmpty = true)
    | .fire => r.seq.stage = from_.stage ∧ r.seq.stack = from_.stack ∧ r.seq.stackLost = from_.stackLost ∧
        r.seq.stackEmpty = from_.stackEmpty
    | .restart => r.seq.stage = 0 ∧ r.seq.stack = [] ∧ r.seq.stackLost = from_.stackLost ∧ r.seq.stackEmpty = from_.stackEmpty)

/-- One interval of a capture run (R94, R95, R96, R99). The condition combines its terms by ALL or ANY; an occurrence is an interval in which it holds and either did not hold before or an event
term holds, and each adds one to the count. Until the count is the stage's the stage stands; at the count it takes its met path, or before the window minimum its early path: mark and
action, no stimulus (R101). In the part, a SAMPLE INTERVAL with no event waiting and no lane attached leaves the sequencer as that step does when it gives nothing out; a FIRE triggers the
serving take: MARK FIRE, POSTTRIG, DONE at the stage that fired (R73, R100). -/
def Obligations.SequencerMeetsStage : Prop :=
  (∀ (q : Sequencer) (k : Nat) (t : Tick) (levels known : Chans), q.ahead k t = false →
    (let x : SeqInput := ⟨levels, known, q.prevLevels, q.prevKnown, q.events⟩
     let holds := if q.cur.anyOf then ∃ a ∈ q.cur.terms, Term.holds x a = true else ∀ a ∈ q.cur.terms, Term.holds x a = true
     let occurs := holds ∧ (q.heldBefore = false ∨ ∃ a ∈ q.cur.terms, a.isEvent = true ∧ Term.holds x a = true)
     let early := q.cur.winMin ≠ 0 ∧ ticksFrom q.startTime t < q.cur.winMin
     let r := q.evaluate k false t levels known
     (r.seq.prevLevels = levels ∧ r.seq.prevKnown = known ∧ r.seq.inGap = false ∧ r.seq.state = q.state ∧ r.seq.stages = q.stages) ∧
     (¬ occurs ∨ q.count + 1 ≠ q.cur.count →
       r.outs = [] ∧ r.seq.stage = q.stage ∧ (r.seq.heldBefore = true ↔ holds) ∧ (occurs → r.seq.count = q.count + 1) ∧
       (¬ occurs → r.seq.count = q.count) ∧ r.seq.startTime = q.startTime ∧ r.seq.firstPending = false ∧ r.seq.stack = q.stack ∧
       r.seq.stackLost = q.stackLost ∧ r.seq.stackEmpty = q.stackEmpty) ∧
     (occurs → q.count + 1 = q.cur.count → ¬ early → takesMetPath q k t r) ∧
     (occurs → q.count + 1 = q.cur.count → early →
       (∀ a ∈ r.outs, a = .markStage q.stage ∨ a = .fire q.stage) ∧ (SeqOut.markStage q.stage ∈ r.outs ↔ q.cur.mark = true) ∧
       (SeqOut.fire q.stage ∈ r.outs ↔ q.cur.earlyAction = .fire) ∧
       (q.cur.earlyAction = .next → r.seq.stage = q.cur.earlyTarget ∧ r.seq.stack = q.stack ∧ r.seq.startTime = tickAdd t (2 ^ k)) ∧
       (q.cur.earlyAction = .restart → r.seq.stage = 0 ∧ r.seq.stack = [] ∧ r.seq.startTime = tickAdd t (2 ^ k))))) ∧
  (∀ (s : State) (levels : Chans) (i : Nat), s.ready → s.quiet → s.sampler.state = .sampling → s.captureRuns = true →
    s.capIndex = some i → s.takeIndex s.seq.servingTake = some i → (s.takeAt i).state = .pretrig → (s.takeAt i).endReason = none →
    (s.takeAt i).mode = .sequence → (∀ k : Fin 4, (s.lanes.get k).state ≠ .attached) → s.seq.ahead s.sampler.intervalExp s.intervalTime = false →
    s.seq.maxDue s.sampler.intervalExp (intervalBefore s.sampler.intervalExp s.intervalTime) = false →
    s.staging.overflow = false → s.staging.fill + 8 ≤ 4096 →
    (let r := s.seq.evaluate s.sampler.intervalExp false s.intervalTime (s.presented levels) (~~~s.unknownNow)
     (r.outs = [] → ∃ t, exec (.sampleInterval levels) s = .next t ∧ t.seq = r.seq ∧ (t.takeAt i).state = .pretrig ∧
       ((t.takeAt i).stackLost = true ↔ ((s.takeAt i).stackLost = true ∨ r.seq.stackLost = true)) ∧
       ((t.takeAt i).stackEmpty = true ↔ ((s.takeAt i).stackEmpty = true ∨ r.seq.stackEmpty = true)) ∧
       t.gens = s.gens ∧ t.pods = s.pods ∧ t.lanes = s.lanes ∧ bytesKept s t storesNothing) ∧
     (r.outs = [.fire s.seq.stage] → ∃ t, exec (.sampleInterval levels) s = .next t ∧ t.seq.state = .done ∧ t.seq.stage = r.seq.stage ∧
       (t.takeAt i).state = .posttrig ∧ (t.takeAt i).trigger = some ⟨s.intervalTime, .sequence, none, false⟩ ∧
       (∃ x ∈ t.staging.records, x.record.body = .mark s.seq.stage false ∧ x.time = s.intervalTime) ∧
       t.alerts.causes.getLsbD Cause.take.index = true ∧ t.gens = s.gens ∧ t.pods = s.pods ∧ t.lanes = s.lanes ∧
       bytesKept s t storesNothing)))
end

