-- ==== Sys2Proof/Laws/Memory.lean ====
section
/-! SUPPORT. Laws/Memory.lean: shared memory: what a byte reads after a store, that every store keeps the canonical form, and reading back what was stored. -/

set_option Elab.async false

namespace Sys2Proof.Machine

/-! ## One byte -/

/-- Below every listed address a byte reads 0. -/
theorem Mem.get_below (m : Mem) (lo a : Nat) (h : m.wfFrom (some lo) = true) (ha : a ≤ lo) : m.get a = 0 := by
  cases m with
  | nil => rfl
  | cons e rest =>
    obtain ⟨x, y⟩ := e
    simp only [Mem.wfFrom, Bool.and_eq_true, decide_eq_true_eq] at h
    have h1 : a ≠ x := by omega
    have h2 : a < x := by omega
    simp [Mem.get, h1, h2]

/-- A canonical memory over a lower bound is canonical over any lower one. -/
theorem Mem.wfFrom_mono (m : Mem) (lo lo' : Nat) (h : m.wfFrom (some lo) = true) (hl : lo' ≤ lo) : m.wfFrom (some lo') = true := by
  cases m with
  | nil => rfl
  | cons e rest =>
    obtain ⟨x, y⟩ := e
    simp only [Mem.wfFrom, Bool.and_eq_true, decide_eq_true_eq] at h ⊢
    exact ⟨⟨by omega, h.1.2⟩, h.2⟩

/-- A memory that is canonical over a bound is canonical. -/
theorem Mem.wf_of_wfFrom (m : Mem) (lo : Option Nat) (h : m.wfFrom lo = true) : m.wf = true := by
  cases m with
  | nil => rfl
  | cons e rest =>
    obtain ⟨x, y⟩ := e
    simp only [Mem.wf, Mem.wfFrom, Bool.and_eq_true, decide_eq_true_eq] at h ⊢
    exact ⟨⟨trivial, h.1.2⟩, h.2⟩

/-- A byte stored above the bound keeps the canonical form over the bound. -/
theorem Mem.put_wfFrom (m : Mem) (lo : Option Nat) (a : Nat) (b : Byte) (h : m.wfFrom lo = true) (ha : ∀ l, lo = some l → l < a) :
    (m.put a b).wfFrom lo = true := by
  induction m generalizing lo with
  | nil =>
    by_cases hb : b = 0
    · simp [Mem.put, hb, Mem.wfFrom]
    · cases lo <;> simp_all [Mem.put, Mem.wfFrom]
  | cons e rest ih =>
    obtain ⟨x, y⟩ := e
    have h0 := h
    simp only [Mem.wfFrom, Bool.and_eq_true, decide_eq_true_eq] at h
    unfold Mem.put
    by_cases h1 : a < x
    · simp only [h1, ↓reduceIte]
      by_cases hb : b = 0
      · simpa [hb] using h0
      · simp only [hb, ↓reduceIte, Mem.wfFrom, Bool.and_eq_true, decide_eq_true_eq]
        exact ⟨⟨by cases lo <;> simp_all, hb⟩, ⟨h1, h.1.2⟩, h.2⟩
    · simp only [h1, ↓reduceIte]
      by_cases h2 : a = x
      · subst h2
        simp only [↓reduceIte]
        by_cases hb : b = 0
        · simp only [hb, ↓reduceIte]
          cases lo with
          | none => exact Mem.wf_of_wfFrom _ _ h.2
          | some l => exact Mem.wfFrom_mono _ _ _ h.2 (Nat.le_of_lt (ha l rfl))
        · simp only [hb, ↓reduceIte, Mem.wfFrom, Bool.and_eq_true, decide_eq_true_eq]
          exact ⟨⟨h.1.1, hb⟩, h.2⟩
      · simp only [h2, ↓reduceIte, Mem.wfFrom, Bool.and_eq_true, decide_eq_true_eq]
        refine ⟨⟨h.1.1, h.1.2⟩, ih (some x) h.2 ?_⟩
        intro l hl
        cases hl
        omega

/-- Storing a byte keeps the canonical form. -/
@[simp] theorem Mem.put_wf (m : Mem) (a : Nat) (b : Byte) (h : m.wf = true) : (m.put a b).wf = true :=
  Mem.put_wfFrom m none a b h (fun _ hl => by cases hl)

/-- What a byte reads after a store: the byte stored at its address, every other as before. -/
theorem Mem.get_put_from (m : Mem) (lo : Option Nat) (a c : Nat) (b : Byte) (h : m.wfFrom lo = true) :
    (m.put a b).get c = if c = a then b else m.get c := by
  induction m generalizing lo with
  | nil =>
    by_cases hb : b = 0 <;> by_cases hc : c = a <;> simp_all [Mem.put, Mem.get]
  | cons e rest ih =>
    obtain ⟨x, y⟩ := e
    simp only [Mem.wfFrom, Bool.and_eq_true, decide_eq_true_eq] at h
    by_cases h1 : a < x
    · by_cases hb : b = 0
      · rw [show Mem.put ((x, y) :: rest) a b = (x, y) :: rest by simp [Mem.put, h1, hb]]
        by_cases hc : c = a
        · have e1 : ¬ c = x := by omega
          have e2 : c < x := by omega
          rw [if_pos hc, hb]
          simp [Mem.get, e1, e2]
        · rw [if_neg hc]
      · rw [show Mem.put ((x, y) :: rest) a b = (a, b) :: (x, y) :: rest by simp only [Mem.put, h1, hb, ↓reduceIte]]
        by_cases hc : c = a
        · simp [hc, Mem.get]
        · rw [if_neg hc]
          by_cases hlt : c < a
          · have e1 : ¬ c = x := by omega
            have e2 : c < x := by omega
            simp [Mem.get, hlt, hc, e1, e2]
          · simp [Mem.get, hlt, hc]
    · by_cases h2 : a = x
      · subst h2
        by_cases hb : b = 0
        · rw [show Mem.put ((a, y) :: rest) a b = rest by simp [Mem.put, hb]]
          by_cases hc : c = a
          · rw [if_pos hc, hc, hb]
            exact Mem.get_below _ a a h.2 (Nat.le_refl a)
          · rw [if_neg hc]
            by_cases hlt : c < a
            · simp only [Mem.get, hc, hlt, ↓reduceIte]
              exact Mem.get_below _ a c h.2 (Nat.le_of_lt hlt)
            · simp [Mem.get, hc, hlt]
        · rw [show Mem.put ((a, y) :: rest) a b = (a, b) :: rest by simp only [Mem.put, hb, Nat.lt_irrefl, ↓reduceIte]]
          by_cases hc : c = a
          · simp [Mem.get, hc]
          · simp [Mem.get, hc]
      · rw [show Mem.put ((x, y) :: rest) a b = (x, y) :: Mem.put rest a b by simp [Mem.put, h1, h2]]
        simp only [Mem.get]
        rw [ih (some x) h.2]
        by_cases hc : c = a
        · simp [hc, h1, h2]
        · simp [hc]

/-- What a byte reads after a store into a canonical memory. -/
theorem Mem.get_put (m : Mem) (a c : Nat) (b : Byte) (h : m.wf = true) : (m.put a b).get c = if c = a then b else m.get c :=
  Mem.get_put_from m none a c b h

/-! ## Runs of bytes -/

/-- Storing bytes keeps the canonical form. -/
@[simp] theorem Mem.putBytes_wf (m : Mem) (a : Nat) (bs : List Byte) (h : m.wf = true) : (m.putBytes a bs).wf = true := by
  induction bs generalizing m a with
  | nil => exact h
  | cons b rest ih => exact ih _ _ (Mem.put_wf _ _ _ h)

/-- Storing a unit keeps the canonical form. -/
@[simp] theorem Mem.putUnit_wf (m : Mem) (a : Nat) (u : Word64) (h : m.wf = true) : (m.putUnit a u).wf = true :=
  Mem.putBytes_wf m a _ h

/-- Storing units keeps the canonical form. -/
@[simp] theorem Mem.putUnits_wf (m : Mem) (a : Nat) (us : List Word64) (h : m.wf = true) : (m.putUnits a us).wf = true := by
  induction us generalizing m a with
  | nil => exact h
  | cons u rest ih => exact ih _ _ (Mem.putUnit_wf _ _ _ h)

/-- The host's stores keep the canonical form. -/
@[simp] theorem Mem.hostStores_wf (m : Mem) (sts : List HostStore) (h : m.wf = true) : (m.hostStores sts).wf = true := by
  induction sts generalizing m with
  | nil => exact h
  | cons st rest ih => exact ih _ (Mem.putUnit_wf _ _ _ h)

/-- Of the bytes from `a` on, the first is `a`, and the others are the bytes from `a + 1` on. -/
theorem inBytes_succ (a n c : Nat) (hc : c < 2 ^ 64) (h : c = wrapAddr a ∨ inBytes (a + 1) n c) : inBytes a (n + 1) c := by
  unfold inBytes wrapAddr at *
  omega

/-- A byte outside a run of bytes stored reads as before. -/
theorem Mem.get_putBytes_out (m : Mem) (a c : Nat) (bs : List Byte) (h : m.wf = true) (hc : c < 2 ^ 64) (ho : ¬ inBytes a bs.length c) :
    (m.putBytes a bs).get c = m.get c := by
  induction bs generalizing m a with
  | nil => rfl
  | cons b rest ih =>
    have h1 : ¬ c = wrapAddr a := fun e => ho (inBytes_succ a rest.length c hc (Or.inl e))
    have h2 : ¬ inBytes (a + 1) rest.length c := fun e => ho (inBytes_succ a rest.length c hc (Or.inr e))
    rw [show m.putBytes a (b :: rest) = (m.put (wrapAddr a) b).putBytes (a + 1) rest from rfl,
      ih _ _ (Mem.put_wf _ _ _ h) h2, Mem.get_put _ _ _ _ h, if_neg h1]

/-- A byte outside a stored unit reads as before. -/
theorem Mem.get_putUnit_out (m : Mem) (a c : Nat) (u : Word64) (h : m.wf = true) (hc : c < 2 ^ 64) (ho : ¬ inBytes a 8 c) :
    (m.putUnit a u).get c = m.get c :=
  Mem.get_putBytes_out m a c (unitBytes u) h hc ho

/-- The bytes of a run lie in a longer run. -/
theorem inBytes_unit (a n c : Nat) (hc : c < 2 ^ 64) (h : inBytes a 8 c ∨ inBytes (a + 8) (8 * n) c) : inBytes a (8 * (n + 1)) c := by
  unfold inBytes at *
  omega

/-- A byte outside stored units reads as before. -/
theorem Mem.get_putUnits_out (m : Mem) (a c : Nat) (us : List Word64) (h : m.wf = true) (hc : c < 2 ^ 64) (ho : ¬ inBytes a (8 * us.length) c) :
    (m.putUnits a us).get c = m.get c := by
  induction us generalizing m a with
  | nil => rfl
  | cons u rest ih =>
    have h1 : ¬ inBytes a 8 c := fun e => ho (inBytes_unit a rest.length c hc (Or.inl e))
    have h2 : ¬ inBytes (a + 8) (8 * rest.length) c := fun e => ho (inBytes_unit a rest.length c hc (Or.inr e))
    rw [show m.putUnits a (u :: rest) = (m.putUnit a u).putUnits (a + 8) rest from rfl,
      ih _ _ (Mem.putUnit_wf _ _ _ h) h2, Mem.get_putUnit_out _ _ _ _ h hc h1]

/-! ## Reading back -/

/-- A number read depends on its bytes alone. -/
theorem Mem.getNat_congr (m m' : Mem) (a n : Nat) (h : ∀ i, i < n → m.get (wrapAddr (a + i)) = m'.get (wrapAddr (a + i))) :
    m.getNat a n = m'.getNat a n := by
  induction n generalizing a with
  | zero => rfl
  | succ n ih =>
    have h0 := h 0 (Nat.succ_pos n)
    rw [Nat.add_zero] at h0
    have h1 := ih (a + 1) (fun i hi => by have := h (i + 1) (by omega); rwa [show a + (i + 1) = a + 1 + i by omega] at this)
    simp only [Mem.getNat, h0, h1]

/-- What one byte of a stored run reads. -/
theorem Mem.get_putBytes_at (m : Mem) (a i : Nat) (bs : List Byte) (h : m.wf = true) (hn : bs.length ≤ 2 ^ 64) (hi : i < bs.length) :
    (m.putBytes a bs).get (wrapAddr (a + i)) = bs.getD i 0 := by
  induction bs generalizing m a i with
  | nil => simp at hi
  | cons b rest ih =>
    simp only [List.length_cons] at hn hi
    rw [show m.putBytes a (b :: rest) = (m.put (wrapAddr a) b).putBytes (a + 1) rest from rfl]
    cases i with
    | zero =>
      rw [Mem.get_putBytes_out _ _ _ _ (Mem.put_wf _ _ _ h) (by unfold wrapAddr; omega) (by unfold inBytes wrapAddr; omega),
        Mem.get_put _ _ _ _ h]
      simp
    | succ i =>
      rw [show a + (i + 1) = a + 1 + i by omega, ih _ _ _ (Mem.put_wf _ _ _ h) (by omega) (by omega)]
      simp

/-- A stored unit reads back. -/
theorem Mem.getUnit_putUnit (m : Mem) (a : Nat) (u : Word64) (h : m.wf = true) : (m.putUnit a u).getUnit a = u := by
  have hb : ∀ i, i < 8 → (m.putUnit a u).get (wrapAddr (a + i)) = (unitBytes u).getD i 0 := fun i hi =>
    Mem.get_putBytes_at m a i (unitBytes u) h (by simp [unitBytes]) (by simpa [unitBytes] using hi)
  have e0 := hb 0 (by omega)
  have e1 := hb 1 (by omega)
  have e2 := hb 2 (by omega)
  have e3 := hb 3 (by omega)
  have e4 := hb 4 (by omega)
  have e5 := hb 5 (by omega)
  have e6 := hb 6 (by omega)
  have e7 := hb 7 (by omega)
  apply BitVec.eq_of_toNat_eq
  have hu := u.isLt
  simp only [Mem.getUnit, Mem.getNat, BitVec.toNat_ofNat, Nat.add_assoc, Nat.reduceAdd] at *
  simp only [Nat.add_zero] at e0
  simp only [e0, e1, e2, e3, e4, e5, e6, e7, unitBytes, List.getD_cons_zero, List.getD_cons_succ, byteOf, BitVec.toNat_ofNat]
  omega

/-- A unit read apart from a run of bytes stored reads as before. -/
theorem Mem.getUnit_putUnit_out (m : Mem) (a c : Nat) (u : Word64) (h : m.wf = true) (hc : ∀ i, i < 8 → ¬ inBytes a 8 (wrapAddr (c + i))) :
    (m.putUnit a u).getUnit c = m.getUnit c := by
  unfold Mem.getUnit
  rw [Mem.getNat_congr _ m c 8 (fun i hi => Mem.get_putUnit_out m a _ u h (by unfold wrapAddr; omega) (hc i hi))]

end Sys2Proof.Machine
end

