-- ==== Sys2Proof/Laws/Keeps.lean ====
section
/-! SUPPORT. Laws/Keeps.lean: what every operation of the part leaves alone or keeps, said once for each: the queue and the tick, the canonical form of shared
memory, the partition of the blocks, the sizes of the tables, and that no failure comes into store. -/

set_option Elab.async false
set_option linter.unreachableTactic false
set_option linter.unusedTactic false
set_option linter.unusedSimpArgs false

namespace Sys2Proof.Machine

/-- `s` comes from `b` by an operation of the part: the queue and the tick stand, and what has to hold of every state is kept. -/
structure Keeps (b s : State) : Prop where
  pending : s.pending = b.pending
  tick : s.tick = b.tick
  wraps : s.wraps = b.wraps
  shared : b.shared.wf = true → s.shared.wf = true
  pool : b.pool.partitioned → s.pool.partitioned
  takes : s.takes.entries.length = b.takes.entries.length
  slots : s.slots.length = b.slots.length
  channels : s.monitor.channels.length = b.monitor.channels.length
  image : b.report.image.length = 64 → s.report.image.length = 64
  plan : b.failPlan = [] → s.failPlan = []

/-- Nothing done keeps everything. -/
theorem Keeps.refl (s : State) : Keeps s s := ⟨rfl, rfl, rfl, id, id, rfl, rfl, rfl, id, id⟩

/-- One operation after another. -/
theorem Keeps.trans {a b c : State} (h : Keeps a b) (g : Keeps b c) : Keeps a c :=
  ⟨g.pending.trans h.pending, g.tick.trans h.tick, g.wraps.trans h.wraps, fun x => g.shared (h.shared x), fun x => g.pool (h.pool x), g.takes.trans h.takes,
    g.slots.trans h.slots, g.channels.trans h.channels, fun x => g.image (h.image x), fun x => g.plan (h.plan x)⟩

/-- A state that differs from `s` in fields of which nothing is said. -/
theorem Keeps.upd {b s t : State} (h : Keeps b s) (e1 : t.pending = s.pending) (e2 : t.tick = s.tick) (e2' : t.wraps = s.wraps)
    (e3 : s.shared.wf = true → t.shared.wf = true)
    (e4 : s.pool.partitioned → t.pool.partitioned) (e5 : t.takes.entries.length = s.takes.entries.length) (e6 : t.slots.length = s.slots.length)
    (e7 : t.monitor.channels.length = s.monitor.channels.length) (e8 : t.report.image.length = s.report.image.length)
    (e9 : s.failPlan = [] → t.failPlan = []) : Keeps b t :=
  h.trans ⟨e1, e2, e2', e3, e4, e5, e6, e7, e8.trans, e9⟩

/-- A fold of an operation. -/
theorem keeps_foldl {α : Type} (f : State → α → State) (hf : ∀ b s x, Keeps b s → Keeps b (f s x)) (l : List α) (b s : State) (h : Keeps b s) :
    Keeps b (l.foldl f s) := by
  induction l generalizing s with
  | nil => exact h
  | cons x rest ih => exact ih _ (hf b s x h)

@[simp] theorem putAt_length {α : Type} (l : List α) (i : Nat) (x : α) : (putAt l i x).length = l.length := by
  induction l generalizing i with
  | nil => rfl
  | cons y rest ih => cases i <;> simp [putAt, ih]

/-- Replacing an entry moves no block. -/
@[simp] theorem Pool.setBlock_owned (p : Pool) (i : Nat) (x : Block) : (p.setBlock i x).owned = p.owned := by
  simp only [Pool.owned, Pool.setBlock, List.map_map]
  apply List.map_congr_left
  intro e _
  by_cases he : e.1 = i <;> simp [he]

@[simp] theorem Pool.setBlock_partitioned (p : Pool) (i : Nat) (x : Block) (h : p.partitioned) : (p.setBlock i x).partitioned := by
  unfold Pool.partitioned at *
  rwa [Pool.setBlock_owned]

theorem keeps_ite {s₀ : State} {c : Prop} [Decidable c] {x y : State} (hx : Keeps s₀ x) (hy : Keeps s₀ y) : Keeps s₀ (if c then x else y) := by
  split <;> assumption

/-- A record update of `s` in fields of which nothing is said. -/
theorem keeps_mk {s₀ s : State} {dp al rp pods mo ge c0 c1 sp st wr po tk sq ln sl rl ex rn pn sh fp} (h : Keeps s₀ s)
    (e3 : s.shared.wf = true → Mem.wf sh = true) (e4 : s.pool.partitioned → po.partitioned) (e5 : tk.entries.length = s.takes.entries.length)
    (e6 : sl.length = s.slots.length) (e7 : mo.channels.length = s.monitor.channels.length) (e8 : rp.image.length = s.report.image.length)
    (e9 : s.failPlan = [] → fp = []) :
    Keeps s₀ (State.mk s.tick s.wraps dp al rp pods mo ge c0 c1 sp st wr po tk sq ln sl rl ex rn pn sh fp s.pending) :=
  h.trans ⟨rfl, rfl, rfl, e3, e4, e5, e6, e7, e8.trans, e9⟩

/-! ## Machine/Ops.lean -/

/-- Handing units over touches no image. -/
theorem Report.handing_image (r : Report) (us : List Nat) : (r.handing us).image.length = r.image.length := rfl

/-- Handing the lost records over touches no image. -/
theorem Report.handLost_image (r : Report) (lost : Nat) : (r.handLost lost).image.length = r.image.length := rfl

/-- Handing the fill over touches no image. -/
theorem Report.handFill_image (r : Report) (before fill : Nat) : (r.handFill before fill).image.length = r.image.length := by
  unfold Report.handFill
  split <;> rfl

/-- Handing units over to the page. -/
theorem hands_keeps {s₀ : State} (s : State) (us : List Nat) (hk : Keeps s₀ s) : Keeps s₀ (s.hands us) :=
  hk.upd rfl rfl rfl id id rfl rfl rfl rfl id

theorem hostStores_keeps {s₀ : State} (s : State) (stores : List HostStore) (hk : Keeps s₀ s) : Keeps s₀ (s.hostStores stores) :=
  hk.upd rfl rfl rfl (Mem.hostStores_wf s.shared stores) id rfl rfl rfl rfl id

theorem accessed_keeps {s₀ : State} (s : State) (a : LinkAccess) (hk : Keeps s₀ s) : Keeps s₀ (State.accessed s a) := by
  unfold State.accessed
  try dsimp only
  repeat' first
    | with_reducible exact hk | with_reducible assumption | with_reducible apply keeps_ite
    | (with_reducible refine keeps_foldl _ ?_ _ _ _ ?_; intro _ _ _ _; beta_reduce) | with_reducible exact id | with_reducible rfl
    | (simp only [putAt_length, List.length_map]; done) | (intro hw; simp [hw, takeAccess]; done) | (intro hw; exact hw) | split
    | with_reducible apply keeps_mk
    | dsimp only

theorem raise_keeps {s₀ : State} (s : State) (c : Cause) (hk : Keeps s₀ s) : Keeps s₀ (s.raise c) :=
  hk.upd rfl rfl rfl id id rfl rfl rfl rfl id

theorem raiseIf_keeps {s₀ : State} (s : State) (b : Bool) (c : Cause) (hk : Keeps s₀ s) : Keeps s₀ (State.raiseIf s b c) := by
  unfold State.raiseIf
  try dsimp only
  repeat' first
    | with_reducible exact hk | with_reducible assumption | with_reducible apply keeps_ite
    | (with_reducible refine keeps_foldl _ ?_ _ _ _ ?_; intro _ _ _ _; beta_reduce) | with_reducible exact id | with_reducible rfl
    | (simp only [putAt_length, List.length_map]; done) | (intro hw; simp [hw, takeAccess]; done) | (intro hw; exact hw) | split
    | with_reducible apply keeps_mk
    | dsimp only

theorem linkHalt_keeps {s₀ : State} (s : State) (hk : Keeps s₀ s) : Keeps s₀ (State.linkHalt s) := by
  unfold State.linkHalt
  try dsimp only
  repeat' first
    | with_reducible exact hk | with_reducible assumption | with_reducible apply raise_keeps | with_reducible apply keeps_ite
    | (with_reducible refine keeps_foldl _ ?_ _ _ _ ?_; intro _ _ _ _; beta_reduce) | with_reducible exact id | with_reducible rfl
    | (simp only [putAt_length, List.length_map]; done) | (intro hw; simp [hw, takeAccess]; done) | (intro hw; exact hw) | split
    | with_reducible apply keeps_mk
    | dsimp only

theorem completeAs_keeps {s₀ : State} (s : State) (o : OrderRef) (kind : OrderKind) (oc : Outcome) (r : List Word64) (retire : Bool)
    (hk : Keeps s₀ s) : Keeps s₀ (s.completeAs o kind oc r retire) := by
  refine hk.upd rfl rfl rfl ?_ id rfl rfl rfl rfl ?_
  · intro hw
    unfold State.completeAs
    dsimp only
    split <;> split <;> simp [*]
  · intro hp
    unfold State.completeAs State.planAfterResult
    dsimp only
    split <;> simp [hp, takeAccess]

theorem complete_keeps {s₀ : State} (s : State) (o : OrderRef) (kind : OrderKind) (outcome : Outcome) (result : List Word64)
    (hk : Keeps s₀ s) : Keeps s₀ (State.complete s o kind outcome result) := by
  unfold State.complete
  try dsimp only
  repeat' first
    | with_reducible exact hk | with_reducible assumption | with_reducible apply completeAs_keeps | with_reducible apply keeps_ite
    | (with_reducible refine keeps_foldl _ ?_ _ _ _ ?_; intro _ _ _ _; beta_reduce) | with_reducible exact id | with_reducible rfl
    | (simp only [putAt_length, List.length_map]; done) | (intro hw; simp [hw, takeAccess]; done) | (intro hw; exact hw) | split
    | with_reducible apply keeps_mk
    | dsimp only

theorem refuse_keeps {s₀ : State} (s : State) (outcome : Outcome) (hk : Keeps s₀ s) : Keeps s₀ (refuse s outcome).state := by
  unfold refuse
  try dsimp only
  repeat' first
    | with_reducible exact hk | with_reducible assumption | with_reducible apply keeps_ite
    | (with_reducible refine keeps_foldl _ ?_ _ _ _ ?_; intro _ _ _ _; beta_reduce) | with_reducible exact id | with_reducible rfl
    | (simp only [putAt_length, List.length_map]; done) | (intro hw; simp [hw, takeAccess]; done) | (intro hw; exact hw) | split
    | with_reducible apply keeps_mk
    | dsimp only

theorem accept_keeps {s₀ : State} (s : State) (hk : Keeps s₀ s) : Keeps s₀ (accept s).state := by
  unfold accept
  try dsimp only
  repeat' first
    | with_reducible exact hk | with_reducible assumption | with_reducible apply keeps_ite
    | (with_reducible refine keeps_foldl _ ?_ _ _ _ ?_; intro _ _ _ _; beta_reduce) | with_reducible exact id | with_reducible rfl
    | (simp only [putAt_length, List.length_map]; done) | (intro hw; simp [hw, takeAccess]; done) | (intro hw; exact hw) | split
    | with_reducible apply keeps_mk
    | dsimp only

theorem inFlight_keeps {s₀ : State} (s : State) (hk : Keeps s₀ s) : Keeps s₀ (inFlight s).state := by
  unfold inFlight
  try dsimp only
  repeat' first
    | with_reducible exact hk | with_reducible assumption | with_reducible apply keeps_ite
    | (with_reducible refine keeps_foldl _ ?_ _ _ _ ?_; intro _ _ _ _; beta_reduce) | with_reducible exact id | with_reducible rfl
    | (simp only [putAt_length, List.length_map]; done) | (intro hw; simp [hw, takeAccess]; done) | (intro hw; exact hw) | split
    | with_reducible apply keeps_mk
    | dsimp only

theorem Reply_finish_keeps {s₀ : State} (r : Reply) (o : OrderRef) (kind : OrderKind) (hk : Keeps s₀ r.state) : Keeps s₀ (Reply.finish r o kind) := by
  unfold Reply.finish
  try dsimp only
  repeat' first
    | with_reducible exact hk | with_reducible assumption | with_reducible apply complete_keeps | with_reducible apply keeps_ite
    | (with_reducible refine keeps_foldl _ ?_ _ _ _ ?_; intro _ _ _ _; beta_reduce) | with_reducible exact id | with_reducible rfl
    | (simp only [putAt_length, List.length_map]; done) | (intro hw; simp [hw, takeAccess]; done) | (intro hw; exact hw) | split
    | with_reducible apply keeps_mk
    | dsimp only

theorem setTake_keeps {s₀ : State} (s : State) (i : Nat) (t : Take) (hk : Keeps s₀ s) : Keeps s₀ (State.setTake s i t) := by
  unfold State.setTake
  try dsimp only
  repeat' first
    | with_reducible exact hk | with_reducible assumption | with_reducible apply keeps_ite
    | (with_reducible refine keeps_foldl _ ?_ _ _ _ ?_; intro _ _ _ _; beta_reduce) | with_reducible exact id | with_reducible rfl
    | (simp only [putAt_length, List.length_map]; done) | (intro hw; simp [hw, takeAccess]; done) | (intro hw; exact hw) | split
    | with_reducible apply keeps_mk
    | dsimp only

/-! ## Machine/Generators.lean -/

theorem unitApply_keeps {s₀ : State} (s : State) (u : Fin 4) (hk : Keeps s₀ s) : Keeps s₀ (State.unitApply s u) := by
  unfold State.unitApply
  try dsimp only
  repeat' first
    | with_reducible exact hk | with_reducible assumption | with_reducible apply keeps_ite
    | (with_reducible refine keeps_foldl _ ?_ _ _ _ ?_; intro _ _ _ _; beta_reduce) | with_reducible exact id | with_reducible rfl
    | (simp only [putAt_length, List.length_map]; done) | (intro hw; simp [hw, takeAccess]; done) | (intro hw; exact hw) | split
    | with_reducible apply keeps_mk
    | dsimp only

theorem setUnit_keeps {s₀ : State} (s : State) (u : Fin 4) (g : Gen) (hk : Keeps s₀ s) : Keeps s₀ (State.setUnit s u g) := by
  unfold State.setUnit
  try dsimp only
  repeat' first
    | with_reducible exact hk | with_reducible assumption | with_reducible apply keeps_ite
    | (with_reducible refine keeps_foldl _ ?_ _ _ _ ?_; intro _ _ _ _; beta_reduce) | with_reducible exact id | with_reducible rfl
    | (simp only [putAt_length, List.length_map]; done) | (intro hw; simp [hw, takeAccess]; done) | (intro hw; exact hw) | split
    | with_reducible apply keeps_mk
    | dsimp only

theorem beginPhase_keeps {s₀ : State} (s : State) (u : Fin 4) (hk : Keeps s₀ s) : Keeps s₀ (State.beginPhase s u) := by
  unfold State.beginPhase
  try dsimp only
  repeat' first
    | with_reducible exact hk | with_reducible assumption | with_reducible apply setUnit_keeps | with_reducible apply keeps_ite
    | (with_reducible refine keeps_foldl _ ?_ _ _ _ ?_; intro _ _ _ _; beta_reduce) | with_reducible exact id | with_reducible rfl
    | (simp only [putAt_length, List.length_map]; done) | (intro hw; simp [hw, takeAccess]; done) | (intro hw; exact hw) | split
    | with_reducible apply keeps_mk
    | dsimp only

theorem startUnit_keeps {s₀ : State} (s : State) (u : Fin 4) (hk : Keeps s₀ s) : Keeps s₀ (State.startUnit s u) := by
  unfold State.startUnit
  try dsimp only
  repeat' first
    | with_reducible exact hk | with_reducible assumption | with_reducible apply setUnit_keeps | with_reducible apply beginPhase_keeps
    | with_reducible apply keeps_ite | (with_reducible refine keeps_foldl _ ?_ _ _ _ ?_; intro _ _ _ _; beta_reduce) | with_reducible exact id
    | with_reducible rfl | (simp only [putAt_length, List.length_map]; done) | (intro hw; simp [hw, takeAccess]; done) | (intro hw; exact hw) | split
    | with_reducible apply keeps_mk
    | dsimp only

theorem stopUnit_keeps {s₀ : State} (s : State) (u : Fin 4) (hk : Keeps s₀ s) : Keeps s₀ (State.stopUnit s u) := by
  unfold State.stopUnit
  try dsimp only
  repeat' first
    | with_reducible exact hk | with_reducible assumption | with_reducible apply setUnit_keeps | with_reducible apply unitApply_keeps
    | with_reducible apply keeps_ite | (with_reducible refine keeps_foldl _ ?_ _ _ _ ?_; intro _ _ _ _; beta_reduce) | with_reducible exact id
    | with_reducible rfl | (simp only [putAt_length, List.length_map]; done) | (intro hw; simp [hw, takeAccess]; done) | (intro hw; exact hw) | split
    | with_reducible apply keeps_mk
    | dsimp only

theorem silenceUnit_keeps {s₀ : State} (s : State) (u : Fin 4) (hk : Keeps s₀ s) : Keeps s₀ (State.silenceUnit s u) := by
  unfold State.silenceUnit
  try dsimp only
  repeat' first
    | with_reducible exact hk | with_reducible assumption | with_reducible apply setUnit_keeps | with_reducible apply unitApply_keeps
    | with_reducible apply keeps_ite | (with_reducible refine keeps_foldl _ ?_ _ _ _ ?_; intro _ _ _ _; beta_reduce) | with_reducible exact id
    | with_reducible rfl | (simp only [putAt_length, List.length_map]; done) | (intro hw; simp [hw, takeAccess]; done) | (intro hw; exact hw) | split
    | with_reducible apply keeps_mk
    | dsimp only

theorem podOffStops_keeps {s₀ : State} (s : State) (p : Fin 4) (hk : Keeps s₀ s) : Keeps s₀ (State.podOffStops s p) := by
  unfold State.podOffStops
  try dsimp only
  repeat' first
    | with_reducible exact hk | with_reducible assumption | with_reducible apply stopUnit_keeps | with_reducible apply keeps_ite
    | (with_reducible refine keeps_foldl _ ?_ _ _ _ ?_; intro _ _ _ _; beta_reduce) | with_reducible exact id | with_reducible rfl
    | (simp only [putAt_length, List.length_map]; done) | (intro hw; simp [hw, takeAccess]; done) | (intro hw; exact hw) | split
    | with_reducible apply keeps_mk
    | dsimp only

theorem podSilences_keeps {s₀ : State} (s : State) (p : Fin 4) (hk : Keeps s₀ s) : Keeps s₀ (State.podSilences s p) := by
  unfold State.podSilences
  try dsimp only
  repeat' first
    | with_reducible exact hk | with_reducible assumption | with_reducible apply silenceUnit_keeps | with_reducible apply keeps_ite
    | (with_reducible refine keeps_foldl _ ?_ _ _ _ ?_; intro _ _ _ _; beta_reduce) | with_reducible exact id | with_reducible rfl
    | (simp only [putAt_length, List.length_map]; done) | (intro hw; simp [hw, takeAccess]; done) | (intro hw; exact hw) | split
    | with_reducible apply keeps_mk
    | dsimp only

theorem unitAdvance_keeps {s₀ : State} (s : State) (u : Fin 4) (hk : Keeps s₀ s) : Keeps s₀ (State.unitAdvance s u) := by
  unfold State.unitAdvance
  try dsimp only
  repeat' first
    | with_reducible exact hk | with_reducible assumption | with_reducible apply setUnit_keeps | with_reducible apply keeps_ite
    | (with_reducible refine keeps_foldl _ ?_ _ _ _ ?_; intro _ _ _ _; beta_reduce) | with_reducible exact id | with_reducible rfl
    | (simp only [putAt_length, List.length_map]; done) | (intro hw; simp [hw, takeAccess]; done) | (intro hw; exact hw) | split
    | with_reducible apply keeps_mk
    | dsimp only

theorem nextPeriod_keeps {s₀ : State} (s : State) (u : Fin 4) (at_ : Tick) (hk : Keeps s₀ s) : Keeps s₀ (State.nextPeriod s u at_) := by
  unfold State.nextPeriod
  try dsimp only
  repeat' first
    | with_reducible exact hk | with_reducible assumption | with_reducible apply setUnit_keeps | with_reducible apply keeps_ite
    | (with_reducible refine keeps_foldl _ ?_ _ _ _ ?_; intro _ _ _ _; beta_reduce) | with_reducible exact id | with_reducible rfl
    | (simp only [putAt_length, List.length_map]; done) | (intro hw; simp [hw, takeAccess]; done) | (intro hw; exact hw) | split
    | with_reducible apply keeps_mk
    | dsimp only

theorem unitPeriodEnd_keeps {s₀ : State} (s : State) (u : Fin 4) (hk : Keeps s₀ s) : Keeps s₀ (State.unitPeriodEnd s u) := by
  unfold State.unitPeriodEnd
  try dsimp only
  repeat' first
    | with_reducible exact hk | with_reducible assumption | with_reducible apply nextPeriod_keeps | with_reducible apply setUnit_keeps
    | with_reducible apply unitApply_keeps | with_reducible apply keeps_ite
    | (with_reducible refine keeps_foldl _ ?_ _ _ _ ?_; intro _ _ _ _; beta_reduce) | with_reducible exact id | with_reducible rfl
    | (simp only [putAt_length, List.length_map]; done) | (intro hw; simp [hw, takeAccess]; done) | (intro hw; exact hw) | split
    | with_reducible apply keeps_mk
    | dsimp only

theorem setChained_keeps {s₀ : State} (s : State) (g : Fin 4) (b : Bool) (hk : Keeps s₀ s) : Keeps s₀ (State.setChained s g b) := by
  unfold State.setChained
  try dsimp only
  repeat' first
    | with_reducible exact hk | with_reducible assumption | with_reducible apply keeps_ite
    | (with_reducible refine keeps_foldl _ ?_ _ _ _ ?_; intro _ _ _ _; beta_reduce) | with_reducible exact id | with_reducible rfl
    | (simp only [putAt_length, List.length_map]; done) | (intro hw; simp [hw, takeAccess]; done) | (intro hw; exact hw) | split
    | with_reducible apply keeps_mk
    | dsimp only

theorem writeSettings_keeps {s₀ : State} (s : State) (g : Fin 4) (a : GenSettings) (hk : Keeps s₀ s) : Keeps s₀ (State.writeSettings s g a) := by
  unfold State.writeSettings
  try dsimp only
  repeat' first
    | with_reducible exact hk | with_reducible assumption | with_reducible apply beginPhase_keeps | with_reducible apply keeps_ite
    | (with_reducible refine keeps_foldl _ ?_ _ _ _ ?_; intro _ _ _ _; beta_reduce) | with_reducible exact id | with_reducible rfl
    | (simp only [putAt_length, List.length_map]; done) | (intro hw; simp [hw, takeAccess]; done) | (intro hw; exact hw) | split
    | with_reducible apply keeps_mk
    | dsimp only

theorem setStimulusOrder_keeps {s₀ : State} (p : SetStimulusP) (s : State) (hk : Keeps s₀ s) : Keeps s₀ (setStimulusOrder p s).state := by
  unfold setStimulusOrder
  try dsimp only
  repeat' first
    | with_reducible exact hk | with_reducible assumption | with_reducible apply setChained_keeps | with_reducible apply refuse_keeps
    | with_reducible apply accept_keeps | with_reducible apply writeSettings_keeps | with_reducible apply keeps_ite
    | (with_reducible refine keeps_foldl _ ?_ _ _ _ ?_; intro _ _ _ _; beta_reduce) | with_reducible exact id | with_reducible rfl
    | (simp only [putAt_length, List.length_map]; done) | (intro hw; simp [hw, takeAccess]; done) | (intro hw; exact hw) | split
    | with_reducible apply keeps_mk
    | dsimp only

theorem stimulate_keeps {s₀ : State} (s : State) (g : Fin 4) (act : StimAction) (hk : Keeps s₀ s) : Keeps s₀ (State.stimulate s g act).1 := by
  unfold State.stimulate
  try dsimp only
  repeat' first
    | with_reducible exact hk | with_reducible assumption | with_reducible apply startUnit_keeps | with_reducible apply stopUnit_keeps
    | with_reducible apply unitApply_keeps | with_reducible apply keeps_ite
    | (with_reducible refine keeps_foldl _ ?_ _ _ _ ?_; intro _ _ _ _; beta_reduce) | with_reducible exact id | with_reducible rfl
    | (simp only [putAt_length, List.length_map]; done) | (intro hw; simp [hw, takeAccess]; done) | (intro hw; exact hw) | split
    | with_reducible apply keeps_mk
    | dsimp only

theorem runStimulusOrder_keeps {s₀ : State} (p : RunStimulusP) (s : State) (hk : Keeps s₀ s) : Keeps s₀ (runStimulusOrder p s).state := by
  unfold runStimulusOrder
  try dsimp only
  repeat' first
    | with_reducible exact hk | with_reducible assumption | with_reducible apply refuse_keeps | with_reducible apply stimulate_keeps
    | with_reducible apply keeps_ite | (with_reducible refine keeps_foldl _ ?_ _ _ _ ?_; intro _ _ _ _; beta_reduce) | with_reducible exact id
    | with_reducible rfl | (simp only [putAt_length, List.length_map]; done) | (intro hw; simp [hw, takeAccess]; done) | (intro hw; exact hw) | split
    | with_reducible apply keeps_mk
    | dsimp only

theorem stageStimulus_keeps {s₀ : State} (s : State) (a : Option (Bool × Fin 4)) (hk : Keeps s₀ s) : Keeps s₀ (State.stageStimulus s a) := by
  unfold State.stageStimulus
  try dsimp only
  repeat' first
    | with_reducible exact hk | with_reducible assumption | with_reducible apply stimulate_keeps | with_reducible apply keeps_ite
    | (with_reducible refine keeps_foldl _ ?_ _ _ _ ?_; intro _ _ _ _; beta_reduce) | with_reducible exact id | with_reducible rfl
    | (simp only [putAt_length, List.length_map]; done) | (intro hw; simp [hw, takeAccess]; done) | (intro hw; exact hw) | split
    | with_reducible apply keeps_mk
    | dsimp only

/-! ## Machine/Staging.lean -/

theorem offer_keeps {s₀ : State} (s : State) (i : Nat) (t0 : Tick) (b : RecBody) (hk : Keeps s₀ s) : Keeps s₀ (State.offer s i t0 b) := by
  unfold State.offer
  extract_lets t b ok lost f
  refine hk.upd rfl rfl rfl id id ?_ rfl rfl ?_ id
  · dsimp only
    split
    · rfl
    · exact putAt_length _ _ _
  · dsimp only
    split
    · exact Report.handFill_image _ _ _
    · split
      · exact Report.handLost_image _ _
      · rfl

theorem insert_keeps {s₀ : State} (s : State) (t : Tick) (b : RecBody) (hk : Keeps s₀ s) : Keeps s₀ (State.insert s t b) := by
  unfold State.insert
  try dsimp only
  repeat' first
    | with_reducible exact hk | with_reducible assumption | with_reducible apply offer_keeps | with_reducible apply keeps_ite
    | (with_reducible refine keeps_foldl _ ?_ _ _ _ ?_; intro _ _ _ _; beta_reduce) | with_reducible exact id | with_reducible rfl
    | (simp only [putAt_length, List.length_map]; done) | (intro hw; simp [hw, takeAccess]; done) | (intro hw; exact hw) | split
    | with_reducible apply keeps_mk
    | dsimp only

theorem setSource_keeps {s₀ : State} (s : State) (p : Fin 4) (src : FaultSource) (r : SourceRec)
    (hk : Keeps s₀ s) : Keeps s₀ (State.setSource s p src r) := by
  unfold State.setSource
  try dsimp only
  repeat' first
    | with_reducible exact hk | with_reducible assumption | with_reducible apply keeps_ite
    | (with_reducible refine keeps_foldl _ ?_ _ _ _ ?_; intro _ _ _ _; beta_reduce) | with_reducible exact id | with_reducible rfl
    | (simp only [putAt_length, List.length_map]; done) | (intro hw; simp [hw, takeAccess]; done) | (intro hw; exact hw) | split
    | with_reducible apply keeps_mk
    | dsimp only

theorem faultBegin_keeps {s₀ : State} (s : State) (t : Tick) (p : Fin 4) (src : FaultSource) (what : FaultAction × BitVec 8)
    (hk : Keeps s₀ s) : Keeps s₀ (State.faultBegin s t p src what) := by
  unfold State.faultBegin
  try dsimp only
  repeat' first
    | with_reducible exact hk | with_reducible assumption | with_reducible apply offer_keeps | with_reducible apply setSource_keeps
    | with_reducible apply keeps_ite | (with_reducible refine keeps_foldl _ ?_ _ _ _ ?_; intro _ _ _ _; beta_reduce) | with_reducible exact id
    | with_reducible rfl | (simp only [putAt_length, List.length_map]; done) | (intro hw; simp [hw, takeAccess]; done) | (intro hw; exact hw) | split
    | with_reducible apply keeps_mk
    | dsimp only

theorem faultEnd_keeps {s₀ : State} (s : State) (t : Tick) (p : Fin 4) (src : FaultSource) (act : FaultAction) (m : BitVec 8)
    (hk : Keeps s₀ s) : Keeps s₀ (State.faultEnd s t p src act m) := by
  unfold State.faultEnd
  try dsimp only
  repeat' first
    | with_reducible exact hk | with_reducible assumption | with_reducible apply offer_keeps | with_reducible apply setSource_keeps
    | with_reducible apply keeps_ite | (with_reducible refine keeps_foldl _ ?_ _ _ _ ?_; intro _ _ _ _; beta_reduce) | with_reducible exact id
    | with_reducible rfl | (simp only [putAt_length, List.length_map]; done) | (intro hw; simp [hw, takeAccess]; done) | (intro hw; exact hw) | split
    | with_reducible apply keeps_mk
    | dsimp only

theorem restateSource_keeps {s₀ : State} (what : SourceRec → Bool → Option (FaultAction × BitVec 8)) (t : Tick) (p : Fin 4) (s : State)
    (src : FaultSource) (hk : Keeps s₀ s) : Keeps s₀ (State.restateSource what t p s src) := by
  unfold State.restateSource
  split
  · exact hk
  · exact faultBegin_keeps _ _ _ _ _ hk

theorem restatePod_keeps {s₀ : State} (s : State) (what : SourceRec → Bool → Option (FaultAction × BitVec 8)) (t : Tick) (p : Fin 4)
    (hk : Keeps s₀ s) : Keeps s₀ (State.restatePod s what t p) := by
  exact keeps_foldl _ (fun _ s src h => restateSource_keeps what t p s src h) _ _ _ hk

theorem restateFaults_keeps {s₀ : State} (s : State) (what : SourceRec → Bool → Option (FaultAction × BitVec 8)) (t : Tick)
    (hk : Keeps s₀ s) : Keeps s₀ (State.restateFaults s what t) := by
  unfold State.restateFaults
  try dsimp only
  repeat' first
    | with_reducible exact hk | with_reducible assumption | with_reducible apply restatePod_keeps | with_reducible apply keeps_ite
    | (with_reducible refine keeps_foldl _ ?_ _ _ _ ?_; intro _ _ _ _; beta_reduce) | with_reducible exact id | with_reducible rfl
    | (simp only [putAt_length, List.length_map]; done) | (intro hw; simp [hw, takeAccess]; done) | (intro hw; exact hw) | split
    | with_reducible apply keeps_mk
    | dsimp only

theorem countGap_keeps {s₀ : State} (s : State) (i : Nat) (hk : Keeps s₀ s) : Keeps s₀ (State.countGap s i) := by
  unfold State.countGap
  try dsimp only
  repeat' first
    | with_reducible exact hk | with_reducible assumption | with_reducible apply setTake_keeps | with_reducible apply keeps_ite
    | (with_reducible refine keeps_foldl _ ?_ _ _ _ ?_; intro _ _ _ _; beta_reduce) | with_reducible exact id | with_reducible rfl
    | (simp only [putAt_length, List.length_map]; done) | (intro hw; simp [hw, takeAccess]; done) | (intro hw; exact hw) | split
    | with_reducible apply keeps_mk
    | dsimp only

theorem recover_keeps {s₀ : State} (s : State) (i : Nat) (t : Tick) (hk : Keeps s₀ s) : Keeps s₀ (State.recover s i t) := by
  unfold State.recover
  try dsimp only
  repeat' first
    | with_reducible apply Report.handLost_image
    | with_reducible exact hk | with_reducible assumption | with_reducible apply offer_keeps | with_reducible apply countGap_keeps
    | with_reducible apply setTake_keeps | with_reducible apply restateFaults_keeps | with_reducible apply keeps_ite
    | (with_reducible refine keeps_foldl _ ?_ _ _ _ ?_; intro _ _ _ _; beta_reduce) | with_reducible exact id | with_reducible rfl
    | (simp only [putAt_length, List.length_map]; done) | (intro hw; simp [hw, takeAccess]; done) | (intro hw; exact hw) | split
    | with_reducible apply keeps_mk
    | dsimp only

/-! ## Machine/Match.lean -/

theorem relationsToSeq_keeps {s₀ : State} (s : State) (k : Fin 4) (rels : List (Option Relation))
    (hk : Keeps s₀ s) : Keeps s₀ (State.relationsToSeq s k rels) := by
  unfold State.relationsToSeq
  try dsimp only
  repeat' first
    | with_reducible exact hk | with_reducible assumption | with_reducible apply keeps_ite
    | (with_reducible refine keeps_foldl _ ?_ _ _ _ ?_; intro _ _ _ _; beta_reduce) | with_reducible exact id | with_reducible rfl
    | (simp only [putAt_length, List.length_map]; done) | (intro hw; simp [hw, takeAccess]; done) | (intro hw; exact hw) | split
    | with_reducible apply keeps_mk
    | dsimp only

theorem setMatchOrder_keeps {s₀ : State} (p : SetMatchP) (s : State) (hk : Keeps s₀ s) : Keeps s₀ (setMatchOrder p s).state := by
  unfold setMatchOrder
  try dsimp only
  repeat' first
    | with_reducible exact hk | with_reducible assumption | with_reducible apply refuse_keeps | with_reducible apply accept_keeps
    | with_reducible apply keeps_ite | (with_reducible refine keeps_foldl _ ?_ _ _ _ ?_; intro _ _ _ _; beta_reduce) | with_reducible exact id
    | with_reducible rfl | (simp only [putAt_length, List.length_map]; done) | (intro hw; simp [hw, takeAccess]; done) | (intro hw; exact hw) | split
    | with_reducible apply keeps_mk
    | dsimp only

/-! ## Machine/Lanes.lean -/

theorem setLaneAt_keeps {s₀ : State} (s : State) (k : Fin 4) (l : Lane) (hk : Keeps s₀ s) : Keeps s₀ (State.setLaneAt s k l) := by
  unfold State.setLaneAt
  try dsimp only
  repeat' first
    | with_reducible exact hk | with_reducible assumption | with_reducible apply keeps_ite
    | (with_reducible refine keeps_foldl _ ?_ _ _ _ ?_; intro _ _ _ _; beta_reduce) | with_reducible exact id | with_reducible rfl
    | (simp only [putAt_length, List.length_map]; done) | (intro hw; simp [hw, takeAccess]; done) | (intro hw; exact hw) | split
    | with_reducible apply keeps_mk
    | dsimp only

/-- Stores that may fail keep the canonical form. -/
theorem storeUnits_wf (kind : LinkAccess) (f : Nat → Nat) (us : List Word64) (i : Nat) (m : Mem) (plan : List (LinkAccess × Nat)) (h : m.wf = true) :
    (storeUnits kind f us i m plan).mem.wf = true := by
  induction us generalizing i m plan with
  | nil => exact h
  | cons u rest ih =>
    unfold storeUnits
    split
    · exact h
    · exact ih _ _ _ (Mem.putUnit_wf _ _ _ h)

/-- With no failure in store no store fails. -/
theorem storeUnits_plan (kind : LinkAccess) (f : Nat → Nat) (us : List Word64) (i : Nat) (m : Mem) (plan : List (LinkAccess × Nat)) (h : plan = []) :
    (storeUnits kind f us i m plan).plan = [] := by
  subst h
  induction us generalizing i m with
  | nil => rfl
  | cons u rest ih => exact ih _ _

theorem ringWrite_keeps {s₀ : State} (s : State) (k : Fin 4) (units : List Word64) (hk : Keeps s₀ s) : Keeps s₀ (State.ringWrite s k units) :=
  hk.upd rfl rfl rfl (fun h => storeUnits_wf _ _ _ _ _ _ h) id rfl rfl rfl rfl (fun h => storeUnits_plan _ _ _ _ _ _ h)

theorem ringOffer_keeps {s₀ : State} (s : State) (k : Fin 4) (live : Bool) (units : List Word64)
    (hk : Keeps s₀ s) : Keeps s₀ (State.ringOffer s k live units) := by
  unfold State.ringOffer
  try dsimp only
  repeat' first
    | with_reducible exact hk | with_reducible assumption | with_reducible apply setLaneAt_keeps | with_reducible apply ringWrite_keeps
    | with_reducible apply keeps_ite | (with_reducible refine keeps_foldl _ ?_ _ _ _ ?_; intro _ _ _ _; beta_reduce) | with_reducible exact id
    | with_reducible rfl | (simp only [putAt_length, List.length_map]; done) | (intro hw; simp [hw, takeAccess]; done) | (intro hw; exact hw) | split
    | with_reducible apply keeps_mk
    | dsimp only

theorem writePending_keeps {s₀ : State} (s : State) (k : Fin 4) (fuel : Nat) (hk : Keeps s₀ s) : Keeps s₀ (State.writePending s k fuel) := by
  induction fuel generalizing s with
  | zero => exact hk
  | succ n ih =>
    unfold State.writePending
    split
    · exact hk
    · split
      · exact hk
      · exact ih _ (setLaneAt_keeps _ _ _ (ringWrite_keeps _ _ _ hk))

theorem handMark_keeps {s₀ : State} (s : State) (k : Fin 4) (mark : BitVec 32) (hk : Keeps s₀ s) : Keeps s₀ (State.handMark s k mark) := by
  unfold State.handMark
  try dsimp only
  repeat' first
    | with_reducible exact hk | with_reducible assumption | with_reducible apply setLaneAt_keeps | with_reducible apply writePending_keeps
    | with_reducible apply keeps_ite | (with_reducible refine keeps_foldl _ ?_ _ _ _ ?_; intro _ _ _ _; beta_reduce) | with_reducible exact id
    | with_reducible rfl | (simp only [putAt_length, List.length_map]; done) | (intro hw; simp [hw, takeAccess]; done) | (intro hw; exact hw) | split
    | with_reducible apply keeps_mk
    | dsimp only

theorem raiseExcs_keeps {s₀ : State} (s : State) (k : Fin 4) (excs : BitVec 7) (hk : Keeps s₀ s) : Keeps s₀ (State.raiseExcs s k excs) := by
  unfold State.raiseExcs
  try dsimp only
  repeat' first
    | with_reducible exact hk | with_reducible assumption | with_reducible apply raiseIf_keeps | with_reducible apply keeps_ite
    | (with_reducible refine keeps_foldl _ ?_ _ _ _ ?_; intro _ _ _ _; beta_reduce) | with_reducible exact id | with_reducible rfl
    | (simp only [putAt_length, List.length_map]; done) | (intro hw; simp [hw, takeAccess]; done) | (intro hw; exact hw) | split
    | with_reducible apply keeps_mk
    | dsimp only

theorem noteLane_keeps {s₀ : State} (s : State) (k : Fin 4) (hk : Keeps s₀ s) : Keeps s₀ (State.noteLane s k) := by
  unfold State.noteLane
  split
  · exact hk
  · exact setTake_keeps s _ _ hk

theorem insertFrame_keeps {s₀ : State} (s : State) (k : Fin 4) (t : Tick) (b : RecBody) (hk : Keeps s₀ s) :
    Keeps s₀ (State.insertFrame s k t b) :=
  insert_keeps _ t b (noteLane_keeps s k hk)

theorem emit_keeps {s₀ : State} (s : State) (k : Fin 4) (live : Bool) (t : Tick) (e : Emission)
    (hk : Keeps s₀ s) : Keeps s₀ (State.emit s k live t e) := by
  unfold State.emit
  try dsimp only
  repeat' first
    | with_reducible exact hk | with_reducible assumption | with_reducible apply relationsToSeq_keeps | with_reducible apply setLaneAt_keeps
    | with_reducible apply insertFrame_keeps | with_reducible apply ringOffer_keeps | with_reducible apply keeps_ite
    | (with_reducible refine keeps_foldl _ ?_ _ _ _ ?_; intro _ _ _ _; beta_reduce) | with_reducible exact id | with_reducible rfl
    | (simp only [putAt_length, List.length_map]; done) | (intro hw; simp [hw, takeAccess]; done) | (intro hw; exact hw) | split
    | with_reducible apply keeps_mk
    | dsimp only

theorem laneOut_keeps {s₀ : State} (k : Fin 4) (live : Bool) (t : Tick) (x : State × BitVec 7) (o : LaneOut)
    (hk : Keeps s₀ x.1) : Keeps s₀ (State.laneOut k live t x o).1 := by
  unfold State.laneOut
  try dsimp only
  repeat' first
    | with_reducible exact hk | with_reducible assumption | with_reducible apply insertFrame_keeps | with_reducible apply emit_keeps
    | with_reducible apply keeps_ite | (with_reducible refine keeps_foldl _ ?_ _ _ _ ?_; intro _ _ _ _; beta_reduce) | with_reducible exact id
    | with_reducible rfl | (simp only [putAt_length, List.length_map]; done) | (intro hw; simp [hw, takeAccess]; done) | (intro hw; exact hw) | split
    | with_reducible apply keeps_mk
    | dsimp only

theorem laneOuts_fold_keeps {s₀ : State} (k : Fin 4) (live : Bool) (t : Tick) (l : List LaneOut) (x : State × BitVec 7) (hk : Keeps s₀ x.1) :
    Keeps s₀ (l.foldl (State.laneOut k live t) x).1 := by
  induction l generalizing x with
  | nil => exact hk
  | cons o rest ih => exact ih _ (laneOut_keeps k live t x o hk)

theorem laneOuts_keeps {s₀ : State} (s : State) (k : Fin 4) (live : Bool) (t : Tick) (d : DecStep) (hk : Keeps s₀ s) :
    Keeps s₀ (State.laneOuts s k live t d).1 :=
  laneOuts_fold_keeps k live t d.outs _ (setLaneAt_keeps s k _ hk)

theorem laneStep_keeps {s₀ : State} (s : State) (k : Fin 4) (live : Bool) (t : Tick) (d : DecStep)
    (hk : Keeps s₀ s) : Keeps s₀ (State.laneStep s k live t d) := by
  unfold State.laneStep
  try dsimp only
  repeat' first
    | with_reducible exact hk | with_reducible assumption | with_reducible apply raiseExcs_keeps | with_reducible apply laneOuts_keeps
    | with_reducible apply keeps_ite | (with_reducible refine keeps_foldl _ ?_ _ _ _ ?_; intro _ _ _ _; beta_reduce) | with_reducible exact id
    | with_reducible rfl | (simp only [putAt_length, List.length_map]; done) | (intro hw; simp [hw, takeAccess]; done) | (intro hw; exact hw) | split
    | with_reducible apply keeps_mk
    | dsimp only

theorem laneInterval_keeps {s₀ : State} (s : State) (k : Fin 4) (live : Bool) (exp : Nat) (t : Tick) (levels unknown : Chans)
    (hk : Keeps s₀ s) : Keeps s₀ (State.laneInterval s k live exp t levels unknown) := by
  unfold State.laneInterval
  try dsimp only
  repeat' first
    | with_reducible exact hk | with_reducible assumption | with_reducible apply setLaneAt_keeps | with_reducible apply laneStep_keeps
    | with_reducible apply keeps_ite | (with_reducible refine keeps_foldl _ ?_ _ _ _ ?_; intro _ _ _ _; beta_reduce) | with_reducible exact id
    | with_reducible rfl | (simp only [putAt_length, List.length_map]; done) | (intro hw; simp [hw, takeAccess]; done) | (intro hw; exact hw) | split
    | with_reducible apply keeps_mk
    | dsimp only

theorem laneGap_keeps {s₀ : State} (s : State) (k : Fin 4) (live : Bool) (t : Tick) (hk : Keeps s₀ s) : Keeps s₀ (State.laneGap s k live t) := by
  unfold State.laneGap
  try dsimp only
  repeat' first
    | with_reducible exact hk | with_reducible assumption | with_reducible apply laneStep_keeps | with_reducible apply keeps_ite
    | (with_reducible refine keeps_foldl _ ?_ _ _ _ ?_; intro _ _ _ _; beta_reduce) | with_reducible exact id | with_reducible rfl
    | (simp only [putAt_length, List.length_map]; done) | (intro hw; simp [hw, takeAccess]; done) | (intro hw; exact hw) | split
    | with_reducible apply keeps_mk
    | dsimp only

theorem liveInterval_keeps {s₀ : State} (s : State) (t : Tick) (levels unknown : Chans)
    (hk : Keeps s₀ s) : Keeps s₀ (State.liveInterval s t levels unknown) := by
  unfold State.liveInterval
  try dsimp only
  repeat' first
    | with_reducible exact hk | with_reducible assumption | with_reducible apply laneInterval_keeps | with_reducible apply keeps_ite
    | (with_reducible refine keeps_foldl _ ?_ _ _ _ ?_; intro _ _ _ _; beta_reduce) | with_reducible exact id | with_reducible rfl
    | (simp only [putAt_length, List.length_map]; done) | (intro hw; simp [hw, takeAccess]; done) | (intro hw; exact hw) | split
    | with_reducible apply keeps_mk
    | dsimp only

theorem liveGap_keeps {s₀ : State} (s : State) (t : Tick) (hk : Keeps s₀ s) : Keeps s₀ (State.liveGap s t) := by
  unfold State.liveGap
  try dsimp only
  repeat' first
    | with_reducible exact hk | with_reducible assumption | with_reducible apply laneGap_keeps | with_reducible apply keeps_ite
    | (with_reducible refine keeps_foldl _ ?_ _ _ _ ?_; intro _ _ _ _; beta_reduce) | with_reducible exact id | with_reducible rfl
    | (simp only [putAt_length, List.length_map]; done) | (intro hw; simp [hw, takeAccess]; done) | (intro hw; exact hw) | split
    | with_reducible apply keeps_mk
    | dsimp only

theorem closeInterrupted_keeps {s₀ : State} (s : State) (k : Fin 4) (live : Bool) (t : Tick)
    (hk : Keeps s₀ s) : Keeps s₀ (State.closeInterrupted s k live t).1 := by
  unfold State.closeInterrupted
  try dsimp only
  repeat' first
    | with_reducible exact hk | with_reducible assumption | with_reducible apply laneOuts_keeps | with_reducible apply keeps_ite
    | (with_reducible refine keeps_foldl _ ?_ _ _ _ ?_; intro _ _ _ _; beta_reduce) | with_reducible exact id | with_reducible rfl
    | (simp only [putAt_length, List.length_map]; done) | (intro hw; simp [hw, takeAccess]; done) | (intro hw; exact hw) | split
    | with_reducible apply keeps_mk
    | dsimp only

theorem attachLanes_keeps {s₀ : State} (s : State) (m : Chans) (id : Nat) (hk : Keeps s₀ s) : Keeps s₀ (State.attachLanes s m id) := by
  unfold State.attachLanes
  try dsimp only
  repeat' first
    | with_reducible exact hk | with_reducible assumption | with_reducible apply keeps_ite
    | (with_reducible refine keeps_foldl _ ?_ _ _ _ ?_; intro _ _ _ _; beta_reduce) | with_reducible exact id | with_reducible rfl
    | (simp only [putAt_length, List.length_map]; done) | (intro hw; simp [hw, takeAccess]; done) | (intro hw; exact hw) | split
    | with_reducible apply keeps_mk
    | dsimp only

theorem detachLane_keeps {s₀ : State} (s : State) (t : Tick) (k : Fin 4) (hk : Keeps s₀ s) : Keeps s₀ (State.detachLane s t k) := by
  unfold State.detachLane
  try dsimp only
  repeat' first
    | with_reducible exact hk | with_reducible assumption | with_reducible apply closeInterrupted_keeps | with_reducible apply raiseExcs_keeps
    | with_reducible apply setLaneAt_keeps | with_reducible apply keeps_ite
    | (with_reducible refine keeps_foldl _ ?_ _ _ _ ?_; intro _ _ _ _; beta_reduce) | with_reducible exact id | with_reducible rfl
    | (simp only [putAt_length, List.length_map]; done) | (intro hw; simp [hw, takeAccess]; done) | (intro hw; exact hw) | split
    | with_reducible apply keeps_mk
    | dsimp only

theorem detachLanes_keeps {s₀ : State} (s : State) (t : Tick) (hk : Keeps s₀ s) : Keeps s₀ (State.detachLanes s t) := by
  unfold State.detachLanes
  try dsimp only
  repeat' first
    | with_reducible exact hk | with_reducible assumption | with_reducible apply detachLane_keeps | with_reducible apply keeps_ite
    | (with_reducible refine keeps_foldl _ ?_ _ _ _ ?_; intro _ _ _ _; beta_reduce) | with_reducible exact id | with_reducible rfl
    | (simp only [putAt_length, List.length_map]; done) | (intro hw; simp [hw, takeAccess]; done) | (intro hw; exact hw) | split
    | with_reducible apply keeps_mk
    | dsimp only

theorem setLaneOrder_keeps {s₀ : State} (p : SetLaneP) (s : State) (hk : Keeps s₀ s) : Keeps s₀ (setLaneOrder p s).state := by
  unfold setLaneOrder
  try dsimp only
  repeat' first
    | with_reducible apply hands_keeps
    | with_reducible exact hk | with_reducible assumption | with_reducible apply setLaneAt_keeps | with_reducible apply refuse_keeps
    | with_reducible apply accept_keeps | with_reducible apply keeps_ite
    | (with_reducible refine keeps_foldl _ ?_ _ _ _ ?_; intro _ _ _ _; beta_reduce) | with_reducible exact id | with_reducible rfl
    | (simp only [putAt_length, List.length_map]; done) | (intro hw; simp [hw, takeAccess]; done) | (intro hw; exact hw) | split
    | with_reducible apply keeps_mk
    | dsimp only

theorem snapshotLaneOrder_keeps {s₀ : State} (p : SnapshotLaneP) (s : State) (hk : Keeps s₀ s) : Keeps s₀ (snapshotLaneOrder p s).state := by
  unfold snapshotLaneOrder
  try dsimp only
  repeat' first
    | with_reducible exact hk | with_reducible assumption | with_reducible apply setLaneAt_keeps | with_reducible apply refuse_keeps
    | with_reducible apply keeps_ite | (with_reducible refine keeps_foldl _ ?_ _ _ _ ?_; intro _ _ _ _; beta_reduce) | with_reducible exact id
    | with_reducible rfl | (simp only [putAt_length, List.length_map]; done) | (intro hw; simp [hw, takeAccess]; done) | (intro hw; exact hw) | split
    | with_reducible apply keeps_mk
    | dsimp only

theorem resumeHeld_keeps {s₀ : State} (s : State) (k : Fin 4) (hk : Keeps s₀ s) : Keeps s₀ (State.resumeHeld s k) := by
  unfold State.resumeHeld
  try dsimp only
  repeat' first
    | with_reducible exact hk | with_reducible assumption | with_reducible apply closeInterrupted_keeps | with_reducible apply raiseExcs_keeps
    | with_reducible apply setLaneAt_keeps | with_reducible apply keeps_ite
    | (with_reducible refine keeps_foldl _ ?_ _ _ _ ?_; intro _ _ _ _; beta_reduce) | with_reducible exact id | with_reducible rfl
    | (simp only [putAt_length, List.length_map]; done) | (intro hw; simp [hw, takeAccess]; done) | (intro hw; exact hw) | split
    | with_reducible apply keeps_mk
    | dsimp only

theorem resumeLaneOrder_keeps {s₀ : State} (p : ResumeLaneP) (s : State) (hk : Keeps s₀ s) : Keeps s₀ (resumeLaneOrder p s).state := by
  unfold resumeLaneOrder
  try dsimp only
  repeat' first
    | with_reducible exact hk | with_reducible assumption | with_reducible apply setLaneAt_keeps | with_reducible apply refuse_keeps
    | with_reducible apply hands_keeps | with_reducible apply accept_keeps | with_reducible apply resumeHeld_keeps | with_reducible apply keeps_ite
    | (with_reducible refine keeps_foldl _ ?_ _ _ _ ?_; intro _ _ _ _; beta_reduce) | with_reducible exact id | with_reducible rfl
    | (simp only [putAt_length, List.length_map]; done) | (intro hw; simp [hw, takeAccess]; done) | (intro hw; exact hw) | split
    | with_reducible apply keeps_mk
    | dsimp only

theorem laneIdleExpiry_keeps {s₀ : State} (s : State) (k : Fin 4) (hk : Keeps s₀ s) : Keeps s₀ (State.laneIdleExpiry s k) := by
  unfold State.laneIdleExpiry
  try dsimp only
  repeat' first
    | with_reducible exact hk | with_reducible assumption | with_reducible apply laneStep_keeps | with_reducible apply keeps_ite
    | (with_reducible refine keeps_foldl _ ?_ _ _ _ ?_; intro _ _ _ _; beta_reduce) | with_reducible exact id | with_reducible rfl
    | (simp only [putAt_length, List.length_map]; done) | (intro hw; simp [hw, takeAccess]; done) | (intro hw; exact hw) | split
    | with_reducible apply keeps_mk
    | dsimp only

/-! ## Machine/Pool.lean -/

theorem applyStagedSets_keeps {s₀ : State} (s : State) (hk : Keeps s₀ s) : Keeps s₀ (State.applyStagedSets s) := by
  unfold State.applyStagedSets
  try dsimp only
  repeat' first
    | with_reducible exact hk | with_reducible assumption | with_reducible apply keeps_ite
    | (with_reducible refine keeps_foldl _ ?_ _ _ _ ?_; intro _ _ _ _; beta_reduce) | with_reducible exact id | with_reducible rfl
    | (simp only [putAt_length, List.length_map]; done) | (intro hw; simp [hw, takeAccess]; done) | (intro hw; exact hw) | split
    | with_reducible apply keeps_mk
    | dsimp only

theorem acquireBlock_keeps {s₀ : State} (s : State) (i b : Nat) (rest : List Nat) (he : s.pool.free = b :: rest) (hk : Keeps s₀ s) :
    Keeps s₀ (State.acquireBlock s i b rest) := by
  refine hk.upd rfl rfl rfl id ?_ (by simp [State.acquireBlock]) rfl rfl rfl id
  intro h
  unfold Pool.partitioned at *
  refine List.Perm.trans ?_ h
  simp only [State.acquireBlock, Pool.owned, List.map_append, List.map_cons, List.map_nil, he]
  rw [List.append_assoc]
  exact List.Perm.refl _

theorem acquire_keeps {s₀ : State} (s : State) (i : Nat) (hk : Keeps s₀ s) : Keeps s₀ (State.acquire s i) := by
  unfold State.acquire
  split
  · exact hk
  · rename_i b rest he
    exact acquireBlock_keeps s i b rest he hk

theorem sealBlock_keeps {s₀ : State} (s : State) (i b : Nat) (hk : Keeps s₀ s) : Keeps s₀ (State.sealBlock s i b) := by
  unfold State.sealBlock
  try dsimp only
  repeat' first
    | with_reducible apply Report.handing_image
    | with_reducible exact hk | with_reducible assumption | with_reducible apply keeps_ite
    | (with_reducible refine keeps_foldl _ ?_ _ _ _ ?_; intro _ _ _ _; beta_reduce) | with_reducible exact id | with_reducible rfl
    | (simp only [putAt_length, List.length_map]; done) | (intro hw; simp [hw, takeAccess]; done) | (intro hw; exact hw) | split
    | with_reducible apply keeps_mk
    | dsimp only

/-- A block that is not FREE has an entry. -/
theorem Pool.owned_of_block (p : Pool) (i : Nat) (x : Block) (h : p.block i = some x) : i ∈ p.owned := by
  simp only [Pool.block, Option.map_eq_some_iff] at h
  obtain ⟨e, he, _⟩ := h
  have h1 := List.find?_some he
  have h2 := List.mem_of_find?_eq_some he
  simp only [beq_iff_eq] at h1
  exact List.mem_map.mpr ⟨e, h2, h1⟩

theorem Pool.owned_of_find (p : Pool) (id seq i : Nat) (h : p.find id seq = some i) : i ∈ p.owned := by
  simp only [Pool.find, Option.map_eq_some_iff] at h
  obtain ⟨e, he, rfl⟩ := h
  exact List.mem_map.mpr ⟨e, List.mem_of_find?_eq_some he, rfl⟩

theorem owned_of_frontBlock (s : State) (i b : Nat) (h : s.frontBlock i = some b) : b ∈ s.pool.owned := by
  unfold State.frontBlock at h
  split at h
  · cases h
  · exact Pool.owned_of_find _ _ _ _ h

/-- A list without its one entry of a kind, and that entry at the end. -/
theorem perm_filter_snoc (l : List Nat) (i : Nat) (hn : l.Nodup) (hi : i ∈ l) : (l.filter (fun x => x != i) ++ [i]).Perm l := by
  have h1 : (l.filter (fun x => x != i)) = l.erase i := by
    rw [List.Nodup.erase_eq_filter hn]
  rw [h1]
  exact (List.perm_append_comm.trans (List.perm_cons_erase hi).symm)

/-- Freeing a block that is not FREE keeps every block in one place. -/
theorem Pool.freeBlock_partitioned (p : Pool) (i : Nat) (hi : i ∈ p.owned) (h : p.partitioned) : (p.freeBlock i).partitioned := by
  unfold Pool.partitioned at *
  have hn : (p.owned ++ p.free).Nodup := h.nodup_iff.mpr List.nodup_range
  have ho : (p.freeBlock i).owned = p.owned.filter (fun x => x != i) := by
    simp only [Pool.owned, Pool.freeBlock, Pool.rearm, List.filter_map]
    rfl
  rw [ho]
  have hf : (p.freeBlock i).free = p.free ++ [i] := rfl
  rw [hf]
  refine List.Perm.trans ?_ h
  have h1 := perm_filter_snoc p.owned i hn.of_append_left hi
  calc (p.owned.filter (fun x => x != i) ++ (p.free ++ [i]))
      |>.Perm (p.owned.filter (fun x => x != i) ++ ([i] ++ p.free)) := List.Perm.append_left _ List.perm_append_comm
    _ |>.Perm (p.owned ++ p.free) := by
      rw [← List.append_assoc]
      exact List.Perm.append_right _ h1

theorem freeFront_keeps {s₀ : State} (s : State) (i b : Nat) (hb : b ∈ s.pool.owned) (hk : Keeps s₀ s) : Keeps s₀ (State.freeFront s i b) :=
  hk.upd rfl rfl rfl id (Pool.freeBlock_partitioned s.pool b hb) (by simp [State.freeFront]) rfl rfl rfl id

theorem freeFilling_keeps {s₀ : State} (s : State) (b : Nat) (hb : b ∈ s.pool.owned) (hk : Keeps s₀ s) : Keeps s₀ (State.freeFilling s b) :=
  hk.upd rfl rfl rfl id (Pool.freeBlock_partitioned s.pool b hb) rfl rfl rfl rfl id

theorem placeHold_keeps {s₀ : State} (s : State) (i : Nat) (revocable : Bool) (hk : Keeps s₀ s) : Keeps s₀ (State.placeHold s i revocable) := by
  refine hk.upd rfl rfl rfl id ?_ rfl rfl rfl rfl id
  intro h
  unfold State.placeHold
  dsimp only
  split
  · exact h
  · exact Pool.setBlock_partitioned _ _ _ h

theorem dropHold_keeps {s₀ : State} (s : State) (i : Nat) (renderer : Bool) (hk : Keeps s₀ s) : Keeps s₀ (State.dropHold s i renderer) := by
  refine hk.upd rfl rfl rfl id ?_ rfl rfl rfl rfl id
  intro h
  unfold State.dropHold
  dsimp only
  split
  · exact h
  · exact Pool.setBlock_partitioned _ _ _ h

theorem dropHoldOpt_keeps {s₀ : State} (s : State) (h : Option Nat) (renderer : Bool)
    (hk : Keeps s₀ s) : Keeps s₀ (State.dropHoldOpt s h renderer) := by
  unfold State.dropHoldOpt
  try dsimp only
  repeat' first
    | with_reducible exact hk | with_reducible assumption | with_reducible apply dropHold_keeps | with_reducible apply keeps_ite
    | (with_reducible refine keeps_foldl _ ?_ _ _ _ ?_; intro _ _ _ _; beta_reduce) | with_reducible exact id | with_reducible rfl
    | (simp only [putAt_length, List.length_map]; done) | (intro hw; simp [hw, takeAccess]; done) | (intro hw; exact hw) | split
    | with_reducible apply keeps_mk
    | dsimp only

theorem endRight_keeps {s₀ : State} (s : State) (c : Client) (h : Option Nat) (hk : Keeps s₀ s) : Keeps s₀ (State.endRight s c h) := by
  unfold State.endRight
  try dsimp only
  repeat' first
    | with_reducible exact hk | with_reducible assumption | with_reducible apply inFlight_keeps | with_reducible apply dropHoldOpt_keeps
    | with_reducible apply keeps_ite | (with_reducible refine keeps_foldl _ ?_ _ _ _ ?_; intro _ _ _ _; beta_reduce) | with_reducible exact id
    | with_reducible rfl | (simp only [putAt_length, List.length_map]; done) | (intro hw; simp [hw, takeAccess]; done) | (intro hw; exact hw) | split
    | with_reducible apply keeps_mk
    | dsimp only

theorem emptyIfDone_keeps {s₀ : State} (s : State) (i : Nat) (hk : Keeps s₀ s) : Keeps s₀ (State.emptyIfDone s i) := by
  unfold State.emptyIfDone
  try dsimp only
  repeat' first
    | with_reducible exact hk | with_reducible assumption | with_reducible apply setTake_keeps | with_reducible apply keeps_ite
    | (with_reducible refine keeps_foldl _ ?_ _ _ _ ?_; intro _ _ _ _; beta_reduce) | with_reducible exact id | with_reducible rfl
    | (simp only [putAt_length, List.length_map]; done) | (intro hw; simp [hw, takeAccess]; done) | (intro hw; exact hw) | split
    | with_reducible apply keeps_mk
    | dsimp only

theorem grant_keeps {s₀ : State} (s : State) (waits : Client → Bool) (hk : Keeps s₀ s) : Keeps s₀ (State.grant s waits) := by
  unfold State.grant
  try dsimp only
  repeat' first
    | with_reducible exact hk | with_reducible assumption | with_reducible apply inFlight_keeps | with_reducible apply keeps_ite
    | (with_reducible refine keeps_foldl _ ?_ _ _ _ ?_; intro _ _ _ _; beta_reduce) | with_reducible exact id | with_reducible rfl
    | (simp only [putAt_length, List.length_map]; done) | (intro hw; simp [hw, takeAccess]; done) | (intro hw; exact hw) | split
    | with_reducible apply keeps_mk
    | dsimp only

theorem portFree_keeps {s₀ : State} (s : State) (hk : Keeps s₀ s) : Keeps s₀ (State.portFree s) := by
  unfold State.portFree
  try dsimp only
  repeat' first
    | with_reducible exact hk | with_reducible assumption | with_reducible apply inFlight_keeps | with_reducible apply dropHoldOpt_keeps
    | with_reducible apply keeps_ite | (with_reducible refine keeps_foldl _ ?_ _ _ _ ?_; intro _ _ _ _; beta_reduce) | with_reducible exact id
    | with_reducible rfl | (simp only [putAt_length, List.length_map]; done) | (intro hw; simp [hw, takeAccess]; done) | (intro hw; exact hw) | split
    | with_reducible apply keeps_mk
    | dsimp only

/-! ## Machine/Sequencer.lean -/

theorem setSequenceOrder_keeps {s₀ : State} (p : SetSequenceP) (s : State) (hk : Keeps s₀ s) : Keeps s₀ (setSequenceOrder p s).state := by
  unfold setSequenceOrder
  try dsimp only
  repeat' first
    | with_reducible exact hk | with_reducible assumption | with_reducible apply refuse_keeps | with_reducible apply accept_keeps
    | with_reducible apply keeps_ite | (with_reducible refine keeps_foldl _ ?_ _ _ _ ?_; intro _ _ _ _; beta_reduce) | with_reducible exact id
    | with_reducible rfl | (simp only [putAt_length, List.length_map]; done) | (intro hw; simp [hw, takeAccess]; done) | (intro hw; exact hw) | split
    | with_reducible apply keeps_mk
    | dsimp only

/-! ## Machine/Render.lean -/

theorem endRender_keeps {s₀ : State} (s : State) (oc : Outcome) (hk : Keeps s₀ s) : Keeps s₀ (State.endRender s oc) := by
  unfold State.endRender
  try dsimp only
  repeat' first
    | with_reducible exact hk | with_reducible assumption | with_reducible apply complete_keeps | with_reducible apply endRight_keeps
    | with_reducible apply keeps_ite | (with_reducible refine keeps_foldl _ ?_ _ _ _ ?_; intro _ _ _ _; beta_reduce) | with_reducible exact id
    | with_reducible rfl | (simp only [putAt_length, List.length_map]; done) | (intro hw; simp [hw, takeAccess]; done) | (intro hw; exact hw) | split
    | with_reducible apply keeps_mk
    | dsimp only

theorem renderFault_keeps {s₀ : State} (s : State) (hk : Keeps s₀ s) : Keeps s₀ (State.renderFault s) := by
  unfold State.renderFault
  try dsimp only
  repeat' first
    | with_reducible exact hk | with_reducible assumption | with_reducible apply raise_keeps | with_reducible apply endRender_keeps
    | with_reducible apply keeps_ite | (with_reducible refine keeps_foldl _ ?_ _ _ _ ?_; intro _ _ _ _; beta_reduce) | with_reducible exact id
    | with_reducible rfl | (simp only [putAt_length, List.length_map]; done) | (intro hw; simp [hw, takeAccess]; done) | (intro hw; exact hw) | split
    | with_reducible apply keeps_mk
    | dsimp only

theorem storeCells_wf (cs : List (Nat × BitVec 16)) (m : Mem) (plan : List (LinkAccess × Nat)) (h : m.wf = true) : (storeCells cs m plan).mem.wf = true := by
  induction cs generalizing m plan with
  | nil => exact h
  | cons c rest ih =>
    obtain ⟨a, x⟩ := c
    unfold storeCells
    split
    · exact h
    · exact ih _ _ (Mem.putBytes_wf _ _ _ h)

theorem storeCells_plan (cs : List (Nat × BitVec 16)) (m : Mem) (plan : List (LinkAccess × Nat)) (h : plan = []) : (storeCells cs m plan).plan = [] := by
  subst h
  induction cs generalizing m with
  | nil => rfl
  | cons c rest ih => exact ih _

theorem writeColumns_keeps {s₀ : State} (s : State) (columns : List Nat) (hk : Keeps s₀ s) : Keeps s₀ (State.writeColumns s columns) := by
  unfold State.writeColumns
  dsimp only
  have h1 : Keeps s₀ { s with shared := (storeCells (s.cellsOf columns) s.shared s.failPlan).mem, failPlan := (storeCells (s.cellsOf columns) s.shared s.failPlan).plan } :=
    hk.upd rfl rfl rfl (storeCells_wf _ _ _) id rfl rfl rfl rfl (storeCells_plan _ _ _)
  split
  · exact renderFault_keeps _ h1
  · exact h1

theorem writeHeader_keeps {s₀ : State} (s : State) (from_ generation : Nat) (outOfSpan stale : Bool) (hk : Keeps s₀ s) :
    Keeps s₀ (State.writeHeader s from_ generation outOfSpan stale) := by
  unfold State.writeHeader
  dsimp only
  refine keeps_ite (renderFault_keeps _ ?_) ?_
  · exact hk.upd rfl rfl rfl (storeUnits_wf _ _ _ _ _ _) id rfl rfl rfl rfl (storeUnits_plan _ _ _ _ _ _)
  · exact hk.upd rfl rfl rfl (storeUnits_wf _ _ _ _ _ _) id rfl rfl rfl rfl (storeUnits_plan _ _ _ _ _ _)

theorem renderHolds_keeps {s₀ : State} (s : State) (b : Nat) (hk : Keeps s₀ s) : Keeps s₀ (State.renderHolds s b) := by
  unfold State.renderHolds
  try dsimp only
  repeat' first
    | with_reducible exact hk | with_reducible assumption | with_reducible apply dropHoldOpt_keeps | with_reducible apply placeHold_keeps
    | with_reducible apply keeps_ite | (with_reducible refine keeps_foldl _ ?_ _ _ _ ?_; intro _ _ _ _; beta_reduce) | with_reducible exact id
    | with_reducible rfl | (simp only [putAt_length, List.length_map]; done) | (intro hw; simp [hw, takeAccess]; done) | (intro hw; exact hw) | split
    | with_reducible apply keeps_mk
    | dsimp only

theorem renderLetsGo_keeps {s₀ : State} (s : State) (hk : Keeps s₀ s) : Keeps s₀ (State.renderLetsGo s) := by
  unfold State.renderLetsGo
  try dsimp only
  repeat' first
    | with_reducible exact hk | with_reducible assumption | with_reducible apply dropHoldOpt_keeps | with_reducible apply keeps_ite
    | (with_reducible refine keeps_foldl _ ?_ _ _ _ ?_; intro _ _ _ _; beta_reduce) | with_reducible exact id | with_reducible rfl
    | (simp only [putAt_length, List.length_map]; done) | (intro hw; simp [hw, takeAccess]; done) | (intro hw; exact hw) | split
    | with_reducible apply keeps_mk
    | dsimp only

theorem renderToFront_keeps {s₀ : State} (s : State) (hk : Keeps s₀ s) : Keeps s₀ (State.renderToFront s) := by
  unfold State.renderToFront
  try dsimp only
  repeat' first
    | with_reducible exact hk | with_reducible assumption | with_reducible apply renderLetsGo_keeps | with_reducible apply renderHolds_keeps
    | with_reducible apply keeps_ite | (with_reducible refine keeps_foldl _ ?_ _ _ _ ?_; intro _ _ _ _; beta_reduce) | with_reducible exact id
    | with_reducible rfl | (simp only [putAt_length, List.length_map]; done) | (intro hw; simp [hw, takeAccess]; done) | (intro hw; exact hw) | split
    | with_reducible apply keeps_mk
    | dsimp only

theorem renderPosition_keeps {s₀ : State} (s : State) (hk : Keeps s₀ s) : Keeps s₀ (State.renderPosition s) := by
  unfold State.renderPosition
  try dsimp only
  repeat' first
    | with_reducible exact hk | with_reducible assumption | with_reducible apply renderToFront_keeps | with_reducible apply keeps_ite
    | (with_reducible refine keeps_foldl _ ?_ _ _ _ ?_; intro _ _ _ _; beta_reduce) | with_reducible exact id | with_reducible rfl
    | (simp only [putAt_length, List.length_map]; done) | (intro hw; simp [hw, takeAccess]; done) | (intro hw; exact hw) | split
    | with_reducible apply keeps_mk
    | dsimp only

theorem renderScanned_keeps {s₀ : State} (s : State) (hk : Keeps s₀ s) : Keeps s₀ (State.renderScanned s) := by
  unfold State.renderScanned
  try dsimp only
  repeat' first
    | with_reducible exact hk | with_reducible assumption | with_reducible apply renderToFront_keeps | with_reducible apply renderHolds_keeps
    | with_reducible apply keeps_ite | (with_reducible refine keeps_foldl _ ?_ _ _ _ ?_; intro _ _ _ _; beta_reduce) | with_reducible exact id
    | with_reducible rfl | (simp only [putAt_length, List.length_map]; done) | (intro hw; simp [hw, takeAccess]; done) | (intro hw; exact hw) | split
    | with_reducible apply keeps_mk
    | dsimp only

theorem renderNextBlock_keeps {s₀ : State} (s : State) (seq : Nat) (hk : Keeps s₀ s) : Keeps s₀ (State.renderNextBlock s seq) := by
  unfold State.renderNextBlock
  try dsimp only
  repeat' first
    | with_reducible exact hk | with_reducible assumption | with_reducible apply renderLetsGo_keeps | with_reducible apply renderHolds_keeps
    | with_reducible apply keeps_ite | (with_reducible refine keeps_foldl _ ?_ _ _ _ ?_; intro _ _ _ _; beta_reduce) | with_reducible exact id
    | with_reducible rfl | (simp only [putAt_length, List.length_map]; done) | (intro hw; simp [hw, takeAccess]; done) | (intro hw; exact hw) | split
    | with_reducible apply keeps_mk
    | dsimp only

theorem renderScanAccess_keeps {s₀ : State} (s : State) (e : Block) (rs : List TimedRec)
    (hk : Keeps s₀ s) : Keeps s₀ (State.renderScanAccess s e rs) := by
  unfold State.renderScanAccess
  try dsimp only
  repeat' first
    | with_reducible exact hk | with_reducible assumption | with_reducible apply renderNextBlock_keeps | with_reducible apply renderScanned_keeps
    | with_reducible apply keeps_ite | (with_reducible refine keeps_foldl _ ?_ _ _ _ ?_; intro _ _ _ _; beta_reduce) | with_reducible exact id
    | with_reducible rfl | (simp only [putAt_length, List.length_map]; done) | (intro hw; simp [hw, takeAccess]; done) | (intro hw; exact hw) | split
    | with_reducible apply keeps_mk
    | dsimp only

theorem renderProgress_keeps {s₀ : State} (s : State) (hk : Keeps s₀ s) : Keeps s₀ (State.renderProgress s) := by
  unfold State.renderProgress
  try dsimp only
  repeat' first
    | with_reducible exact hk | with_reducible assumption | with_reducible apply writeColumns_keeps | with_reducible apply keeps_ite
    | (with_reducible refine keeps_foldl _ ?_ _ _ _ ?_; intro _ _ _ _; beta_reduce) | with_reducible exact id | with_reducible rfl
    | (simp only [putAt_length, List.length_map]; done) | (intro hw; simp [hw, takeAccess]; done) | (intro hw; exact hw) | split
    | with_reducible apply keeps_mk
    | dsimp only

theorem renderReadAccess_keeps {s₀ : State} (s : State) (e : Block) (rs : List TimedRec)
    (hk : Keeps s₀ s) : Keeps s₀ (State.renderReadAccess s e rs) := by
  unfold State.renderReadAccess
  try dsimp only
  repeat' first
    | with_reducible exact hk | with_reducible assumption | with_reducible apply renderLetsGo_keeps | with_reducible apply renderNextBlock_keeps
    | with_reducible apply renderProgress_keeps | with_reducible apply keeps_ite
    | (with_reducible refine keeps_foldl _ ?_ _ _ _ ?_; intro _ _ _ _; beta_reduce) | with_reducible exact id | with_reducible rfl
    | (simp only [putAt_length, List.length_map]; done) | (intro hw; simp [hw, takeAccess]; done) | (intro hw; exact hw) | split
    | with_reducible apply keeps_mk
    | dsimp only

theorem renderAccess_keeps {s₀ : State} (s : State) (hk : Keeps s₀ s) : Keeps s₀ (State.renderAccess s) := by
  unfold State.renderAccess
  try dsimp only
  repeat' first
    | with_reducible exact hk | with_reducible assumption | with_reducible apply renderScanAccess_keeps | with_reducible apply renderReadAccess_keeps
    | with_reducible apply keeps_ite | (with_reducible refine keeps_foldl _ ?_ _ _ _ ?_; intro _ _ _ _; beta_reduce) | with_reducible exact id
    | with_reducible rfl | (simp only [putAt_length, List.length_map]; done) | (intro hw; simp [hw, takeAccess]; done) | (intro hw; exact hw) | split
    | with_reducible apply keeps_mk
    | dsimp only

theorem genStart_keeps {s₀ : State} (s : State) (hk : Keeps s₀ s) : Keeps s₀ (State.genStart s) := by
  unfold State.genStart
  try dsimp only
  repeat' first
    | with_reducible apply Report.handing_image
    | with_reducible exact hk | with_reducible assumption | with_reducible apply trigger_keeps | with_reducible apply keeps_ite
    | (with_reducible refine keeps_foldl _ ?_ _ _ _ ?_; intro _ _ _ _; beta_reduce) | with_reducible exact id | with_reducible rfl
    | (simp only [putAt_length, List.length_map]; done) | (intro hw; simp [hw, takeAccess]; done) | (intro hw; exact hw) | split
    | with_reducible apply keeps_mk
    | dsimp only

theorem genOpen_keeps {s₀ : State} (s : State) (hk : Keeps s₀ s) : Keeps s₀ (State.genOpen s) := by
  unfold State.genOpen
  try dsimp only
  repeat' first
    | with_reducible exact hk | with_reducible assumption | with_reducible apply writeHeader_keeps | with_reducible apply renderPosition_keeps
    | with_reducible apply keeps_ite | (with_reducible refine keeps_foldl _ ?_ _ _ _ ?_; intro _ _ _ _; beta_reduce) | with_reducible exact id
    | with_reducible rfl | (simp only [putAt_length, List.length_map]; done) | (intro hw; simp [hw, takeAccess]; done) | (intro hw; exact hw) | split
    | with_reducible apply keeps_mk
    | dsimp only

theorem genDone_keeps {s₀ : State} (s : State) (out stale : Bool) (hk : Keeps s₀ s) : Keeps s₀ (State.genDone s out stale) := by
  unfold State.genDone
  try dsimp only
  repeat' first
    | with_reducible apply Report.handing_image
    | with_reducible exact hk | with_reducible assumption | with_reducible apply keeps_ite
    | (with_reducible refine keeps_foldl _ ?_ _ _ _ ?_; intro _ _ _ _; beta_reduce) | with_reducible exact id | with_reducible rfl
    | (simp only [putAt_length, List.length_map]; done) | (intro hw; simp [hw, takeAccess]; done) | (intro hw; exact hw) | split
    | with_reducible apply keeps_mk
    | dsimp only

theorem genClose_keeps {s₀ : State} (s : State) (hk : Keeps s₀ s) : Keeps s₀ (State.genClose s) := by
  unfold State.genClose
  try dsimp only
  repeat' first
    | with_reducible exact hk | with_reducible assumption | with_reducible apply genDone_keeps | with_reducible apply writeColumns_keeps
    | with_reducible apply writeHeader_keeps | with_reducible apply endRender_keeps | with_reducible apply keeps_ite
    | (with_reducible refine keeps_foldl _ ?_ _ _ _ ?_; intro _ _ _ _; beta_reduce) | with_reducible exact id | with_reducible rfl
    | (simp only [putAt_length, List.length_map]; done) | (intro hw; simp [hw, takeAccess]; done) | (intro hw; exact hw) | split
    | with_reducible apply keeps_mk
    | dsimp only

theorem renderRun_keeps {s₀ : State} (s : State) (fuel : Nat) (hk : Keeps s₀ s) : Keeps s₀ (State.renderRun s fuel) := by
  induction fuel generalizing s with
  | zero => exact hk
  | succ n ih =>
    unfold State.renderRun
    refine keeps_ite hk ?_
    split
    · exact hk
    · exact keeps_ite hk (ih _ (genClose_keeps _ hk))
    · exact keeps_ite (ih _ (keeps_ite (genOpen_keeps _ (genStart_keeps _ hk)) (genStart_keeps _ hk))) hk

theorem renderRecheck_keeps {s₀ : State} (s : State) (hk : Keeps s₀ s) : Keeps s₀ (State.renderRecheck s) := by
  unfold State.renderRecheck
  try dsimp only
  repeat' first
    | with_reducible exact hk | with_reducible assumption | with_reducible apply renderRun_keeps | with_reducible apply genOpen_keeps
    | with_reducible apply keeps_ite | (with_reducible refine keeps_foldl _ ?_ _ _ _ ?_; intro _ _ _ _; beta_reduce) | with_reducible exact id
    | with_reducible rfl | (simp only [putAt_length, List.length_map]; done) | (intro hw; simp [hw, takeAccess]; done) | (intro hw; exact hw) | split
    | with_reducible apply keeps_mk
    | dsimp only

theorem renderSeal_keeps {s₀ : State} (s : State) (id : Nat) (hk : Keeps s₀ s) : Keeps s₀ (State.renderSeal s id) := by
  unfold State.renderSeal
  try dsimp only
  repeat' first
    | with_reducible exact hk | with_reducible assumption | with_reducible apply renderRun_keeps | with_reducible apply keeps_ite
    | (with_reducible refine keeps_foldl _ ?_ _ _ _ ?_; intro _ _ _ _; beta_reduce) | with_reducible exact id | with_reducible rfl
    | (simp only [putAt_length, List.length_map]; done) | (intro hw; simp [hw, takeAccess]; done) | (intro hw; exact hw) | split
    | with_reducible apply keeps_mk
    | dsimp only

theorem renderFinal_keeps {s₀ : State} (s : State) (id : Nat) (hk : Keeps s₀ s) : Keeps s₀ (State.renderFinal s id) := by
  unfold State.renderFinal
  try dsimp only
  repeat' first
    | with_reducible exact hk | with_reducible assumption | with_reducible apply renderRun_keeps | with_reducible apply keeps_ite
    | (with_reducible refine keeps_foldl _ ?_ _ _ _ ?_; intro _ _ _ _; beta_reduce) | with_reducible exact id | with_reducible rfl
    | (simp only [putAt_length, List.length_map]; done) | (intro hw; simp [hw, takeAccess]; done) | (intro hw; exact hw) | split
    | with_reducible apply keeps_mk
    | dsimp only

theorem renderAccessed_keeps {s₀ : State} (s : State) (hk : Keeps s₀ s) : Keeps s₀ (State.renderAccessed s) := by
  unfold State.renderAccessed
  try dsimp only
  repeat' first
    | with_reducible exact hk | with_reducible assumption | with_reducible apply renderRun_keeps | with_reducible apply renderAccess_keeps
    | with_reducible apply keeps_ite | (with_reducible refine keeps_foldl _ ?_ _ _ _ ?_; intro _ _ _ _; beta_reduce) | with_reducible exact id
    | with_reducible rfl | (simp only [putAt_length, List.length_map]; done) | (intro hw; simp [hw, takeAccess]; done) | (intro hw; exact hw) | split
    | with_reducible apply keeps_mk
    | dsimp only

theorem renderResume_keeps {s₀ : State} (s : State) (hk : Keeps s₀ s) : Keeps s₀ (State.renderResume s) := by
  unfold State.renderResume
  try dsimp only
  repeat' first
    | with_reducible exact hk | with_reducible assumption | with_reducible apply renderRun_keeps | with_reducible apply renderPosition_keeps
    | with_reducible apply keeps_ite | (with_reducible refine keeps_foldl _ ?_ _ _ _ ?_; intro _ _ _ _; beta_reduce) | with_reducible exact id
    | with_reducible rfl | (simp only [putAt_length, List.length_map]; done) | (intro hw; simp [hw, takeAccess]; done) | (intro hw; exact hw) | split
    | with_reducible apply keeps_mk
    | dsimp only

theorem revoke_keeps {s₀ : State} (s : State) (b : Nat) (hk : Keeps s₀ s) : Keeps s₀ (State.revoke s b) := by
  unfold State.revoke
  split
  · exact hk
  · exact hk.upd rfl rfl rfl id (fun h => Pool.setBlock_partitioned _ _ _ h) rfl rfl rfl rfl id

theorem renderAfterDrop_keeps {s₀ : State} (s : State) (hk : Keeps s₀ s) : Keeps s₀ (State.renderAfterDrop s) := by
  unfold State.renderAfterDrop
  try dsimp only
  repeat' first
    | with_reducible exact hk | with_reducible assumption | with_reducible apply renderRun_keeps | with_reducible apply renderPosition_keeps
    | with_reducible apply keeps_ite | (with_reducible refine keeps_foldl _ ?_ _ _ _ ?_; intro _ _ _ _; beta_reduce) | with_reducible exact id
    | with_reducible rfl | (simp only [putAt_length, List.length_map]; done) | (intro hw; simp [hw, takeAccess]; done) | (intro hw; exact hw) | split
    | with_reducible apply keeps_mk
    | dsimp only

theorem renderStart_keeps {s₀ : State} (s : State) (o : OrderRef) (p : RenderP) (i : Nat)
    (hk : Keeps s₀ s) : Keeps s₀ (State.renderStart s o p i) := by
  unfold State.renderStart
  try dsimp only
  repeat' first
    | with_reducible exact hk | with_reducible assumption | with_reducible apply renderRun_keeps | with_reducible apply genOpen_keeps
    | with_reducible apply genStart_keeps | with_reducible apply keeps_ite
    | (with_reducible refine keeps_foldl _ ?_ _ _ _ ?_; intro _ _ _ _; beta_reduce) | with_reducible exact id | with_reducible rfl
    | (simp only [putAt_length, List.length_map]; done) | (intro hw; simp [hw, takeAccess]; done) | (intro hw; exact hw) | split
    | with_reducible apply keeps_mk
    | dsimp only

theorem renderOrder_keeps {s₀ : State} (o : OrderRef) (p : RenderP) (s : State) (hk : Keeps s₀ s) : Keeps s₀ (renderOrder o p s).state := by
  unfold renderOrder
  try dsimp only
  repeat' first
    | with_reducible exact hk | with_reducible assumption | with_reducible apply inFlight_keeps | with_reducible apply refuse_keeps
    | with_reducible apply renderStart_keeps | with_reducible apply endRender_keeps | with_reducible apply keeps_ite
    | (with_reducible refine keeps_foldl _ ?_ _ _ _ ?_; intro _ _ _ _; beta_reduce) | with_reducible exact id | with_reducible rfl
    | (simp only [putAt_length, List.length_map]; done) | (intro hw; simp [hw, takeAccess]; done) | (intro hw; exact hw) | split
    | with_reducible apply keeps_mk
    | dsimp only

end Sys2Proof.Machine
end

