-- ==== Sys2Proof/Laws/State.lean ====
section
/-! SUPPORT. Laws/State.lean: for every update of the state, the fields it leaves alone, one lemma each, true by rfl but for two at the end. -/

set_option Elab.async false

namespace Sys2Proof.Machine

@[simp] theorem raise_tick (s : State) (c : Cause) : (s.raise c).tick = s.tick := rfl
@[simp] theorem raise_wraps (s : State) (c : Cause) : (s.raise c).wraps = s.wraps := rfl
@[simp] theorem raise_disp (s : State) (c : Cause) : (s.raise c).disp = s.disp := rfl
@[simp] theorem raise_report (s : State) (c : Cause) : (s.raise c).report = s.report := rfl
@[simp] theorem raise_pods (s : State) (c : Cause) : (s.raise c).pods = s.pods := rfl
@[simp] theorem raise_monitor (s : State) (c : Cause) : (s.raise c).monitor = s.monitor := rfl
@[simp] theorem raise_gens (s : State) (c : Cause) : (s.raise c).gens = s.gens := rfl
@[simp] theorem raise_chain01 (s : State) (c : Cause) : (s.raise c).chain01 = s.chain01 := rfl
@[simp] theorem raise_chain23 (s : State) (c : Cause) : (s.raise c).chain23 = s.chain23 := rfl
@[simp] theorem raise_sampler (s : State) (c : Cause) : (s.raise c).sampler = s.sampler := rfl
@[simp] theorem raise_staging (s : State) (c : Cause) : (s.raise c).staging = s.staging := rfl
@[simp] theorem raise_writer (s : State) (c : Cause) : (s.raise c).writer = s.writer := rfl
@[simp] theorem raise_pool (s : State) (c : Cause) : (s.raise c).pool = s.pool := rfl
@[simp] theorem raise_takes (s : State) (c : Cause) : (s.raise c).takes = s.takes := rfl
@[simp] theorem raise_seq (s : State) (c : Cause) : (s.raise c).seq = s.seq := rfl
@[simp] theorem raise_lanes (s : State) (c : Cause) : (s.raise c).lanes = s.lanes := rfl
@[simp] theorem raise_slots (s : State) (c : Cause) : (s.raise c).slots = s.slots := rfl
@[simp] theorem raise_replay (s : State) (c : Cause) : (s.raise c).replay = s.replay := rfl
@[simp] theorem raise_exporter (s : State) (c : Cause) : (s.raise c).exporter = s.exporter := rfl
@[simp] theorem raise_render (s : State) (c : Cause) : (s.raise c).render = s.render := rfl
@[simp] theorem raise_panel (s : State) (c : Cause) : (s.raise c).panel = s.panel := rfl
@[simp] theorem raise_shared (s : State) (c : Cause) : (s.raise c).shared = s.shared := rfl
@[simp] theorem raise_failPlan (s : State) (c : Cause) : (s.raise c).failPlan = s.failPlan := rfl
@[simp] theorem raise_pending (s : State) (c : Cause) : (s.raise c).pending = s.pending := rfl

@[simp] theorem raiseIf_tick (s : State) (x : Bool) (c : Cause) : (s.raiseIf x c).tick = s.tick := rfl
@[simp] theorem raiseIf_wraps (s : State) (x : Bool) (c : Cause) : (s.raiseIf x c).wraps = s.wraps := rfl
@[simp] theorem raiseIf_disp (s : State) (x : Bool) (c : Cause) : (s.raiseIf x c).disp = s.disp := rfl
@[simp] theorem raiseIf_report (s : State) (x : Bool) (c : Cause) : (s.raiseIf x c).report = s.report := rfl
@[simp] theorem raiseIf_pods (s : State) (x : Bool) (c : Cause) : (s.raiseIf x c).pods = s.pods := rfl
@[simp] theorem raiseIf_monitor (s : State) (x : Bool) (c : Cause) : (s.raiseIf x c).monitor = s.monitor := rfl
@[simp] theorem raiseIf_gens (s : State) (x : Bool) (c : Cause) : (s.raiseIf x c).gens = s.gens := rfl
@[simp] theorem raiseIf_chain01 (s : State) (x : Bool) (c : Cause) : (s.raiseIf x c).chain01 = s.chain01 := rfl
@[simp] theorem raiseIf_chain23 (s : State) (x : Bool) (c : Cause) : (s.raiseIf x c).chain23 = s.chain23 := rfl
@[simp] theorem raiseIf_sampler (s : State) (x : Bool) (c : Cause) : (s.raiseIf x c).sampler = s.sampler := rfl
@[simp] theorem raiseIf_staging (s : State) (x : Bool) (c : Cause) : (s.raiseIf x c).staging = s.staging := rfl
@[simp] theorem raiseIf_writer (s : State) (x : Bool) (c : Cause) : (s.raiseIf x c).writer = s.writer := rfl
@[simp] theorem raiseIf_pool (s : State) (x : Bool) (c : Cause) : (s.raiseIf x c).pool = s.pool := rfl
@[simp] theorem raiseIf_takes (s : State) (x : Bool) (c : Cause) : (s.raiseIf x c).takes = s.takes := rfl
@[simp] theorem raiseIf_seq (s : State) (x : Bool) (c : Cause) : (s.raiseIf x c).seq = s.seq := rfl
@[simp] theorem raiseIf_lanes (s : State) (x : Bool) (c : Cause) : (s.raiseIf x c).lanes = s.lanes := rfl
@[simp] theorem raiseIf_slots (s : State) (x : Bool) (c : Cause) : (s.raiseIf x c).slots = s.slots := rfl
@[simp] theorem raiseIf_replay (s : State) (x : Bool) (c : Cause) : (s.raiseIf x c).replay = s.replay := rfl
@[simp] theorem raiseIf_exporter (s : State) (x : Bool) (c : Cause) : (s.raiseIf x c).exporter = s.exporter := rfl
@[simp] theorem raiseIf_render (s : State) (x : Bool) (c : Cause) : (s.raiseIf x c).render = s.render := rfl
@[simp] theorem raiseIf_panel (s : State) (x : Bool) (c : Cause) : (s.raiseIf x c).panel = s.panel := rfl
@[simp] theorem raiseIf_shared (s : State) (x : Bool) (c : Cause) : (s.raiseIf x c).shared = s.shared := rfl
@[simp] theorem raiseIf_failPlan (s : State) (x : Bool) (c : Cause) : (s.raiseIf x c).failPlan = s.failPlan := rfl
@[simp] theorem raiseIf_pending (s : State) (x : Bool) (c : Cause) : (s.raiseIf x c).pending = s.pending := rfl

@[simp] theorem accessed_tick (s : State) (a : LinkAccess) : (s.accessed a).tick = s.tick := rfl
@[simp] theorem accessed_wraps (s : State) (a : LinkAccess) : (s.accessed a).wraps = s.wraps := rfl
@[simp] theorem accessed_disp (s : State) (a : LinkAccess) : (s.accessed a).disp = s.disp := rfl
@[simp] theorem accessed_alerts (s : State) (a : LinkAccess) : (s.accessed a).alerts = s.alerts := rfl
@[simp] theorem accessed_report (s : State) (a : LinkAccess) : (s.accessed a).report = s.report := rfl
@[simp] theorem accessed_pods (s : State) (a : LinkAccess) : (s.accessed a).pods = s.pods := rfl
@[simp] theorem accessed_monitor (s : State) (a : LinkAccess) : (s.accessed a).monitor = s.monitor := rfl
@[simp] theorem accessed_gens (s : State) (a : LinkAccess) : (s.accessed a).gens = s.gens := rfl
@[simp] theorem accessed_chain01 (s : State) (a : LinkAccess) : (s.accessed a).chain01 = s.chain01 := rfl
@[simp] theorem accessed_chain23 (s : State) (a : LinkAccess) : (s.accessed a).chain23 = s.chain23 := rfl
@[simp] theorem accessed_sampler (s : State) (a : LinkAccess) : (s.accessed a).sampler = s.sampler := rfl
@[simp] theorem accessed_staging (s : State) (a : LinkAccess) : (s.accessed a).staging = s.staging := rfl
@[simp] theorem accessed_writer (s : State) (a : LinkAccess) : (s.accessed a).writer = s.writer := rfl
@[simp] theorem accessed_pool (s : State) (a : LinkAccess) : (s.accessed a).pool = s.pool := rfl
@[simp] theorem accessed_takes (s : State) (a : LinkAccess) : (s.accessed a).takes = s.takes := rfl
@[simp] theorem accessed_seq (s : State) (a : LinkAccess) : (s.accessed a).seq = s.seq := rfl
@[simp] theorem accessed_lanes (s : State) (a : LinkAccess) : (s.accessed a).lanes = s.lanes := rfl
@[simp] theorem accessed_slots (s : State) (a : LinkAccess) : (s.accessed a).slots = s.slots := rfl
@[simp] theorem accessed_replay (s : State) (a : LinkAccess) : (s.accessed a).replay = s.replay := rfl
@[simp] theorem accessed_exporter (s : State) (a : LinkAccess) : (s.accessed a).exporter = s.exporter := rfl
@[simp] theorem accessed_render (s : State) (a : LinkAccess) : (s.accessed a).render = s.render := rfl
@[simp] theorem accessed_panel (s : State) (a : LinkAccess) : (s.accessed a).panel = s.panel := rfl
@[simp] theorem accessed_shared (s : State) (a : LinkAccess) : (s.accessed a).shared = s.shared := rfl
@[simp] theorem accessed_pending (s : State) (a : LinkAccess) : (s.accessed a).pending = s.pending := rfl

@[simp] theorem hostStores_tick (s : State) (stores : List HostStore) : (s.hostStores stores).tick = s.tick := rfl
@[simp] theorem hostStores_wraps (s : State) (stores : List HostStore) : (s.hostStores stores).wraps = s.wraps := rfl
@[simp] theorem hostStores_disp (s : State) (stores : List HostStore) : (s.hostStores stores).disp = s.disp := rfl
@[simp] theorem hostStores_alerts (s : State) (stores : List HostStore) : (s.hostStores stores).alerts = s.alerts := rfl
@[simp] theorem hostStores_report (s : State) (stores : List HostStore) : (s.hostStores stores).report = s.report := rfl
@[simp] theorem hostStores_pods (s : State) (stores : List HostStore) : (s.hostStores stores).pods = s.pods := rfl
@[simp] theorem hostStores_monitor (s : State) (stores : List HostStore) : (s.hostStores stores).monitor = s.monitor := rfl
@[simp] theorem hostStores_gens (s : State) (stores : List HostStore) : (s.hostStores stores).gens = s.gens := rfl
@[simp] theorem hostStores_chain01 (s : State) (stores : List HostStore) : (s.hostStores stores).chain01 = s.chain01 := rfl
@[simp] theorem hostStores_chain23 (s : State) (stores : List HostStore) : (s.hostStores stores).chain23 = s.chain23 := rfl
@[simp] theorem hostStores_sampler (s : State) (stores : List HostStore) : (s.hostStores stores).sampler = s.sampler := rfl
@[simp] theorem hostStores_staging (s : State) (stores : List HostStore) : (s.hostStores stores).staging = s.staging := rfl
@[simp] theorem hostStores_writer (s : State) (stores : List HostStore) : (s.hostStores stores).writer = s.writer := rfl
@[simp] theorem hostStores_pool (s : State) (stores : List HostStore) : (s.hostStores stores).pool = s.pool := rfl
@[simp] theorem hostStores_takes (s : State) (stores : List HostStore) : (s.hostStores stores).takes = s.takes := rfl
@[simp] theorem hostStores_seq (s : State) (stores : List HostStore) : (s.hostStores stores).seq = s.seq := rfl
@[simp] theorem hostStores_lanes (s : State) (stores : List HostStore) : (s.hostStores stores).lanes = s.lanes := rfl
@[simp] theorem hostStores_slots (s : State) (stores : List HostStore) : (s.hostStores stores).slots = s.slots := rfl
@[simp] theorem hostStores_replay (s : State) (stores : List HostStore) : (s.hostStores stores).replay = s.replay := rfl
@[simp] theorem hostStores_exporter (s : State) (stores : List HostStore) : (s.hostStores stores).exporter = s.exporter := rfl
@[simp] theorem hostStores_render (s : State) (stores : List HostStore) : (s.hostStores stores).render = s.render := rfl
@[simp] theorem hostStores_panel (s : State) (stores : List HostStore) : (s.hostStores stores).panel = s.panel := rfl
@[simp] theorem hostStores_failPlan (s : State) (stores : List HostStore) : (s.hostStores stores).failPlan = s.failPlan := rfl
@[simp] theorem hostStores_pending (s : State) (stores : List HostStore) : (s.hostStores stores).pending = s.pending := rfl

@[simp] theorem linkHalt_tick (s : State) : (s.linkHalt).tick = s.tick := rfl
@[simp] theorem linkHalt_wraps (s : State) : (s.linkHalt).wraps = s.wraps := rfl
@[simp] theorem linkHalt_report (s : State) : (s.linkHalt).report = s.report := rfl
@[simp] theorem linkHalt_pods (s : State) : (s.linkHalt).pods = s.pods := rfl
@[simp] theorem linkHalt_monitor (s : State) : (s.linkHalt).monitor = s.monitor := rfl
@[simp] theorem linkHalt_gens (s : State) : (s.linkHalt).gens = s.gens := rfl
@[simp] theorem linkHalt_chain01 (s : State) : (s.linkHalt).chain01 = s.chain01 := rfl
@[simp] theorem linkHalt_chain23 (s : State) : (s.linkHalt).chain23 = s.chain23 := rfl
@[simp] theorem linkHalt_sampler (s : State) : (s.linkHalt).sampler = s.sampler := rfl
@[simp] theorem linkHalt_staging (s : State) : (s.linkHalt).staging = s.staging := rfl
@[simp] theorem linkHalt_writer (s : State) : (s.linkHalt).writer = s.writer := rfl
@[simp] theorem linkHalt_pool (s : State) : (s.linkHalt).pool = s.pool := rfl
@[simp] theorem linkHalt_takes (s : State) : (s.linkHalt).takes = s.takes := rfl
@[simp] theorem linkHalt_seq (s : State) : (s.linkHalt).seq = s.seq := rfl
@[simp] theorem linkHalt_lanes (s : State) : (s.linkHalt).lanes = s.lanes := rfl
@[simp] theorem linkHalt_slots (s : State) : (s.linkHalt).slots = s.slots := rfl
@[simp] theorem linkHalt_replay (s : State) : (s.linkHalt).replay = s.replay := rfl
@[simp] theorem linkHalt_exporter (s : State) : (s.linkHalt).exporter = s.exporter := rfl
@[simp] theorem linkHalt_render (s : State) : (s.linkHalt).render = s.render := rfl
@[simp] theorem linkHalt_panel (s : State) : (s.linkHalt).panel = s.panel := rfl
@[simp] theorem linkHalt_shared (s : State) : (s.linkHalt).shared = s.shared := rfl
@[simp] theorem linkHalt_failPlan (s : State) : (s.linkHalt).failPlan = s.failPlan := rfl
@[simp] theorem linkHalt_pending (s : State) : (s.linkHalt).pending = s.pending := rfl

@[simp] theorem completeAs_tick (s : State) (o : OrderRef) (kind : OrderKind) (oc : Outcome) (r : List Word64) (x : Bool) : (s.completeAs o kind oc r x).tick = s.tick := rfl
@[simp] theorem completeAs_wraps (s : State) (o : OrderRef) (kind : OrderKind) (oc : Outcome) (r : List Word64) (x : Bool) : (s.completeAs o kind oc r x).wraps = s.wraps := rfl
@[simp] theorem completeAs_report (s : State) (o : OrderRef) (kind : OrderKind) (oc : Outcome) (r : List Word64) (x : Bool) : (s.completeAs o kind oc r x).report = s.report := rfl
@[simp] theorem completeAs_pods (s : State) (o : OrderRef) (kind : OrderKind) (oc : Outcome) (r : List Word64) (x : Bool) : (s.completeAs o kind oc r x).pods = s.pods := rfl
@[simp] theorem completeAs_monitor (s : State) (o : OrderRef) (kind : OrderKind) (oc : Outcome) (r : List Word64) (x : Bool) : (s.completeAs o kind oc r x).monitor = s.monitor := rfl
@[simp] theorem completeAs_gens (s : State) (o : OrderRef) (kind : OrderKind) (oc : Outcome) (r : List Word64) (x : Bool) : (s.completeAs o kind oc r x).gens = s.gens := rfl
@[simp] theorem completeAs_chain01 (s : State) (o : OrderRef) (kind : OrderKind) (oc : Outcome) (r : List Word64) (x : Bool) : (s.completeAs o kind oc r x).chain01 = s.chain01 := rfl
@[simp] theorem completeAs_chain23 (s : State) (o : OrderRef) (kind : OrderKind) (oc : Outcome) (r : List Word64) (x : Bool) : (s.completeAs o kind oc r x).chain23 = s.chain23 := rfl
@[simp] theorem completeAs_sampler (s : State) (o : OrderRef) (kind : OrderKind) (oc : Outcome) (r : List Word64) (x : Bool) : (s.completeAs o kind oc r x).sampler = s.sampler := rfl
@[simp] theorem completeAs_staging (s : State) (o : OrderRef) (kind : OrderKind) (oc : Outcome) (r : List Word64) (x : Bool) : (s.completeAs o kind oc r x).staging = s.staging := rfl
@[simp] theorem completeAs_writer (s : State) (o : OrderRef) (kind : OrderKind) (oc : Outcome) (r : List Word64) (x : Bool) : (s.completeAs o kind oc r x).writer = s.writer := rfl
@[simp] theorem completeAs_pool (s : State) (o : OrderRef) (kind : OrderKind) (oc : Outcome) (r : List Word64) (x : Bool) : (s.completeAs o kind oc r x).pool = s.pool := rfl
@[simp] theorem completeAs_takes (s : State) (o : OrderRef) (kind : OrderKind) (oc : Outcome) (r : List Word64) (x : Bool) : (s.completeAs o kind oc r x).takes = s.takes := rfl
@[simp] theorem completeAs_seq (s : State) (o : OrderRef) (kind : OrderKind) (oc : Outcome) (r : List Word64) (x : Bool) : (s.completeAs o kind oc r x).seq = s.seq := rfl
@[simp] theorem completeAs_lanes (s : State) (o : OrderRef) (kind : OrderKind) (oc : Outcome) (r : List Word64) (x : Bool) : (s.completeAs o kind oc r x).lanes = s.lanes := rfl
@[simp] theorem completeAs_slots (s : State) (o : OrderRef) (kind : OrderKind) (oc : Outcome) (r : List Word64) (x : Bool) : (s.completeAs o kind oc r x).slots = s.slots := rfl
@[simp] theorem completeAs_replay (s : State) (o : OrderRef) (kind : OrderKind) (oc : Outcome) (r : List Word64) (x : Bool) : (s.completeAs o kind oc r x).replay = s.replay := rfl
@[simp] theorem completeAs_exporter (s : State) (o : OrderRef) (kind : OrderKind) (oc : Outcome) (r : List Word64) (x : Bool) : (s.completeAs o kind oc r x).exporter = s.exporter := rfl
@[simp] theorem completeAs_render (s : State) (o : OrderRef) (kind : OrderKind) (oc : Outcome) (r : List Word64) (x : Bool) : (s.completeAs o kind oc r x).render = s.render := rfl
@[simp] theorem completeAs_panel (s : State) (o : OrderRef) (kind : OrderKind) (oc : Outcome) (r : List Word64) (x : Bool) : (s.completeAs o kind oc r x).panel = s.panel := rfl
@[simp] theorem completeAs_pending (s : State) (o : OrderRef) (kind : OrderKind) (oc : Outcome) (r : List Word64) (x : Bool) : (s.completeAs o kind oc r x).pending = s.pending := rfl

@[simp] theorem complete_tick (s : State) (o : OrderRef) (kind : OrderKind) (oc : Outcome) (r : List Word64) : (s.complete o kind oc r).tick = s.tick := rfl
@[simp] theorem complete_wraps (s : State) (o : OrderRef) (kind : OrderKind) (oc : Outcome) (r : List Word64) : (s.complete o kind oc r).wraps = s.wraps := rfl
@[simp] theorem complete_report (s : State) (o : OrderRef) (kind : OrderKind) (oc : Outcome) (r : List Word64) : (s.complete o kind oc r).report = s.report := rfl
@[simp] theorem complete_pods (s : State) (o : OrderRef) (kind : OrderKind) (oc : Outcome) (r : List Word64) : (s.complete o kind oc r).pods = s.pods := rfl
@[simp] theorem complete_monitor (s : State) (o : OrderRef) (kind : OrderKind) (oc : Outcome) (r : List Word64) : (s.complete o kind oc r).monitor = s.monitor := rfl
@[simp] theorem complete_gens (s : State) (o : OrderRef) (kind : OrderKind) (oc : Outcome) (r : List Word64) : (s.complete o kind oc r).gens = s.gens := rfl
@[simp] theorem complete_chain01 (s : State) (o : OrderRef) (kind : OrderKind) (oc : Outcome) (r : List Word64) : (s.complete o kind oc r).chain01 = s.chain01 := rfl
@[simp] theorem complete_chain23 (s : State) (o : OrderRef) (kind : OrderKind) (oc : Outcome) (r : List Word64) : (s.complete o kind oc r).chain23 = s.chain23 := rfl
@[simp] theorem complete_sampler (s : State) (o : OrderRef) (kind : OrderKind) (oc : Outcome) (r : List Word64) : (s.complete o kind oc r).sampler = s.sampler := rfl
@[simp] theorem complete_staging (s : State) (o : OrderRef) (kind : OrderKind) (oc : Outcome) (r : List Word64) : (s.complete o kind oc r).staging = s.staging := rfl
@[simp] theorem complete_writer (s : State) (o : OrderRef) (kind : OrderKind) (oc : Outcome) (r : List Word64) : (s.complete o kind oc r).writer = s.writer := rfl
@[simp] theorem complete_pool (s : State) (o : OrderRef) (kind : OrderKind) (oc : Outcome) (r : List Word64) : (s.complete o kind oc r).pool = s.pool := rfl
@[simp] theorem complete_takes (s : State) (o : OrderRef) (kind : OrderKind) (oc : Outcome) (r : List Word64) : (s.complete o kind oc r).takes = s.takes := rfl
@[simp] theorem complete_seq (s : State) (o : OrderRef) (kind : OrderKind) (oc : Outcome) (r : List Word64) : (s.complete o kind oc r).seq = s.seq := rfl
@[simp] theorem complete_lanes (s : State) (o : OrderRef) (kind : OrderKind) (oc : Outcome) (r : List Word64) : (s.complete o kind oc r).lanes = s.lanes := rfl
@[simp] theorem complete_slots (s : State) (o : OrderRef) (kind : OrderKind) (oc : Outcome) (r : List Word64) : (s.complete o kind oc r).slots = s.slots := rfl
@[simp] theorem complete_replay (s : State) (o : OrderRef) (kind : OrderKind) (oc : Outcome) (r : List Word64) : (s.complete o kind oc r).replay = s.replay := rfl
@[simp] theorem complete_exporter (s : State) (o : OrderRef) (kind : OrderKind) (oc : Outcome) (r : List Word64) : (s.complete o kind oc r).exporter = s.exporter := rfl
@[simp] theorem complete_render (s : State) (o : OrderRef) (kind : OrderKind) (oc : Outcome) (r : List Word64) : (s.complete o kind oc r).render = s.render := rfl
@[simp] theorem complete_panel (s : State) (o : OrderRef) (kind : OrderKind) (oc : Outcome) (r : List Word64) : (s.complete o kind oc r).panel = s.panel := rfl
@[simp] theorem complete_pending (s : State) (o : OrderRef) (kind : OrderKind) (oc : Outcome) (r : List Word64) : (s.complete o kind oc r).pending = s.pending := rfl

@[simp] theorem setTake_tick (s : State) (i : Nat) (t : Take) : (s.setTake i t).tick = s.tick := rfl
@[simp] theorem setTake_wraps (s : State) (i : Nat) (t : Take) : (s.setTake i t).wraps = s.wraps := rfl
@[simp] theorem setTake_disp (s : State) (i : Nat) (t : Take) : (s.setTake i t).disp = s.disp := rfl
@[simp] theorem setTake_alerts (s : State) (i : Nat) (t : Take) : (s.setTake i t).alerts = s.alerts := rfl
@[simp] theorem setTake_report (s : State) (i : Nat) (t : Take) : (s.setTake i t).report = s.report := rfl
@[simp] theorem setTake_pods (s : State) (i : Nat) (t : Take) : (s.setTake i t).pods = s.pods := rfl
@[simp] theorem setTake_monitor (s : State) (i : Nat) (t : Take) : (s.setTake i t).monitor = s.monitor := rfl
@[simp] theorem setTake_gens (s : State) (i : Nat) (t : Take) : (s.setTake i t).gens = s.gens := rfl
@[simp] theorem setTake_chain01 (s : State) (i : Nat) (t : Take) : (s.setTake i t).chain01 = s.chain01 := rfl
@[simp] theorem setTake_chain23 (s : State) (i : Nat) (t : Take) : (s.setTake i t).chain23 = s.chain23 := rfl
@[simp] theorem setTake_sampler (s : State) (i : Nat) (t : Take) : (s.setTake i t).sampler = s.sampler := rfl
@[simp] theorem setTake_staging (s : State) (i : Nat) (t : Take) : (s.setTake i t).staging = s.staging := rfl
@[simp] theorem setTake_writer (s : State) (i : Nat) (t : Take) : (s.setTake i t).writer = s.writer := rfl
@[simp] theorem setTake_pool (s : State) (i : Nat) (t : Take) : (s.setTake i t).pool = s.pool := rfl
@[simp] theorem setTake_seq (s : State) (i : Nat) (t : Take) : (s.setTake i t).seq = s.seq := rfl
@[simp] theorem setTake_lanes (s : State) (i : Nat) (t : Take) : (s.setTake i t).lanes = s.lanes := rfl
@[simp] theorem setTake_slots (s : State) (i : Nat) (t : Take) : (s.setTake i t).slots = s.slots := rfl
@[simp] theorem setTake_replay (s : State) (i : Nat) (t : Take) : (s.setTake i t).replay = s.replay := rfl
@[simp] theorem setTake_exporter (s : State) (i : Nat) (t : Take) : (s.setTake i t).exporter = s.exporter := rfl
@[simp] theorem setTake_render (s : State) (i : Nat) (t : Take) : (s.setTake i t).render = s.render := rfl
@[simp] theorem setTake_panel (s : State) (i : Nat) (t : Take) : (s.setTake i t).panel = s.panel := rfl
@[simp] theorem setTake_shared (s : State) (i : Nat) (t : Take) : (s.setTake i t).shared = s.shared := rfl
@[simp] theorem setTake_failPlan (s : State) (i : Nat) (t : Take) : (s.setTake i t).failPlan = s.failPlan := rfl
@[simp] theorem setTake_pending (s : State) (i : Nat) (t : Take) : (s.setTake i t).pending = s.pending := rfl

@[simp] theorem setPodAt_tick (s : State) (p : Fin 4) (x : Pod) : (s.setPodAt p x).tick = s.tick := rfl
@[simp] theorem setPodAt_wraps (s : State) (p : Fin 4) (x : Pod) : (s.setPodAt p x).wraps = s.wraps := rfl
@[simp] theorem setPodAt_disp (s : State) (p : Fin 4) (x : Pod) : (s.setPodAt p x).disp = s.disp := rfl
@[simp] theorem setPodAt_alerts (s : State) (p : Fin 4) (x : Pod) : (s.setPodAt p x).alerts = s.alerts := rfl
@[simp] theorem setPodAt_report (s : State) (p : Fin 4) (x : Pod) : (s.setPodAt p x).report = s.report := rfl
@[simp] theorem setPodAt_monitor (s : State) (p : Fin 4) (x : Pod) : (s.setPodAt p x).monitor = s.monitor := rfl
@[simp] theorem setPodAt_gens (s : State) (p : Fin 4) (x : Pod) : (s.setPodAt p x).gens = s.gens := rfl
@[simp] theorem setPodAt_chain01 (s : State) (p : Fin 4) (x : Pod) : (s.setPodAt p x).chain01 = s.chain01 := rfl
@[simp] theorem setPodAt_chain23 (s : State) (p : Fin 4) (x : Pod) : (s.setPodAt p x).chain23 = s.chain23 := rfl
@[simp] theorem setPodAt_sampler (s : State) (p : Fin 4) (x : Pod) : (s.setPodAt p x).sampler = s.sampler := rfl
@[simp] theorem setPodAt_staging (s : State) (p : Fin 4) (x : Pod) : (s.setPodAt p x).staging = s.staging := rfl
@[simp] theorem setPodAt_writer (s : State) (p : Fin 4) (x : Pod) : (s.setPodAt p x).writer = s.writer := rfl
@[simp] theorem setPodAt_pool (s : State) (p : Fin 4) (x : Pod) : (s.setPodAt p x).pool = s.pool := rfl
@[simp] theorem setPodAt_takes (s : State) (p : Fin 4) (x : Pod) : (s.setPodAt p x).takes = s.takes := rfl
@[simp] theorem setPodAt_seq (s : State) (p : Fin 4) (x : Pod) : (s.setPodAt p x).seq = s.seq := rfl
@[simp] theorem setPodAt_lanes (s : State) (p : Fin 4) (x : Pod) : (s.setPodAt p x).lanes = s.lanes := rfl
@[simp] theorem setPodAt_slots (s : State) (p : Fin 4) (x : Pod) : (s.setPodAt p x).slots = s.slots := rfl
@[simp] theorem setPodAt_replay (s : State) (p : Fin 4) (x : Pod) : (s.setPodAt p x).replay = s.replay := rfl
@[simp] theorem setPodAt_exporter (s : State) (p : Fin 4) (x : Pod) : (s.setPodAt p x).exporter = s.exporter := rfl
@[simp] theorem setPodAt_render (s : State) (p : Fin 4) (x : Pod) : (s.setPodAt p x).render = s.render := rfl
@[simp] theorem setPodAt_panel (s : State) (p : Fin 4) (x : Pod) : (s.setPodAt p x).panel = s.panel := rfl
@[simp] theorem setPodAt_shared (s : State) (p : Fin 4) (x : Pod) : (s.setPodAt p x).shared = s.shared := rfl
@[simp] theorem setPodAt_failPlan (s : State) (p : Fin 4) (x : Pod) : (s.setPodAt p x).failPlan = s.failPlan := rfl
@[simp] theorem setPodAt_pending (s : State) (p : Fin 4) (x : Pod) : (s.setPodAt p x).pending = s.pending := rfl

@[simp] theorem setSource_tick (s : State) (p : Fin 4) (src : FaultSource) (r : SourceRec) : (s.setSource p src r).tick = s.tick := rfl
@[simp] theorem setSource_wraps (s : State) (p : Fin 4) (src : FaultSource) (r : SourceRec) : (s.setSource p src r).wraps = s.wraps := rfl
@[simp] theorem setSource_disp (s : State) (p : Fin 4) (src : FaultSource) (r : SourceRec) : (s.setSource p src r).disp = s.disp := rfl
@[simp] theorem setSource_alerts (s : State) (p : Fin 4) (src : FaultSource) (r : SourceRec) : (s.setSource p src r).alerts = s.alerts := rfl
@[simp] theorem setSource_report (s : State) (p : Fin 4) (src : FaultSource) (r : SourceRec) : (s.setSource p src r).report = s.report := rfl
@[simp] theorem setSource_monitor (s : State) (p : Fin 4) (src : FaultSource) (r : SourceRec) : (s.setSource p src r).monitor = s.monitor := rfl
@[simp] theorem setSource_gens (s : State) (p : Fin 4) (src : FaultSource) (r : SourceRec) : (s.setSource p src r).gens = s.gens := rfl
@[simp] theorem setSource_chain01 (s : State) (p : Fin 4) (src : FaultSource) (r : SourceRec) : (s.setSource p src r).chain01 = s.chain01 := rfl
@[simp] theorem setSource_chain23 (s : State) (p : Fin 4) (src : FaultSource) (r : SourceRec) : (s.setSource p src r).chain23 = s.chain23 := rfl
@[simp] theorem setSource_sampler (s : State) (p : Fin 4) (src : FaultSource) (r : SourceRec) : (s.setSource p src r).sampler = s.sampler := rfl
@[simp] theorem setSource_staging (s : State) (p : Fin 4) (src : FaultSource) (r : SourceRec) : (s.setSource p src r).staging = s.staging := rfl
@[simp] theorem setSource_writer (s : State) (p : Fin 4) (src : FaultSource) (r : SourceRec) : (s.setSource p src r).writer = s.writer := rfl
@[simp] theorem setSource_pool (s : State) (p : Fin 4) (src : FaultSource) (r : SourceRec) : (s.setSource p src r).pool = s.pool := rfl
@[simp] theorem setSource_takes (s : State) (p : Fin 4) (src : FaultSource) (r : SourceRec) : (s.setSource p src r).takes = s.takes := rfl
@[simp] theorem setSource_seq (s : State) (p : Fin 4) (src : FaultSource) (r : SourceRec) : (s.setSource p src r).seq = s.seq := rfl
@[simp] theorem setSource_lanes (s : State) (p : Fin 4) (src : FaultSource) (r : SourceRec) : (s.setSource p src r).lanes = s.lanes := rfl
@[simp] theorem setSource_slots (s : State) (p : Fin 4) (src : FaultSource) (r : SourceRec) : (s.setSource p src r).slots = s.slots := rfl
@[simp] theorem setSource_replay (s : State) (p : Fin 4) (src : FaultSource) (r : SourceRec) : (s.setSource p src r).replay = s.replay := rfl
@[simp] theorem setSource_exporter (s : State) (p : Fin 4) (src : FaultSource) (r : SourceRec) : (s.setSource p src r).exporter = s.exporter := rfl
@[simp] theorem setSource_render (s : State) (p : Fin 4) (src : FaultSource) (r : SourceRec) : (s.setSource p src r).render = s.render := rfl
@[simp] theorem setSource_panel (s : State) (p : Fin 4) (src : FaultSource) (r : SourceRec) : (s.setSource p src r).panel = s.panel := rfl
@[simp] theorem setSource_shared (s : State) (p : Fin 4) (src : FaultSource) (r : SourceRec) : (s.setSource p src r).shared = s.shared := rfl
@[simp] theorem setSource_failPlan (s : State) (p : Fin 4) (src : FaultSource) (r : SourceRec) : (s.setSource p src r).failPlan = s.failPlan := rfl
@[simp] theorem setSource_pending (s : State) (p : Fin 4) (src : FaultSource) (r : SourceRec) : (s.setSource p src r).pending = s.pending := rfl

@[simp] theorem setLaneAt_tick (s : State) (k : Fin 4) (l : Lane) : (s.setLaneAt k l).tick = s.tick := rfl
@[simp] theorem setLaneAt_wraps (s : State) (k : Fin 4) (l : Lane) : (s.setLaneAt k l).wraps = s.wraps := rfl
@[simp] theorem setLaneAt_disp (s : State) (k : Fin 4) (l : Lane) : (s.setLaneAt k l).disp = s.disp := rfl
@[simp] theorem setLaneAt_alerts (s : State) (k : Fin 4) (l : Lane) : (s.setLaneAt k l).alerts = s.alerts := rfl
@[simp] theorem setLaneAt_report (s : State) (k : Fin 4) (l : Lane) : (s.setLaneAt k l).report = s.report := rfl
@[simp] theorem setLaneAt_pods (s : State) (k : Fin 4) (l : Lane) : (s.setLaneAt k l).pods = s.pods := rfl
@[simp] theorem setLaneAt_monitor (s : State) (k : Fin 4) (l : Lane) : (s.setLaneAt k l).monitor = s.monitor := rfl
@[simp] theorem setLaneAt_gens (s : State) (k : Fin 4) (l : Lane) : (s.setLaneAt k l).gens = s.gens := rfl
@[simp] theorem setLaneAt_chain01 (s : State) (k : Fin 4) (l : Lane) : (s.setLaneAt k l).chain01 = s.chain01 := rfl
@[simp] theorem setLaneAt_chain23 (s : State) (k : Fin 4) (l : Lane) : (s.setLaneAt k l).chain23 = s.chain23 := rfl
@[simp] theorem setLaneAt_sampler (s : State) (k : Fin 4) (l : Lane) : (s.setLaneAt k l).sampler = s.sampler := rfl
@[simp] theorem setLaneAt_staging (s : State) (k : Fin 4) (l : Lane) : (s.setLaneAt k l).staging = s.staging := rfl
@[simp] theorem setLaneAt_writer (s : State) (k : Fin 4) (l : Lane) : (s.setLaneAt k l).writer = s.writer := rfl
@[simp] theorem setLaneAt_pool (s : State) (k : Fin 4) (l : Lane) : (s.setLaneAt k l).pool = s.pool := rfl
@[simp] theorem setLaneAt_takes (s : State) (k : Fin 4) (l : Lane) : (s.setLaneAt k l).takes = s.takes := rfl
@[simp] theorem setLaneAt_seq (s : State) (k : Fin 4) (l : Lane) : (s.setLaneAt k l).seq = s.seq := rfl
@[simp] theorem setLaneAt_slots (s : State) (k : Fin 4) (l : Lane) : (s.setLaneAt k l).slots = s.slots := rfl
@[simp] theorem setLaneAt_replay (s : State) (k : Fin 4) (l : Lane) : (s.setLaneAt k l).replay = s.replay := rfl
@[simp] theorem setLaneAt_exporter (s : State) (k : Fin 4) (l : Lane) : (s.setLaneAt k l).exporter = s.exporter := rfl
@[simp] theorem setLaneAt_render (s : State) (k : Fin 4) (l : Lane) : (s.setLaneAt k l).render = s.render := rfl
@[simp] theorem setLaneAt_panel (s : State) (k : Fin 4) (l : Lane) : (s.setLaneAt k l).panel = s.panel := rfl
@[simp] theorem setLaneAt_shared (s : State) (k : Fin 4) (l : Lane) : (s.setLaneAt k l).shared = s.shared := rfl
@[simp] theorem setLaneAt_failPlan (s : State) (k : Fin 4) (l : Lane) : (s.setLaneAt k l).failPlan = s.failPlan := rfl
@[simp] theorem setLaneAt_pending (s : State) (k : Fin 4) (l : Lane) : (s.setLaneAt k l).pending = s.pending := rfl

@[simp] theorem setUnit_tick (s : State) (u : Fin 4) (g : Gen) : (s.setUnit u g).tick = s.tick := rfl
@[simp] theorem setUnit_wraps (s : State) (u : Fin 4) (g : Gen) : (s.setUnit u g).wraps = s.wraps := rfl
@[simp] theorem setUnit_disp (s : State) (u : Fin 4) (g : Gen) : (s.setUnit u g).disp = s.disp := rfl
@[simp] theorem setUnit_alerts (s : State) (u : Fin 4) (g : Gen) : (s.setUnit u g).alerts = s.alerts := rfl
@[simp] theorem setUnit_report (s : State) (u : Fin 4) (g : Gen) : (s.setUnit u g).report = s.report := rfl
@[simp] theorem setUnit_pods (s : State) (u : Fin 4) (g : Gen) : (s.setUnit u g).pods = s.pods := rfl
@[simp] theorem setUnit_monitor (s : State) (u : Fin 4) (g : Gen) : (s.setUnit u g).monitor = s.monitor := rfl
@[simp] theorem setUnit_chain01 (s : State) (u : Fin 4) (g : Gen) : (s.setUnit u g).chain01 = s.chain01 := rfl
@[simp] theorem setUnit_chain23 (s : State) (u : Fin 4) (g : Gen) : (s.setUnit u g).chain23 = s.chain23 := rfl
@[simp] theorem setUnit_sampler (s : State) (u : Fin 4) (g : Gen) : (s.setUnit u g).sampler = s.sampler := rfl
@[simp] theorem setUnit_staging (s : State) (u : Fin 4) (g : Gen) : (s.setUnit u g).staging = s.staging := rfl
@[simp] theorem setUnit_writer (s : State) (u : Fin 4) (g : Gen) : (s.setUnit u g).writer = s.writer := rfl
@[simp] theorem setUnit_pool (s : State) (u : Fin 4) (g : Gen) : (s.setUnit u g).pool = s.pool := rfl
@[simp] theorem setUnit_takes (s : State) (u : Fin 4) (g : Gen) : (s.setUnit u g).takes = s.takes := rfl
@[simp] theorem setUnit_seq (s : State) (u : Fin 4) (g : Gen) : (s.setUnit u g).seq = s.seq := rfl
@[simp] theorem setUnit_lanes (s : State) (u : Fin 4) (g : Gen) : (s.setUnit u g).lanes = s.lanes := rfl
@[simp] theorem setUnit_slots (s : State) (u : Fin 4) (g : Gen) : (s.setUnit u g).slots = s.slots := rfl
@[simp] theorem setUnit_replay (s : State) (u : Fin 4) (g : Gen) : (s.setUnit u g).replay = s.replay := rfl
@[simp] theorem setUnit_exporter (s : State) (u : Fin 4) (g : Gen) : (s.setUnit u g).exporter = s.exporter := rfl
@[simp] theorem setUnit_render (s : State) (u : Fin 4) (g : Gen) : (s.setUnit u g).render = s.render := rfl
@[simp] theorem setUnit_panel (s : State) (u : Fin 4) (g : Gen) : (s.setUnit u g).panel = s.panel := rfl
@[simp] theorem setUnit_shared (s : State) (u : Fin 4) (g : Gen) : (s.setUnit u g).shared = s.shared := rfl
@[simp] theorem setUnit_failPlan (s : State) (u : Fin 4) (g : Gen) : (s.setUnit u g).failPlan = s.failPlan := rfl
@[simp] theorem setUnit_pending (s : State) (u : Fin 4) (g : Gen) : (s.setUnit u g).pending = s.pending := rfl

@[simp] theorem unitApply_tick (s : State) (u : Fin 4) : (s.unitApply u).tick = s.tick := rfl
@[simp] theorem unitApply_wraps (s : State) (u : Fin 4) : (s.unitApply u).wraps = s.wraps := rfl
@[simp] theorem unitApply_disp (s : State) (u : Fin 4) : (s.unitApply u).disp = s.disp := rfl
@[simp] theorem unitApply_alerts (s : State) (u : Fin 4) : (s.unitApply u).alerts = s.alerts := rfl
@[simp] theorem unitApply_report (s : State) (u : Fin 4) : (s.unitApply u).report = s.report := rfl
@[simp] theorem unitApply_pods (s : State) (u : Fin 4) : (s.unitApply u).pods = s.pods := rfl
@[simp] theorem unitApply_monitor (s : State) (u : Fin 4) : (s.unitApply u).monitor = s.monitor := rfl
@[simp] theorem unitApply_chain01 (s : State) (u : Fin 4) : (s.unitApply u).chain01 = s.chain01 := rfl
@[simp] theorem unitApply_chain23 (s : State) (u : Fin 4) : (s.unitApply u).chain23 = s.chain23 := rfl
@[simp] theorem unitApply_sampler (s : State) (u : Fin 4) : (s.unitApply u).sampler = s.sampler := rfl
@[simp] theorem unitApply_staging (s : State) (u : Fin 4) : (s.unitApply u).staging = s.staging := rfl
@[simp] theorem unitApply_writer (s : State) (u : Fin 4) : (s.unitApply u).writer = s.writer := rfl
@[simp] theorem unitApply_pool (s : State) (u : Fin 4) : (s.unitApply u).pool = s.pool := rfl
@[simp] theorem unitApply_takes (s : State) (u : Fin 4) : (s.unitApply u).takes = s.takes := rfl
@[simp] theorem unitApply_seq (s : State) (u : Fin 4) : (s.unitApply u).seq = s.seq := rfl
@[simp] theorem unitApply_lanes (s : State) (u : Fin 4) : (s.unitApply u).lanes = s.lanes := rfl
@[simp] theorem unitApply_slots (s : State) (u : Fin 4) : (s.unitApply u).slots = s.slots := rfl
@[simp] theorem unitApply_replay (s : State) (u : Fin 4) : (s.unitApply u).replay = s.replay := rfl
@[simp] theorem unitApply_exporter (s : State) (u : Fin 4) : (s.unitApply u).exporter = s.exporter := rfl
@[simp] theorem unitApply_render (s : State) (u : Fin 4) : (s.unitApply u).render = s.render := rfl
@[simp] theorem unitApply_panel (s : State) (u : Fin 4) : (s.unitApply u).panel = s.panel := rfl
@[simp] theorem unitApply_shared (s : State) (u : Fin 4) : (s.unitApply u).shared = s.shared := rfl
@[simp] theorem unitApply_failPlan (s : State) (u : Fin 4) : (s.unitApply u).failPlan = s.failPlan := rfl
@[simp] theorem unitApply_pending (s : State) (u : Fin 4) : (s.unitApply u).pending = s.pending := rfl

@[simp] theorem offer_tick (s : State) (i : Nat) (t : Tick) (r : RecBody) : (s.offer i t r).tick = s.tick := rfl
@[simp] theorem offer_wraps (s : State) (i : Nat) (t : Tick) (r : RecBody) : (s.offer i t r).wraps = s.wraps := rfl
@[simp] theorem offer_disp (s : State) (i : Nat) (t : Tick) (r : RecBody) : (s.offer i t r).disp = s.disp := rfl
@[simp] theorem offer_pods (s : State) (i : Nat) (t : Tick) (r : RecBody) : (s.offer i t r).pods = s.pods := rfl
@[simp] theorem offer_monitor (s : State) (i : Nat) (t : Tick) (r : RecBody) : (s.offer i t r).monitor = s.monitor := rfl
@[simp] theorem offer_gens (s : State) (i : Nat) (t : Tick) (r : RecBody) : (s.offer i t r).gens = s.gens := rfl
@[simp] theorem offer_chain01 (s : State) (i : Nat) (t : Tick) (r : RecBody) : (s.offer i t r).chain01 = s.chain01 := rfl
@[simp] theorem offer_chain23 (s : State) (i : Nat) (t : Tick) (r : RecBody) : (s.offer i t r).chain23 = s.chain23 := rfl
@[simp] theorem offer_writer (s : State) (i : Nat) (t : Tick) (r : RecBody) : (s.offer i t r).writer = s.writer := rfl
@[simp] theorem offer_pool (s : State) (i : Nat) (t : Tick) (r : RecBody) : (s.offer i t r).pool = s.pool := rfl
@[simp] theorem offer_seq (s : State) (i : Nat) (t : Tick) (r : RecBody) : (s.offer i t r).seq = s.seq := rfl
@[simp] theorem offer_lanes (s : State) (i : Nat) (t : Tick) (r : RecBody) : (s.offer i t r).lanes = s.lanes := rfl
@[simp] theorem offer_slots (s : State) (i : Nat) (t : Tick) (r : RecBody) : (s.offer i t r).slots = s.slots := rfl
@[simp] theorem offer_replay (s : State) (i : Nat) (t : Tick) (r : RecBody) : (s.offer i t r).replay = s.replay := rfl
@[simp] theorem offer_exporter (s : State) (i : Nat) (t : Tick) (r : RecBody) : (s.offer i t r).exporter = s.exporter := rfl
@[simp] theorem offer_render (s : State) (i : Nat) (t : Tick) (r : RecBody) : (s.offer i t r).render = s.render := rfl
@[simp] theorem offer_panel (s : State) (i : Nat) (t : Tick) (r : RecBody) : (s.offer i t r).panel = s.panel := rfl
@[simp] theorem offer_shared (s : State) (i : Nat) (t : Tick) (r : RecBody) : (s.offer i t r).shared = s.shared := rfl
@[simp] theorem offer_failPlan (s : State) (i : Nat) (t : Tick) (r : RecBody) : (s.offer i t r).failPlan = s.failPlan := rfl
@[simp] theorem offer_pending (s : State) (i : Nat) (t : Tick) (r : RecBody) : (s.offer i t r).pending = s.pending := rfl

@[simp] theorem raiseExcs_tick (s : State) (k : Fin 4) (excs : BitVec 7) : (s.raiseExcs k excs).tick = s.tick := rfl
@[simp] theorem raiseExcs_wraps (s : State) (k : Fin 4) (excs : BitVec 7) : (s.raiseExcs k excs).wraps = s.wraps := rfl
@[simp] theorem raiseExcs_disp (s : State) (k : Fin 4) (excs : BitVec 7) : (s.raiseExcs k excs).disp = s.disp := rfl
@[simp] theorem raiseExcs_report (s : State) (k : Fin 4) (excs : BitVec 7) : (s.raiseExcs k excs).report = s.report := rfl
@[simp] theorem raiseExcs_pods (s : State) (k : Fin 4) (excs : BitVec 7) : (s.raiseExcs k excs).pods = s.pods := rfl
@[simp] theorem raiseExcs_monitor (s : State) (k : Fin 4) (excs : BitVec 7) : (s.raiseExcs k excs).monitor = s.monitor := rfl
@[simp] theorem raiseExcs_gens (s : State) (k : Fin 4) (excs : BitVec 7) : (s.raiseExcs k excs).gens = s.gens := rfl
@[simp] theorem raiseExcs_chain01 (s : State) (k : Fin 4) (excs : BitVec 7) : (s.raiseExcs k excs).chain01 = s.chain01 := rfl
@[simp] theorem raiseExcs_chain23 (s : State) (k : Fin 4) (excs : BitVec 7) : (s.raiseExcs k excs).chain23 = s.chain23 := rfl
@[simp] theorem raiseExcs_sampler (s : State) (k : Fin 4) (excs : BitVec 7) : (s.raiseExcs k excs).sampler = s.sampler := rfl
@[simp] theorem raiseExcs_staging (s : State) (k : Fin 4) (excs : BitVec 7) : (s.raiseExcs k excs).staging = s.staging := rfl
@[simp] theorem raiseExcs_writer (s : State) (k : Fin 4) (excs : BitVec 7) : (s.raiseExcs k excs).writer = s.writer := rfl
@[simp] theorem raiseExcs_pool (s : State) (k : Fin 4) (excs : BitVec 7) : (s.raiseExcs k excs).pool = s.pool := rfl
@[simp] theorem raiseExcs_takes (s : State) (k : Fin 4) (excs : BitVec 7) : (s.raiseExcs k excs).takes = s.takes := rfl
@[simp] theorem raiseExcs_seq (s : State) (k : Fin 4) (excs : BitVec 7) : (s.raiseExcs k excs).seq = s.seq := rfl
@[simp] theorem raiseExcs_slots (s : State) (k : Fin 4) (excs : BitVec 7) : (s.raiseExcs k excs).slots = s.slots := rfl
@[simp] theorem raiseExcs_replay (s : State) (k : Fin 4) (excs : BitVec 7) : (s.raiseExcs k excs).replay = s.replay := rfl
@[simp] theorem raiseExcs_exporter (s : State) (k : Fin 4) (excs : BitVec 7) : (s.raiseExcs k excs).exporter = s.exporter := rfl
@[simp] theorem raiseExcs_render (s : State) (k : Fin 4) (excs : BitVec 7) : (s.raiseExcs k excs).render = s.render := rfl
@[simp] theorem raiseExcs_panel (s : State) (k : Fin 4) (excs : BitVec 7) : (s.raiseExcs k excs).panel = s.panel := rfl
@[simp] theorem raiseExcs_shared (s : State) (k : Fin 4) (excs : BitVec 7) : (s.raiseExcs k excs).shared = s.shared := rfl
@[simp] theorem raiseExcs_failPlan (s : State) (k : Fin 4) (excs : BitVec 7) : (s.raiseExcs k excs).failPlan = s.failPlan := rfl
@[simp] theorem raiseExcs_pending (s : State) (k : Fin 4) (excs : BitVec 7) : (s.raiseExcs k excs).pending = s.pending := rfl

@[simp] theorem ringWrite_tick (s : State) (k : Fin 4) (units : List Word64) : (s.ringWrite k units).tick = s.tick := rfl
@[simp] theorem ringWrite_wraps (s : State) (k : Fin 4) (units : List Word64) : (s.ringWrite k units).wraps = s.wraps := rfl
@[simp] theorem ringWrite_disp (s : State) (k : Fin 4) (units : List Word64) : (s.ringWrite k units).disp = s.disp := rfl
@[simp] theorem ringWrite_report (s : State) (k : Fin 4) (units : List Word64) : (s.ringWrite k units).report = s.report := rfl
@[simp] theorem ringWrite_pods (s : State) (k : Fin 4) (units : List Word64) : (s.ringWrite k units).pods = s.pods := rfl
@[simp] theorem ringWrite_monitor (s : State) (k : Fin 4) (units : List Word64) : (s.ringWrite k units).monitor = s.monitor := rfl
@[simp] theorem ringWrite_gens (s : State) (k : Fin 4) (units : List Word64) : (s.ringWrite k units).gens = s.gens := rfl
@[simp] theorem ringWrite_chain01 (s : State) (k : Fin 4) (units : List Word64) : (s.ringWrite k units).chain01 = s.chain01 := rfl
@[simp] theorem ringWrite_chain23 (s : State) (k : Fin 4) (units : List Word64) : (s.ringWrite k units).chain23 = s.chain23 := rfl
@[simp] theorem ringWrite_sampler (s : State) (k : Fin 4) (units : List Word64) : (s.ringWrite k units).sampler = s.sampler := rfl
@[simp] theorem ringWrite_staging (s : State) (k : Fin 4) (units : List Word64) : (s.ringWrite k units).staging = s.staging := rfl
@[simp] theorem ringWrite_writer (s : State) (k : Fin 4) (units : List Word64) : (s.ringWrite k units).writer = s.writer := rfl
@[simp] theorem ringWrite_pool (s : State) (k : Fin 4) (units : List Word64) : (s.ringWrite k units).pool = s.pool := rfl
@[simp] theorem ringWrite_takes (s : State) (k : Fin 4) (units : List Word64) : (s.ringWrite k units).takes = s.takes := rfl
@[simp] theorem ringWrite_seq (s : State) (k : Fin 4) (units : List Word64) : (s.ringWrite k units).seq = s.seq := rfl
@[simp] theorem ringWrite_slots (s : State) (k : Fin 4) (units : List Word64) : (s.ringWrite k units).slots = s.slots := rfl
@[simp] theorem ringWrite_replay (s : State) (k : Fin 4) (units : List Word64) : (s.ringWrite k units).replay = s.replay := rfl
@[simp] theorem ringWrite_exporter (s : State) (k : Fin 4) (units : List Word64) : (s.ringWrite k units).exporter = s.exporter := rfl
@[simp] theorem ringWrite_render (s : State) (k : Fin 4) (units : List Word64) : (s.ringWrite k units).render = s.render := rfl
@[simp] theorem ringWrite_panel (s : State) (k : Fin 4) (units : List Word64) : (s.ringWrite k units).panel = s.panel := rfl
@[simp] theorem ringWrite_pending (s : State) (k : Fin 4) (units : List Word64) : (s.ringWrite k units).pending = s.pending := rfl

@[simp] theorem relationsToSeq_tick (s : State) (k : Fin 4) (rels : List (Option Relation)) : (s.relationsToSeq k rels).tick = s.tick := rfl
@[simp] theorem relationsToSeq_wraps (s : State) (k : Fin 4) (rels : List (Option Relation)) : (s.relationsToSeq k rels).wraps = s.wraps := rfl
@[simp] theorem relationsToSeq_disp (s : State) (k : Fin 4) (rels : List (Option Relation)) : (s.relationsToSeq k rels).disp = s.disp := rfl
@[simp] theorem relationsToSeq_alerts (s : State) (k : Fin 4) (rels : List (Option Relation)) : (s.relationsToSeq k rels).alerts = s.alerts := rfl
@[simp] theorem relationsToSeq_report (s : State) (k : Fin 4) (rels : List (Option Relation)) : (s.relationsToSeq k rels).report = s.report := rfl
@[simp] theorem relationsToSeq_pods (s : State) (k : Fin 4) (rels : List (Option Relation)) : (s.relationsToSeq k rels).pods = s.pods := rfl
@[simp] theorem relationsToSeq_monitor (s : State) (k : Fin 4) (rels : List (Option Relation)) : (s.relationsToSeq k rels).monitor = s.monitor := rfl
@[simp] theorem relationsToSeq_gens (s : State) (k : Fin 4) (rels : List (Option Relation)) : (s.relationsToSeq k rels).gens = s.gens := rfl
@[simp] theorem relationsToSeq_chain01 (s : State) (k : Fin 4) (rels : List (Option Relation)) : (s.relationsToSeq k rels).chain01 = s.chain01 := rfl
@[simp] theorem relationsToSeq_chain23 (s : State) (k : Fin 4) (rels : List (Option Relation)) : (s.relationsToSeq k rels).chain23 = s.chain23 := rfl
@[simp] theorem relationsToSeq_sampler (s : State) (k : Fin 4) (rels : List (Option Relation)) : (s.relationsToSeq k rels).sampler = s.sampler := rfl
@[simp] theorem relationsToSeq_staging (s : State) (k : Fin 4) (rels : List (Option Relation)) : (s.relationsToSeq k rels).staging = s.staging := rfl
@[simp] theorem relationsToSeq_writer (s : State) (k : Fin 4) (rels : List (Option Relation)) : (s.relationsToSeq k rels).writer = s.writer := rfl
@[simp] theorem relationsToSeq_pool (s : State) (k : Fin 4) (rels : List (Option Relation)) : (s.relationsToSeq k rels).pool = s.pool := rfl
@[simp] theorem relationsToSeq_takes (s : State) (k : Fin 4) (rels : List (Option Relation)) : (s.relationsToSeq k rels).takes = s.takes := rfl
@[simp] theorem relationsToSeq_lanes (s : State) (k : Fin 4) (rels : List (Option Relation)) : (s.relationsToSeq k rels).lanes = s.lanes := rfl
@[simp] theorem relationsToSeq_slots (s : State) (k : Fin 4) (rels : List (Option Relation)) : (s.relationsToSeq k rels).slots = s.slots := rfl
@[simp] theorem relationsToSeq_replay (s : State) (k : Fin 4) (rels : List (Option Relation)) : (s.relationsToSeq k rels).replay = s.replay := rfl
@[simp] theorem relationsToSeq_exporter (s : State) (k : Fin 4) (rels : List (Option Relation)) : (s.relationsToSeq k rels).exporter = s.exporter := rfl
@[simp] theorem relationsToSeq_render (s : State) (k : Fin 4) (rels : List (Option Relation)) : (s.relationsToSeq k rels).render = s.render := rfl
@[simp] theorem relationsToSeq_panel (s : State) (k : Fin 4) (rels : List (Option Relation)) : (s.relationsToSeq k rels).panel = s.panel := rfl
@[simp] theorem relationsToSeq_shared (s : State) (k : Fin 4) (rels : List (Option Relation)) : (s.relationsToSeq k rels).shared = s.shared := rfl
@[simp] theorem relationsToSeq_failPlan (s : State) (k : Fin 4) (rels : List (Option Relation)) : (s.relationsToSeq k rels).failPlan = s.failPlan := rfl
@[simp] theorem relationsToSeq_pending (s : State) (k : Fin 4) (rels : List (Option Relation)) : (s.relationsToSeq k rels).pending = s.pending := rfl

@[simp] theorem noteWaking_tick (s : State) (p : Fin 4) : (s.noteWaking p).tick = s.tick := rfl
@[simp] theorem noteWaking_wraps (s : State) (p : Fin 4) : (s.noteWaking p).wraps = s.wraps := rfl
@[simp] theorem noteWaking_disp (s : State) (p : Fin 4) : (s.noteWaking p).disp = s.disp := rfl
@[simp] theorem noteWaking_alerts (s : State) (p : Fin 4) : (s.noteWaking p).alerts = s.alerts := rfl
@[simp] theorem noteWaking_report (s : State) (p : Fin 4) : (s.noteWaking p).report = s.report := rfl
@[simp] theorem noteWaking_pods (s : State) (p : Fin 4) : (s.noteWaking p).pods = s.pods := rfl
@[simp] theorem noteWaking_monitor (s : State) (p : Fin 4) : (s.noteWaking p).monitor = s.monitor := rfl
@[simp] theorem noteWaking_gens (s : State) (p : Fin 4) : (s.noteWaking p).gens = s.gens := rfl
@[simp] theorem noteWaking_chain01 (s : State) (p : Fin 4) : (s.noteWaking p).chain01 = s.chain01 := rfl
@[simp] theorem noteWaking_chain23 (s : State) (p : Fin 4) : (s.noteWaking p).chain23 = s.chain23 := rfl
@[simp] theorem noteWaking_staging (s : State) (p : Fin 4) : (s.noteWaking p).staging = s.staging := rfl
@[simp] theorem noteWaking_writer (s : State) (p : Fin 4) : (s.noteWaking p).writer = s.writer := rfl
@[simp] theorem noteWaking_pool (s : State) (p : Fin 4) : (s.noteWaking p).pool = s.pool := rfl
@[simp] theorem noteWaking_takes (s : State) (p : Fin 4) : (s.noteWaking p).takes = s.takes := rfl
@[simp] theorem noteWaking_seq (s : State) (p : Fin 4) : (s.noteWaking p).seq = s.seq := rfl
@[simp] theorem noteWaking_lanes (s : State) (p : Fin 4) : (s.noteWaking p).lanes = s.lanes := rfl
@[simp] theorem noteWaking_slots (s : State) (p : Fin 4) : (s.noteWaking p).slots = s.slots := rfl
@[simp] theorem noteWaking_replay (s : State) (p : Fin 4) : (s.noteWaking p).replay = s.replay := rfl
@[simp] theorem noteWaking_exporter (s : State) (p : Fin 4) : (s.noteWaking p).exporter = s.exporter := rfl
@[simp] theorem noteWaking_render (s : State) (p : Fin 4) : (s.noteWaking p).render = s.render := rfl
@[simp] theorem noteWaking_panel (s : State) (p : Fin 4) : (s.noteWaking p).panel = s.panel := rfl
@[simp] theorem noteWaking_shared (s : State) (p : Fin 4) : (s.noteWaking p).shared = s.shared := rfl
@[simp] theorem noteWaking_failPlan (s : State) (p : Fin 4) : (s.noteWaking p).failPlan = s.failPlan := rfl
@[simp] theorem noteWaking_pending (s : State) (p : Fin 4) : (s.noteWaking p).pending = s.pending := rfl

@[simp] theorem podEvent_tick (s : State) (p : Fin 4) : (s.podEvent p).tick = s.tick := rfl
@[simp] theorem podEvent_wraps (s : State) (p : Fin 4) : (s.podEvent p).wraps = s.wraps := rfl
@[simp] theorem podEvent_disp (s : State) (p : Fin 4) : (s.podEvent p).disp = s.disp := rfl
@[simp] theorem podEvent_alerts (s : State) (p : Fin 4) : (s.podEvent p).alerts = s.alerts := rfl
@[simp] theorem podEvent_report (s : State) (p : Fin 4) : (s.podEvent p).report = s.report := rfl
@[simp] theorem podEvent_pods (s : State) (p : Fin 4) : (s.podEvent p).pods = s.pods := rfl
@[simp] theorem podEvent_monitor (s : State) (p : Fin 4) : (s.podEvent p).monitor = s.monitor := rfl
@[simp] theorem podEvent_gens (s : State) (p : Fin 4) : (s.podEvent p).gens = s.gens := rfl
@[simp] theorem podEvent_chain01 (s : State) (p : Fin 4) : (s.podEvent p).chain01 = s.chain01 := rfl
@[simp] theorem podEvent_chain23 (s : State) (p : Fin 4) : (s.podEvent p).chain23 = s.chain23 := rfl
@[simp] theorem podEvent_sampler (s : State) (p : Fin 4) : (s.podEvent p).sampler = s.sampler := rfl
@[simp] theorem podEvent_staging (s : State) (p : Fin 4) : (s.podEvent p).staging = s.staging := rfl
@[simp] theorem podEvent_writer (s : State) (p : Fin 4) : (s.podEvent p).writer = s.writer := rfl
@[simp] theorem podEvent_pool (s : State) (p : Fin 4) : (s.podEvent p).pool = s.pool := rfl
@[simp] theorem podEvent_takes (s : State) (p : Fin 4) : (s.podEvent p).takes = s.takes := rfl
@[simp] theorem podEvent_lanes (s : State) (p : Fin 4) : (s.podEvent p).lanes = s.lanes := rfl
@[simp] theorem podEvent_slots (s : State) (p : Fin 4) : (s.podEvent p).slots = s.slots := rfl
@[simp] theorem podEvent_replay (s : State) (p : Fin 4) : (s.podEvent p).replay = s.replay := rfl
@[simp] theorem podEvent_exporter (s : State) (p : Fin 4) : (s.podEvent p).exporter = s.exporter := rfl
@[simp] theorem podEvent_render (s : State) (p : Fin 4) : (s.podEvent p).render = s.render := rfl
@[simp] theorem podEvent_panel (s : State) (p : Fin 4) : (s.podEvent p).panel = s.panel := rfl
@[simp] theorem podEvent_shared (s : State) (p : Fin 4) : (s.podEvent p).shared = s.shared := rfl
@[simp] theorem podEvent_failPlan (s : State) (p : Fin 4) : (s.podEvent p).failPlan = s.failPlan := rfl
@[simp] theorem podEvent_pending (s : State) (p : Fin 4) : (s.podEvent p).pending = s.pending := rfl

@[simp] theorem acquireBlock_tick (s : State) (i b : Nat) (rest : List Nat) : (s.acquireBlock i b rest).tick = s.tick := rfl
@[simp] theorem acquireBlock_wraps (s : State) (i b : Nat) (rest : List Nat) : (s.acquireBlock i b rest).wraps = s.wraps := rfl
@[simp] theorem acquireBlock_disp (s : State) (i b : Nat) (rest : List Nat) : (s.acquireBlock i b rest).disp = s.disp := rfl
@[simp] theorem acquireBlock_monitor (s : State) (i b : Nat) (rest : List Nat) : (s.acquireBlock i b rest).monitor = s.monitor := rfl
@[simp] theorem acquireBlock_gens (s : State) (i b : Nat) (rest : List Nat) : (s.acquireBlock i b rest).gens = s.gens := rfl
@[simp] theorem acquireBlock_chain01 (s : State) (i b : Nat) (rest : List Nat) : (s.acquireBlock i b rest).chain01 = s.chain01 := rfl
@[simp] theorem acquireBlock_chain23 (s : State) (i b : Nat) (rest : List Nat) : (s.acquireBlock i b rest).chain23 = s.chain23 := rfl
@[simp] theorem acquireBlock_sampler (s : State) (i b : Nat) (rest : List Nat) : (s.acquireBlock i b rest).sampler = s.sampler := rfl
@[simp] theorem acquireBlock_staging (s : State) (i b : Nat) (rest : List Nat) : (s.acquireBlock i b rest).staging = s.staging := rfl
@[simp] theorem acquireBlock_seq (s : State) (i b : Nat) (rest : List Nat) : (s.acquireBlock i b rest).seq = s.seq := rfl
@[simp] theorem acquireBlock_lanes (s : State) (i b : Nat) (rest : List Nat) : (s.acquireBlock i b rest).lanes = s.lanes := rfl
@[simp] theorem acquireBlock_slots (s : State) (i b : Nat) (rest : List Nat) : (s.acquireBlock i b rest).slots = s.slots := rfl
@[simp] theorem acquireBlock_replay (s : State) (i b : Nat) (rest : List Nat) : (s.acquireBlock i b rest).replay = s.replay := rfl
@[simp] theorem acquireBlock_exporter (s : State) (i b : Nat) (rest : List Nat) : (s.acquireBlock i b rest).exporter = s.exporter := rfl
@[simp] theorem acquireBlock_render (s : State) (i b : Nat) (rest : List Nat) : (s.acquireBlock i b rest).render = s.render := rfl
@[simp] theorem acquireBlock_panel (s : State) (i b : Nat) (rest : List Nat) : (s.acquireBlock i b rest).panel = s.panel := rfl
@[simp] theorem acquireBlock_shared (s : State) (i b : Nat) (rest : List Nat) : (s.acquireBlock i b rest).shared = s.shared := rfl
@[simp] theorem acquireBlock_failPlan (s : State) (i b : Nat) (rest : List Nat) : (s.acquireBlock i b rest).failPlan = s.failPlan := rfl
@[simp] theorem acquireBlock_pending (s : State) (i b : Nat) (rest : List Nat) : (s.acquireBlock i b rest).pending = s.pending := rfl

@[simp] theorem sealBlock_tick (s : State) (i b : Nat) : (s.sealBlock i b).tick = s.tick := rfl
@[simp] theorem sealBlock_wraps (s : State) (i b : Nat) : (s.sealBlock i b).wraps = s.wraps := rfl
@[simp] theorem sealBlock_disp (s : State) (i b : Nat) : (s.sealBlock i b).disp = s.disp := rfl
@[simp] theorem sealBlock_alerts (s : State) (i b : Nat) : (s.sealBlock i b).alerts = s.alerts := rfl
@[simp] theorem sealBlock_pods (s : State) (i b : Nat) : (s.sealBlock i b).pods = s.pods := rfl
@[simp] theorem sealBlock_monitor (s : State) (i b : Nat) : (s.sealBlock i b).monitor = s.monitor := rfl
@[simp] theorem sealBlock_gens (s : State) (i b : Nat) : (s.sealBlock i b).gens = s.gens := rfl
@[simp] theorem sealBlock_chain01 (s : State) (i b : Nat) : (s.sealBlock i b).chain01 = s.chain01 := rfl
@[simp] theorem sealBlock_chain23 (s : State) (i b : Nat) : (s.sealBlock i b).chain23 = s.chain23 := rfl
@[simp] theorem sealBlock_sampler (s : State) (i b : Nat) : (s.sealBlock i b).sampler = s.sampler := rfl
@[simp] theorem sealBlock_staging (s : State) (i b : Nat) : (s.sealBlock i b).staging = s.staging := rfl
@[simp] theorem sealBlock_seq (s : State) (i b : Nat) : (s.sealBlock i b).seq = s.seq := rfl
@[simp] theorem sealBlock_lanes (s : State) (i b : Nat) : (s.sealBlock i b).lanes = s.lanes := rfl
@[simp] theorem sealBlock_slots (s : State) (i b : Nat) : (s.sealBlock i b).slots = s.slots := rfl
@[simp] theorem sealBlock_replay (s : State) (i b : Nat) : (s.sealBlock i b).replay = s.replay := rfl
@[simp] theorem sealBlock_exporter (s : State) (i b : Nat) : (s.sealBlock i b).exporter = s.exporter := rfl
@[simp] theorem sealBlock_render (s : State) (i b : Nat) : (s.sealBlock i b).render = s.render := rfl
@[simp] theorem sealBlock_panel (s : State) (i b : Nat) : (s.sealBlock i b).panel = s.panel := rfl
@[simp] theorem sealBlock_shared (s : State) (i b : Nat) : (s.sealBlock i b).shared = s.shared := rfl
@[simp] theorem sealBlock_failPlan (s : State) (i b : Nat) : (s.sealBlock i b).failPlan = s.failPlan := rfl
@[simp] theorem sealBlock_pending (s : State) (i b : Nat) : (s.sealBlock i b).pending = s.pending := rfl

@[simp] theorem freeFront_tick (s : State) (i b : Nat) : (s.freeFront i b).tick = s.tick := rfl
@[simp] theorem freeFront_wraps (s : State) (i b : Nat) : (s.freeFront i b).wraps = s.wraps := rfl
@[simp] theorem freeFront_disp (s : State) (i b : Nat) : (s.freeFront i b).disp = s.disp := rfl
@[simp] theorem freeFront_alerts (s : State) (i b : Nat) : (s.freeFront i b).alerts = s.alerts := rfl
@[simp] theorem freeFront_pods (s : State) (i b : Nat) : (s.freeFront i b).pods = s.pods := rfl
@[simp] theorem freeFront_monitor (s : State) (i b : Nat) : (s.freeFront i b).monitor = s.monitor := rfl
@[simp] theorem freeFront_gens (s : State) (i b : Nat) : (s.freeFront i b).gens = s.gens := rfl
@[simp] theorem freeFront_chain01 (s : State) (i b : Nat) : (s.freeFront i b).chain01 = s.chain01 := rfl
@[simp] theorem freeFront_chain23 (s : State) (i b : Nat) : (s.freeFront i b).chain23 = s.chain23 := rfl
@[simp] theorem freeFront_sampler (s : State) (i b : Nat) : (s.freeFront i b).sampler = s.sampler := rfl
@[simp] theorem freeFront_staging (s : State) (i b : Nat) : (s.freeFront i b).staging = s.staging := rfl
@[simp] theorem freeFront_writer (s : State) (i b : Nat) : (s.freeFront i b).writer = s.writer := rfl
@[simp] theorem freeFront_seq (s : State) (i b : Nat) : (s.freeFront i b).seq = s.seq := rfl
@[simp] theorem freeFront_lanes (s : State) (i b : Nat) : (s.freeFront i b).lanes = s.lanes := rfl
@[simp] theorem freeFront_slots (s : State) (i b : Nat) : (s.freeFront i b).slots = s.slots := rfl
@[simp] theorem freeFront_replay (s : State) (i b : Nat) : (s.freeFront i b).replay = s.replay := rfl
@[simp] theorem freeFront_exporter (s : State) (i b : Nat) : (s.freeFront i b).exporter = s.exporter := rfl
@[simp] theorem freeFront_render (s : State) (i b : Nat) : (s.freeFront i b).render = s.render := rfl
@[simp] theorem freeFront_panel (s : State) (i b : Nat) : (s.freeFront i b).panel = s.panel := rfl
@[simp] theorem freeFront_shared (s : State) (i b : Nat) : (s.freeFront i b).shared = s.shared := rfl
@[simp] theorem freeFront_failPlan (s : State) (i b : Nat) : (s.freeFront i b).failPlan = s.failPlan := rfl
@[simp] theorem freeFront_pending (s : State) (i b : Nat) : (s.freeFront i b).pending = s.pending := rfl

@[simp] theorem freeFilling_tick (s : State) (b : Nat) : (s.freeFilling b).tick = s.tick := rfl
@[simp] theorem freeFilling_wraps (s : State) (b : Nat) : (s.freeFilling b).wraps = s.wraps := rfl
@[simp] theorem freeFilling_disp (s : State) (b : Nat) : (s.freeFilling b).disp = s.disp := rfl
@[simp] theorem freeFilling_alerts (s : State) (b : Nat) : (s.freeFilling b).alerts = s.alerts := rfl
@[simp] theorem freeFilling_pods (s : State) (b : Nat) : (s.freeFilling b).pods = s.pods := rfl
@[simp] theorem freeFilling_monitor (s : State) (b : Nat) : (s.freeFilling b).monitor = s.monitor := rfl
@[simp] theorem freeFilling_gens (s : State) (b : Nat) : (s.freeFilling b).gens = s.gens := rfl
@[simp] theorem freeFilling_chain01 (s : State) (b : Nat) : (s.freeFilling b).chain01 = s.chain01 := rfl
@[simp] theorem freeFilling_chain23 (s : State) (b : Nat) : (s.freeFilling b).chain23 = s.chain23 := rfl
@[simp] theorem freeFilling_sampler (s : State) (b : Nat) : (s.freeFilling b).sampler = s.sampler := rfl
@[simp] theorem freeFilling_staging (s : State) (b : Nat) : (s.freeFilling b).staging = s.staging := rfl
@[simp] theorem freeFilling_takes (s : State) (b : Nat) : (s.freeFilling b).takes = s.takes := rfl
@[simp] theorem freeFilling_seq (s : State) (b : Nat) : (s.freeFilling b).seq = s.seq := rfl
@[simp] theorem freeFilling_lanes (s : State) (b : Nat) : (s.freeFilling b).lanes = s.lanes := rfl
@[simp] theorem freeFilling_slots (s : State) (b : Nat) : (s.freeFilling b).slots = s.slots := rfl
@[simp] theorem freeFilling_replay (s : State) (b : Nat) : (s.freeFilling b).replay = s.replay := rfl
@[simp] theorem freeFilling_exporter (s : State) (b : Nat) : (s.freeFilling b).exporter = s.exporter := rfl
@[simp] theorem freeFilling_render (s : State) (b : Nat) : (s.freeFilling b).render = s.render := rfl
@[simp] theorem freeFilling_panel (s : State) (b : Nat) : (s.freeFilling b).panel = s.panel := rfl
@[simp] theorem freeFilling_shared (s : State) (b : Nat) : (s.freeFilling b).shared = s.shared := rfl
@[simp] theorem freeFilling_failPlan (s : State) (b : Nat) : (s.freeFilling b).failPlan = s.failPlan := rfl
@[simp] theorem freeFilling_pending (s : State) (b : Nat) : (s.freeFilling b).pending = s.pending := rfl

@[simp] theorem placeHold_tick (s : State) (i : Nat) (x : Bool) : (s.placeHold i x).tick = s.tick := rfl
@[simp] theorem placeHold_wraps (s : State) (i : Nat) (x : Bool) : (s.placeHold i x).wraps = s.wraps := rfl
@[simp] theorem placeHold_disp (s : State) (i : Nat) (x : Bool) : (s.placeHold i x).disp = s.disp := rfl
@[simp] theorem placeHold_alerts (s : State) (i : Nat) (x : Bool) : (s.placeHold i x).alerts = s.alerts := rfl
@[simp] theorem placeHold_report (s : State) (i : Nat) (x : Bool) : (s.placeHold i x).report = s.report := rfl
@[simp] theorem placeHold_pods (s : State) (i : Nat) (x : Bool) : (s.placeHold i x).pods = s.pods := rfl
@[simp] theorem placeHold_monitor (s : State) (i : Nat) (x : Bool) : (s.placeHold i x).monitor = s.monitor := rfl
@[simp] theorem placeHold_gens (s : State) (i : Nat) (x : Bool) : (s.placeHold i x).gens = s.gens := rfl
@[simp] theorem placeHold_chain01 (s : State) (i : Nat) (x : Bool) : (s.placeHold i x).chain01 = s.chain01 := rfl
@[simp] theorem placeHold_chain23 (s : State) (i : Nat) (x : Bool) : (s.placeHold i x).chain23 = s.chain23 := rfl
@[simp] theorem placeHold_sampler (s : State) (i : Nat) (x : Bool) : (s.placeHold i x).sampler = s.sampler := rfl
@[simp] theorem placeHold_staging (s : State) (i : Nat) (x : Bool) : (s.placeHold i x).staging = s.staging := rfl
@[simp] theorem placeHold_writer (s : State) (i : Nat) (x : Bool) : (s.placeHold i x).writer = s.writer := rfl
@[simp] theorem placeHold_takes (s : State) (i : Nat) (x : Bool) : (s.placeHold i x).takes = s.takes := rfl
@[simp] theorem placeHold_seq (s : State) (i : Nat) (x : Bool) : (s.placeHold i x).seq = s.seq := rfl
@[simp] theorem placeHold_lanes (s : State) (i : Nat) (x : Bool) : (s.placeHold i x).lanes = s.lanes := rfl
@[simp] theorem placeHold_slots (s : State) (i : Nat) (x : Bool) : (s.placeHold i x).slots = s.slots := rfl
@[simp] theorem placeHold_replay (s : State) (i : Nat) (x : Bool) : (s.placeHold i x).replay = s.replay := rfl
@[simp] theorem placeHold_exporter (s : State) (i : Nat) (x : Bool) : (s.placeHold i x).exporter = s.exporter := rfl
@[simp] theorem placeHold_render (s : State) (i : Nat) (x : Bool) : (s.placeHold i x).render = s.render := rfl
@[simp] theorem placeHold_panel (s : State) (i : Nat) (x : Bool) : (s.placeHold i x).panel = s.panel := rfl
@[simp] theorem placeHold_shared (s : State) (i : Nat) (x : Bool) : (s.placeHold i x).shared = s.shared := rfl
@[simp] theorem placeHold_failPlan (s : State) (i : Nat) (x : Bool) : (s.placeHold i x).failPlan = s.failPlan := rfl
@[simp] theorem placeHold_pending (s : State) (i : Nat) (x : Bool) : (s.placeHold i x).pending = s.pending := rfl

@[simp] theorem dropHold_tick (s : State) (i : Nat) (x : Bool) : (s.dropHold i x).tick = s.tick := rfl
@[simp] theorem dropHold_wraps (s : State) (i : Nat) (x : Bool) : (s.dropHold i x).wraps = s.wraps := rfl
@[simp] theorem dropHold_disp (s : State) (i : Nat) (x : Bool) : (s.dropHold i x).disp = s.disp := rfl
@[simp] theorem dropHold_alerts (s : State) (i : Nat) (x : Bool) : (s.dropHold i x).alerts = s.alerts := rfl
@[simp] theorem dropHold_report (s : State) (i : Nat) (x : Bool) : (s.dropHold i x).report = s.report := rfl
@[simp] theorem dropHold_pods (s : State) (i : Nat) (x : Bool) : (s.dropHold i x).pods = s.pods := rfl
@[simp] theorem dropHold_monitor (s : State) (i : Nat) (x : Bool) : (s.dropHold i x).monitor = s.monitor := rfl
@[simp] theorem dropHold_gens (s : State) (i : Nat) (x : Bool) : (s.dropHold i x).gens = s.gens := rfl
@[simp] theorem dropHold_chain01 (s : State) (i : Nat) (x : Bool) : (s.dropHold i x).chain01 = s.chain01 := rfl
@[simp] theorem dropHold_chain23 (s : State) (i : Nat) (x : Bool) : (s.dropHold i x).chain23 = s.chain23 := rfl
@[simp] theorem dropHold_sampler (s : State) (i : Nat) (x : Bool) : (s.dropHold i x).sampler = s.sampler := rfl
@[simp] theorem dropHold_staging (s : State) (i : Nat) (x : Bool) : (s.dropHold i x).staging = s.staging := rfl
@[simp] theorem dropHold_writer (s : State) (i : Nat) (x : Bool) : (s.dropHold i x).writer = s.writer := rfl
@[simp] theorem dropHold_takes (s : State) (i : Nat) (x : Bool) : (s.dropHold i x).takes = s.takes := rfl
@[simp] theorem dropHold_seq (s : State) (i : Nat) (x : Bool) : (s.dropHold i x).seq = s.seq := rfl
@[simp] theorem dropHold_lanes (s : State) (i : Nat) (x : Bool) : (s.dropHold i x).lanes = s.lanes := rfl
@[simp] theorem dropHold_slots (s : State) (i : Nat) (x : Bool) : (s.dropHold i x).slots = s.slots := rfl
@[simp] theorem dropHold_replay (s : State) (i : Nat) (x : Bool) : (s.dropHold i x).replay = s.replay := rfl
@[simp] theorem dropHold_exporter (s : State) (i : Nat) (x : Bool) : (s.dropHold i x).exporter = s.exporter := rfl
@[simp] theorem dropHold_render (s : State) (i : Nat) (x : Bool) : (s.dropHold i x).render = s.render := rfl
@[simp] theorem dropHold_panel (s : State) (i : Nat) (x : Bool) : (s.dropHold i x).panel = s.panel := rfl
@[simp] theorem dropHold_shared (s : State) (i : Nat) (x : Bool) : (s.dropHold i x).shared = s.shared := rfl
@[simp] theorem dropHold_failPlan (s : State) (i : Nat) (x : Bool) : (s.dropHold i x).failPlan = s.failPlan := rfl
@[simp] theorem dropHold_pending (s : State) (i : Nat) (x : Bool) : (s.dropHold i x).pending = s.pending := rfl

@[simp] theorem grant_tick (s : State) (w : Client → Bool) : (s.grant w).tick = s.tick := rfl
@[simp] theorem grant_wraps (s : State) (w : Client → Bool) : (s.grant w).wraps = s.wraps := rfl
@[simp] theorem grant_disp (s : State) (w : Client → Bool) : (s.grant w).disp = s.disp := rfl
@[simp] theorem grant_alerts (s : State) (w : Client → Bool) : (s.grant w).alerts = s.alerts := rfl
@[simp] theorem grant_report (s : State) (w : Client → Bool) : (s.grant w).report = s.report := rfl
@[simp] theorem grant_pods (s : State) (w : Client → Bool) : (s.grant w).pods = s.pods := rfl
@[simp] theorem grant_monitor (s : State) (w : Client → Bool) : (s.grant w).monitor = s.monitor := rfl
@[simp] theorem grant_gens (s : State) (w : Client → Bool) : (s.grant w).gens = s.gens := rfl
@[simp] theorem grant_chain01 (s : State) (w : Client → Bool) : (s.grant w).chain01 = s.chain01 := rfl
@[simp] theorem grant_chain23 (s : State) (w : Client → Bool) : (s.grant w).chain23 = s.chain23 := rfl
@[simp] theorem grant_sampler (s : State) (w : Client → Bool) : (s.grant w).sampler = s.sampler := rfl
@[simp] theorem grant_staging (s : State) (w : Client → Bool) : (s.grant w).staging = s.staging := rfl
@[simp] theorem grant_writer (s : State) (w : Client → Bool) : (s.grant w).writer = s.writer := rfl
@[simp] theorem grant_takes (s : State) (w : Client → Bool) : (s.grant w).takes = s.takes := rfl
@[simp] theorem grant_seq (s : State) (w : Client → Bool) : (s.grant w).seq = s.seq := rfl
@[simp] theorem grant_lanes (s : State) (w : Client → Bool) : (s.grant w).lanes = s.lanes := rfl
@[simp] theorem grant_slots (s : State) (w : Client → Bool) : (s.grant w).slots = s.slots := rfl
@[simp] theorem grant_replay (s : State) (w : Client → Bool) : (s.grant w).replay = s.replay := rfl
@[simp] theorem grant_exporter (s : State) (w : Client → Bool) : (s.grant w).exporter = s.exporter := rfl
@[simp] theorem grant_render (s : State) (w : Client → Bool) : (s.grant w).render = s.render := rfl
@[simp] theorem grant_panel (s : State) (w : Client → Bool) : (s.grant w).panel = s.panel := rfl
@[simp] theorem grant_shared (s : State) (w : Client → Bool) : (s.grant w).shared = s.shared := rfl
@[simp] theorem grant_failPlan (s : State) (w : Client → Bool) : (s.grant w).failPlan = s.failPlan := rfl
@[simp] theorem grant_pending (s : State) (w : Client → Bool) : (s.grant w).pending = s.pending := rfl

@[simp] theorem handOver_tick (s : State) (all : Bool) : (s.handOver all).tick = s.tick := rfl
@[simp] theorem handOver_wraps (s : State) (all : Bool) : (s.handOver all).wraps = s.wraps := rfl
@[simp] theorem handOver_disp (s : State) (all : Bool) : (s.handOver all).disp = s.disp := rfl
@[simp] theorem handOver_alerts (s : State) (all : Bool) : (s.handOver all).alerts = s.alerts := rfl
@[simp] theorem handOver_pods (s : State) (all : Bool) : (s.handOver all).pods = s.pods := rfl
@[simp] theorem handOver_monitor (s : State) (all : Bool) : (s.handOver all).monitor = s.monitor := rfl
@[simp] theorem handOver_gens (s : State) (all : Bool) : (s.handOver all).gens = s.gens := rfl
@[simp] theorem handOver_chain01 (s : State) (all : Bool) : (s.handOver all).chain01 = s.chain01 := rfl
@[simp] theorem handOver_chain23 (s : State) (all : Bool) : (s.handOver all).chain23 = s.chain23 := rfl
@[simp] theorem handOver_sampler (s : State) (all : Bool) : (s.handOver all).sampler = s.sampler := rfl
@[simp] theorem handOver_staging (s : State) (all : Bool) : (s.handOver all).staging = s.staging := rfl
@[simp] theorem handOver_writer (s : State) (all : Bool) : (s.handOver all).writer = s.writer := rfl
@[simp] theorem handOver_pool (s : State) (all : Bool) : (s.handOver all).pool = s.pool := rfl
@[simp] theorem handOver_takes (s : State) (all : Bool) : (s.handOver all).takes = s.takes := rfl
@[simp] theorem handOver_seq (s : State) (all : Bool) : (s.handOver all).seq = s.seq := rfl
@[simp] theorem handOver_lanes (s : State) (all : Bool) : (s.handOver all).lanes = s.lanes := rfl
@[simp] theorem handOver_slots (s : State) (all : Bool) : (s.handOver all).slots = s.slots := rfl
@[simp] theorem handOver_replay (s : State) (all : Bool) : (s.handOver all).replay = s.replay := rfl
@[simp] theorem handOver_exporter (s : State) (all : Bool) : (s.handOver all).exporter = s.exporter := rfl
@[simp] theorem handOver_render (s : State) (all : Bool) : (s.handOver all).render = s.render := rfl
@[simp] theorem handOver_panel (s : State) (all : Bool) : (s.handOver all).panel = s.panel := rfl
@[simp] theorem handOver_shared (s : State) (all : Bool) : (s.handOver all).shared = s.shared := rfl
@[simp] theorem handOver_failPlan (s : State) (all : Bool) : (s.handOver all).failPlan = s.failPlan := rfl
@[simp] theorem handOver_pending (s : State) (all : Bool) : (s.handOver all).pending = s.pending := rfl

@[simp] theorem imaged_tick (s : State) : (s.imaged).tick = s.tick := rfl
@[simp] theorem imaged_wraps (s : State) : (s.imaged).wraps = s.wraps := rfl
@[simp] theorem imaged_disp (s : State) : (s.imaged).disp = s.disp := rfl
@[simp] theorem imaged_alerts (s : State) : (s.imaged).alerts = s.alerts := rfl
@[simp] theorem imaged_pods (s : State) : (s.imaged).pods = s.pods := rfl
@[simp] theorem imaged_monitor (s : State) : (s.imaged).monitor = s.monitor := rfl
@[simp] theorem imaged_gens (s : State) : (s.imaged).gens = s.gens := rfl
@[simp] theorem imaged_chain01 (s : State) : (s.imaged).chain01 = s.chain01 := rfl
@[simp] theorem imaged_chain23 (s : State) : (s.imaged).chain23 = s.chain23 := rfl
@[simp] theorem imaged_sampler (s : State) : (s.imaged).sampler = s.sampler := rfl
@[simp] theorem imaged_staging (s : State) : (s.imaged).staging = s.staging := rfl
@[simp] theorem imaged_writer (s : State) : (s.imaged).writer = s.writer := rfl
@[simp] theorem imaged_pool (s : State) : (s.imaged).pool = s.pool := rfl
@[simp] theorem imaged_takes (s : State) : (s.imaged).takes = s.takes := rfl
@[simp] theorem imaged_seq (s : State) : (s.imaged).seq = s.seq := rfl
@[simp] theorem imaged_lanes (s : State) : (s.imaged).lanes = s.lanes := rfl
@[simp] theorem imaged_slots (s : State) : (s.imaged).slots = s.slots := rfl
@[simp] theorem imaged_replay (s : State) : (s.imaged).replay = s.replay := rfl
@[simp] theorem imaged_exporter (s : State) : (s.imaged).exporter = s.exporter := rfl
@[simp] theorem imaged_render (s : State) : (s.imaged).render = s.render := rfl
@[simp] theorem imaged_panel (s : State) : (s.imaged).panel = s.panel := rfl
@[simp] theorem imaged_shared (s : State) : (s.imaged).shared = s.shared := rfl
@[simp] theorem imaged_failPlan (s : State) : (s.imaged).failPlan = s.failPlan := rfl
@[simp] theorem imaged_pending (s : State) : (s.imaged).pending = s.pending := rfl
@[simp] theorem hands_tick (s : State) (us : List Nat) : (s.hands us).tick = s.tick := rfl
@[simp] theorem hands_wraps (s : State) (us : List Nat) : (s.hands us).wraps = s.wraps := rfl
@[simp] theorem hands_disp (s : State) (us : List Nat) : (s.hands us).disp = s.disp := rfl
@[simp] theorem hands_alerts (s : State) (us : List Nat) : (s.hands us).alerts = s.alerts := rfl
@[simp] theorem hands_pods (s : State) (us : List Nat) : (s.hands us).pods = s.pods := rfl
@[simp] theorem hands_monitor (s : State) (us : List Nat) : (s.hands us).monitor = s.monitor := rfl
@[simp] theorem hands_gens (s : State) (us : List Nat) : (s.hands us).gens = s.gens := rfl
@[simp] theorem hands_chain01 (s : State) (us : List Nat) : (s.hands us).chain01 = s.chain01 := rfl
@[simp] theorem hands_chain23 (s : State) (us : List Nat) : (s.hands us).chain23 = s.chain23 := rfl
@[simp] theorem hands_sampler (s : State) (us : List Nat) : (s.hands us).sampler = s.sampler := rfl
@[simp] theorem hands_staging (s : State) (us : List Nat) : (s.hands us).staging = s.staging := rfl
@[simp] theorem hands_writer (s : State) (us : List Nat) : (s.hands us).writer = s.writer := rfl
@[simp] theorem hands_pool (s : State) (us : List Nat) : (s.hands us).pool = s.pool := rfl
@[simp] theorem hands_takes (s : State) (us : List Nat) : (s.hands us).takes = s.takes := rfl
@[simp] theorem hands_seq (s : State) (us : List Nat) : (s.hands us).seq = s.seq := rfl
@[simp] theorem hands_lanes (s : State) (us : List Nat) : (s.hands us).lanes = s.lanes := rfl
@[simp] theorem hands_slots (s : State) (us : List Nat) : (s.hands us).slots = s.slots := rfl
@[simp] theorem hands_replay (s : State) (us : List Nat) : (s.hands us).replay = s.replay := rfl
@[simp] theorem hands_exporter (s : State) (us : List Nat) : (s.hands us).exporter = s.exporter := rfl
@[simp] theorem hands_render (s : State) (us : List Nat) : (s.hands us).render = s.render := rfl
@[simp] theorem hands_panel (s : State) (us : List Nat) : (s.hands us).panel = s.panel := rfl
@[simp] theorem hands_shared (s : State) (us : List Nat) : (s.hands us).shared = s.shared := rfl
@[simp] theorem hands_failPlan (s : State) (us : List Nat) : (s.hands us).failPlan = s.failPlan := rfl
@[simp] theorem hands_pending (s : State) (us : List Nat) : (s.hands us).pending = s.pending := rfl

@[simp] theorem seqTo_tick (s : State) (q : Sequencer) : (s.seqTo q).tick = s.tick := rfl
@[simp] theorem seqTo_wraps (s : State) (q : Sequencer) : (s.seqTo q).wraps = s.wraps := rfl
@[simp] theorem seqTo_disp (s : State) (q : Sequencer) : (s.seqTo q).disp = s.disp := rfl
@[simp] theorem seqTo_alerts (s : State) (q : Sequencer) : (s.seqTo q).alerts = s.alerts := rfl
@[simp] theorem seqTo_pods (s : State) (q : Sequencer) : (s.seqTo q).pods = s.pods := rfl
@[simp] theorem seqTo_monitor (s : State) (q : Sequencer) : (s.seqTo q).monitor = s.monitor := rfl
@[simp] theorem seqTo_gens (s : State) (q : Sequencer) : (s.seqTo q).gens = s.gens := rfl
@[simp] theorem seqTo_chain01 (s : State) (q : Sequencer) : (s.seqTo q).chain01 = s.chain01 := rfl
@[simp] theorem seqTo_chain23 (s : State) (q : Sequencer) : (s.seqTo q).chain23 = s.chain23 := rfl
@[simp] theorem seqTo_sampler (s : State) (q : Sequencer) : (s.seqTo q).sampler = s.sampler := rfl
@[simp] theorem seqTo_staging (s : State) (q : Sequencer) : (s.seqTo q).staging = s.staging := rfl
@[simp] theorem seqTo_writer (s : State) (q : Sequencer) : (s.seqTo q).writer = s.writer := rfl
@[simp] theorem seqTo_pool (s : State) (q : Sequencer) : (s.seqTo q).pool = s.pool := rfl
@[simp] theorem seqTo_takes (s : State) (q : Sequencer) : (s.seqTo q).takes = s.takes := rfl
@[simp] theorem seqTo_seq (s : State) (q : Sequencer) : (s.seqTo q).seq = q := rfl
@[simp] theorem seqTo_lanes (s : State) (q : Sequencer) : (s.seqTo q).lanes = s.lanes := rfl
@[simp] theorem seqTo_slots (s : State) (q : Sequencer) : (s.seqTo q).slots = s.slots := rfl
@[simp] theorem seqTo_replay (s : State) (q : Sequencer) : (s.seqTo q).replay = s.replay := rfl
@[simp] theorem seqTo_exporter (s : State) (q : Sequencer) : (s.seqTo q).exporter = s.exporter := rfl
@[simp] theorem seqTo_render (s : State) (q : Sequencer) : (s.seqTo q).render = s.render := rfl
@[simp] theorem seqTo_panel (s : State) (q : Sequencer) : (s.seqTo q).panel = s.panel := rfl
@[simp] theorem seqTo_shared (s : State) (q : Sequencer) : (s.seqTo q).shared = s.shared := rfl
@[simp] theorem seqTo_failPlan (s : State) (q : Sequencer) : (s.seqTo q).failPlan = s.failPlan := rfl
@[simp] theorem seqTo_pending (s : State) (q : Sequencer) : (s.seqTo q).pending = s.pending := rfl

@[simp] theorem withStaging_tick (s : State) (f : Staging) : (s.withStaging f).tick = s.tick := rfl
@[simp] theorem withStaging_wraps (s : State) (f : Staging) : (s.withStaging f).wraps = s.wraps := rfl
@[simp] theorem withStaging_disp (s : State) (f : Staging) : (s.withStaging f).disp = s.disp := rfl
@[simp] theorem withStaging_alerts (s : State) (f : Staging) : (s.withStaging f).alerts = s.alerts := rfl
@[simp] theorem withStaging_pods (s : State) (f : Staging) : (s.withStaging f).pods = s.pods := rfl
@[simp] theorem withStaging_monitor (s : State) (f : Staging) : (s.withStaging f).monitor = s.monitor := rfl
@[simp] theorem withStaging_gens (s : State) (f : Staging) : (s.withStaging f).gens = s.gens := rfl
@[simp] theorem withStaging_chain01 (s : State) (f : Staging) : (s.withStaging f).chain01 = s.chain01 := rfl
@[simp] theorem withStaging_chain23 (s : State) (f : Staging) : (s.withStaging f).chain23 = s.chain23 := rfl
@[simp] theorem withStaging_sampler (s : State) (f : Staging) : (s.withStaging f).sampler = s.sampler := rfl
@[simp] theorem withStaging_staging (s : State) (f : Staging) : (s.withStaging f).staging = f := rfl
@[simp] theorem withStaging_writer (s : State) (f : Staging) : (s.withStaging f).writer = s.writer := rfl
@[simp] theorem withStaging_pool (s : State) (f : Staging) : (s.withStaging f).pool = s.pool := rfl
@[simp] theorem withStaging_takes (s : State) (f : Staging) : (s.withStaging f).takes = s.takes := rfl
@[simp] theorem withStaging_seq (s : State) (f : Staging) : (s.withStaging f).seq = s.seq := rfl
@[simp] theorem withStaging_lanes (s : State) (f : Staging) : (s.withStaging f).lanes = s.lanes := rfl
@[simp] theorem withStaging_slots (s : State) (f : Staging) : (s.withStaging f).slots = s.slots := rfl
@[simp] theorem withStaging_replay (s : State) (f : Staging) : (s.withStaging f).replay = s.replay := rfl
@[simp] theorem withStaging_exporter (s : State) (f : Staging) : (s.withStaging f).exporter = s.exporter := rfl
@[simp] theorem withStaging_render (s : State) (f : Staging) : (s.withStaging f).render = s.render := rfl
@[simp] theorem withStaging_panel (s : State) (f : Staging) : (s.withStaging f).panel = s.panel := rfl
@[simp] theorem withStaging_shared (s : State) (f : Staging) : (s.withStaging f).shared = s.shared := rfl
@[simp] theorem withStaging_failPlan (s : State) (f : Staging) : (s.withStaging f).failPlan = s.failPlan := rfl
@[simp] theorem withStaging_pending (s : State) (f : Staging) : (s.withStaging f).pending = s.pending := rfl

@[simp] theorem forming_tick (s : State) : (s.forming).tick = s.tick := rfl
@[simp] theorem forming_wraps (s : State) : (s.forming).wraps = s.wraps := rfl
@[simp] theorem forming_disp (s : State) : (s.forming).disp = s.disp := rfl
@[simp] theorem forming_alerts (s : State) : (s.forming).alerts = s.alerts := rfl
@[simp] theorem forming_pods (s : State) : (s.forming).pods = s.pods := rfl
@[simp] theorem forming_monitor (s : State) : (s.forming).monitor = s.monitor := rfl
@[simp] theorem forming_gens (s : State) : (s.forming).gens = s.gens := rfl
@[simp] theorem forming_chain01 (s : State) : (s.forming).chain01 = s.chain01 := rfl
@[simp] theorem forming_chain23 (s : State) : (s.forming).chain23 = s.chain23 := rfl
@[simp] theorem forming_staging (s : State) : (s.forming).staging = s.staging := rfl
@[simp] theorem forming_writer (s : State) : (s.forming).writer = s.writer := rfl
@[simp] theorem forming_pool (s : State) : (s.forming).pool = s.pool := rfl
@[simp] theorem forming_takes (s : State) : (s.forming).takes = s.takes := rfl
@[simp] theorem forming_seq (s : State) : (s.forming).seq = s.seq := rfl
@[simp] theorem forming_lanes (s : State) : (s.forming).lanes = s.lanes := rfl
@[simp] theorem forming_slots (s : State) : (s.forming).slots = s.slots := rfl
@[simp] theorem forming_replay (s : State) : (s.forming).replay = s.replay := rfl
@[simp] theorem forming_exporter (s : State) : (s.forming).exporter = s.exporter := rfl
@[simp] theorem forming_render (s : State) : (s.forming).render = s.render := rfl
@[simp] theorem forming_panel (s : State) : (s.forming).panel = s.panel := rfl
@[simp] theorem forming_shared (s : State) : (s.forming).shared = s.shared := rfl
@[simp] theorem forming_failPlan (s : State) : (s.forming).failPlan = s.failPlan := rfl
@[simp] theorem forming_pending (s : State) : (s.forming).pending = s.pending := rfl
@[simp] theorem forming_report (s : State) : (s.forming).report = s.report := rfl
@[simp] theorem forming_sampler (s : State) : (s.forming).sampler = { s.sampler with formedAt := some s.intervalTime } := rfl

@[simp] theorem acquireBlock_report (s : State) (i b : Nat) (rest : List Nat) : (s.acquireBlock i b rest).report = s.report.handing [unitFree] := rfl
@[simp] theorem sealBlock_report (s : State) (i b : Nat) : (s.sealBlock i b).report = s.report.handing [unitCapture] := rfl
@[simp] theorem freeFront_report (s : State) (i b : Nat) : (s.freeFront i b).report = s.report.handing (s.freedUnits i) := rfl
@[simp] theorem freeFilling_report (s : State) (b : Nat) : (s.freeFilling b).report = s.report.handing [unitFree] := rfl
@[simp] theorem hands_report (s : State) (us : List Nat) : (s.hands us).report = s.report.handing us := rfl
@[simp] theorem seqTo_report (s : State) (q : Sequencer) : (s.seqTo q).report = s.report.handStage q s.tick false := rfl
@[simp] theorem withStaging_report (s : State) (f : Staging) : (s.withStaging f).report = s.report.handFill s.staging.fill f.fill := rfl

@[simp] theorem haltDispatcher_tick (s : State) : (s.haltDispatcher).tick = s.tick := rfl
@[simp] theorem haltDispatcher_wraps (s : State) : (s.haltDispatcher).wraps = s.wraps := rfl
@[simp] theorem haltDispatcher_alerts (s : State) : (s.haltDispatcher).alerts = s.alerts := rfl
@[simp] theorem haltDispatcher_report (s : State) : (s.haltDispatcher).report = s.report := rfl
@[simp] theorem haltDispatcher_pods (s : State) : (s.haltDispatcher).pods = s.pods := rfl
@[simp] theorem haltDispatcher_monitor (s : State) : (s.haltDispatcher).monitor = s.monitor := rfl
@[simp] theorem haltDispatcher_gens (s : State) : (s.haltDispatcher).gens = s.gens := rfl
@[simp] theorem haltDispatcher_chain01 (s : State) : (s.haltDispatcher).chain01 = s.chain01 := rfl
@[simp] theorem haltDispatcher_chain23 (s : State) : (s.haltDispatcher).chain23 = s.chain23 := rfl
@[simp] theorem haltDispatcher_sampler (s : State) : (s.haltDispatcher).sampler = s.sampler := rfl
@[simp] theorem haltDispatcher_staging (s : State) : (s.haltDispatcher).staging = s.staging := rfl
@[simp] theorem haltDispatcher_writer (s : State) : (s.haltDispatcher).writer = s.writer := rfl
@[simp] theorem haltDispatcher_pool (s : State) : (s.haltDispatcher).pool = s.pool := rfl
@[simp] theorem haltDispatcher_takes (s : State) : (s.haltDispatcher).takes = s.takes := rfl
@[simp] theorem haltDispatcher_seq (s : State) : (s.haltDispatcher).seq = s.seq := rfl
@[simp] theorem haltDispatcher_lanes (s : State) : (s.haltDispatcher).lanes = s.lanes := rfl
@[simp] theorem haltDispatcher_slots (s : State) : (s.haltDispatcher).slots = s.slots := rfl
@[simp] theorem haltDispatcher_replay (s : State) : (s.haltDispatcher).replay = s.replay := rfl
@[simp] theorem haltDispatcher_exporter (s : State) : (s.haltDispatcher).exporter = s.exporter := rfl
@[simp] theorem haltDispatcher_render (s : State) : (s.haltDispatcher).render = s.render := rfl
@[simp] theorem haltDispatcher_panel (s : State) : (s.haltDispatcher).panel = s.panel := rfl
@[simp] theorem haltDispatcher_shared (s : State) : (s.haltDispatcher).shared = s.shared := rfl
@[simp] theorem haltDispatcher_failPlan (s : State) : (s.haltDispatcher).failPlan = s.failPlan := rfl
@[simp] theorem haltDispatcher_pending (s : State) : (s.haltDispatcher).pending = s.pending := rfl

@[simp] theorem broken_tick (s : State) : (s.broken).tick = s.tick := rfl
@[simp] theorem broken_wraps (s : State) : (s.broken).wraps = s.wraps := rfl
@[simp] theorem broken_report (s : State) : (s.broken).report = s.report := rfl
@[simp] theorem broken_pods (s : State) : (s.broken).pods = s.pods := rfl
@[simp] theorem broken_monitor (s : State) : (s.broken).monitor = s.monitor := rfl
@[simp] theorem broken_gens (s : State) : (s.broken).gens = s.gens := rfl
@[simp] theorem broken_chain01 (s : State) : (s.broken).chain01 = s.chain01 := rfl
@[simp] theorem broken_chain23 (s : State) : (s.broken).chain23 = s.chain23 := rfl
@[simp] theorem broken_sampler (s : State) : (s.broken).sampler = s.sampler := rfl
@[simp] theorem broken_staging (s : State) : (s.broken).staging = s.staging := rfl
@[simp] theorem broken_writer (s : State) : (s.broken).writer = s.writer := rfl
@[simp] theorem broken_pool (s : State) : (s.broken).pool = s.pool := rfl
@[simp] theorem broken_takes (s : State) : (s.broken).takes = s.takes := rfl
@[simp] theorem broken_seq (s : State) : (s.broken).seq = s.seq := rfl
@[simp] theorem broken_lanes (s : State) : (s.broken).lanes = s.lanes := rfl
@[simp] theorem broken_slots (s : State) : (s.broken).slots = s.slots := rfl
@[simp] theorem broken_replay (s : State) : (s.broken).replay = s.replay := rfl
@[simp] theorem broken_exporter (s : State) : (s.broken).exporter = s.exporter := rfl
@[simp] theorem broken_render (s : State) : (s.broken).render = s.render := rfl
@[simp] theorem broken_panel (s : State) : (s.broken).panel = s.panel := rfl
@[simp] theorem broken_shared (s : State) : (s.broken).shared = s.shared := rfl
@[simp] theorem broken_failPlan (s : State) : (s.broken).failPlan = s.failPlan := rfl
@[simp] theorem broken_pending (s : State) : (s.broken).pending = s.pending := rfl

@[simp] theorem stallOn_tick (s : State) (addr : Nat) : (s.stallOn addr).tick = s.tick := rfl
@[simp] theorem stallOn_wraps (s : State) (addr : Nat) : (s.stallOn addr).wraps = s.wraps := rfl
@[simp] theorem stallOn_alerts (s : State) (addr : Nat) : (s.stallOn addr).alerts = s.alerts := rfl
@[simp] theorem stallOn_report (s : State) (addr : Nat) : (s.stallOn addr).report = s.report := rfl
@[simp] theorem stallOn_pods (s : State) (addr : Nat) : (s.stallOn addr).pods = s.pods := rfl
@[simp] theorem stallOn_monitor (s : State) (addr : Nat) : (s.stallOn addr).monitor = s.monitor := rfl
@[simp] theorem stallOn_gens (s : State) (addr : Nat) : (s.stallOn addr).gens = s.gens := rfl
@[simp] theorem stallOn_chain01 (s : State) (addr : Nat) : (s.stallOn addr).chain01 = s.chain01 := rfl
@[simp] theorem stallOn_chain23 (s : State) (addr : Nat) : (s.stallOn addr).chain23 = s.chain23 := rfl
@[simp] theorem stallOn_sampler (s : State) (addr : Nat) : (s.stallOn addr).sampler = s.sampler := rfl
@[simp] theorem stallOn_staging (s : State) (addr : Nat) : (s.stallOn addr).staging = s.staging := rfl
@[simp] theorem stallOn_writer (s : State) (addr : Nat) : (s.stallOn addr).writer = s.writer := rfl
@[simp] theorem stallOn_pool (s : State) (addr : Nat) : (s.stallOn addr).pool = s.pool := rfl
@[simp] theorem stallOn_takes (s : State) (addr : Nat) : (s.stallOn addr).takes = s.takes := rfl
@[simp] theorem stallOn_seq (s : State) (addr : Nat) : (s.stallOn addr).seq = s.seq := rfl
@[simp] theorem stallOn_lanes (s : State) (addr : Nat) : (s.stallOn addr).lanes = s.lanes := rfl
@[simp] theorem stallOn_slots (s : State) (addr : Nat) : (s.stallOn addr).slots = s.slots := rfl
@[simp] theorem stallOn_replay (s : State) (addr : Nat) : (s.stallOn addr).replay = s.replay := rfl
@[simp] theorem stallOn_exporter (s : State) (addr : Nat) : (s.stallOn addr).exporter = s.exporter := rfl
@[simp] theorem stallOn_render (s : State) (addr : Nat) : (s.stallOn addr).render = s.render := rfl
@[simp] theorem stallOn_panel (s : State) (addr : Nat) : (s.stallOn addr).panel = s.panel := rfl
@[simp] theorem stallOn_shared (s : State) (addr : Nat) : (s.stallOn addr).shared = s.shared := rfl
@[simp] theorem stallOn_failPlan (s : State) (addr : Nat) : (s.stallOn addr).failPlan = s.failPlan := rfl
@[simp] theorem stallOn_pending (s : State) (addr : Nat) : (s.stallOn addr).pending = s.pending := rfl

@[simp] theorem powerReset_shared (s : State) : (s.powerReset).shared = s.shared := rfl
@[simp] theorem powerReset_pending (s : State) : (s.powerReset).pending = s.pending := rfl

@[simp] theorem senses_tick (s : State) (p : Fin 4) (absent hot : Bool) : (s.senses p absent hot).tick = s.tick := rfl
@[simp] theorem senses_wraps (s : State) (p : Fin 4) (absent hot : Bool) : (s.senses p absent hot).wraps = s.wraps := rfl
@[simp] theorem senses_disp (s : State) (p : Fin 4) (absent hot : Bool) : (s.senses p absent hot).disp = s.disp := rfl
@[simp] theorem senses_alerts (s : State) (p : Fin 4) (absent hot : Bool) : (s.senses p absent hot).alerts = s.alerts := rfl
@[simp] theorem senses_report (s : State) (p : Fin 4) (absent hot : Bool) : (s.senses p absent hot).report = s.report := rfl
@[simp] theorem senses_monitor (s : State) (p : Fin 4) (absent hot : Bool) : (s.senses p absent hot).monitor = s.monitor := rfl
@[simp] theorem senses_gens (s : State) (p : Fin 4) (absent hot : Bool) : (s.senses p absent hot).gens = s.gens := rfl
@[simp] theorem senses_chain01 (s : State) (p : Fin 4) (absent hot : Bool) : (s.senses p absent hot).chain01 = s.chain01 := rfl
@[simp] theorem senses_chain23 (s : State) (p : Fin 4) (absent hot : Bool) : (s.senses p absent hot).chain23 = s.chain23 := rfl
@[simp] theorem senses_sampler (s : State) (p : Fin 4) (absent hot : Bool) : (s.senses p absent hot).sampler = s.sampler := rfl
@[simp] theorem senses_staging (s : State) (p : Fin 4) (absent hot : Bool) : (s.senses p absent hot).staging = s.staging := rfl
@[simp] theorem senses_writer (s : State) (p : Fin 4) (absent hot : Bool) : (s.senses p absent hot).writer = s.writer := rfl
@[simp] theorem senses_pool (s : State) (p : Fin 4) (absent hot : Bool) : (s.senses p absent hot).pool = s.pool := rfl
@[simp] theorem senses_takes (s : State) (p : Fin 4) (absent hot : Bool) : (s.senses p absent hot).takes = s.takes := rfl
@[simp] theorem senses_seq (s : State) (p : Fin 4) (absent hot : Bool) : (s.senses p absent hot).seq = s.seq := rfl
@[simp] theorem senses_lanes (s : State) (p : Fin 4) (absent hot : Bool) : (s.senses p absent hot).lanes = s.lanes := rfl
@[simp] theorem senses_slots (s : State) (p : Fin 4) (absent hot : Bool) : (s.senses p absent hot).slots = s.slots := rfl
@[simp] theorem senses_replay (s : State) (p : Fin 4) (absent hot : Bool) : (s.senses p absent hot).replay = s.replay := rfl
@[simp] theorem senses_exporter (s : State) (p : Fin 4) (absent hot : Bool) : (s.senses p absent hot).exporter = s.exporter := rfl
@[simp] theorem senses_render (s : State) (p : Fin 4) (absent hot : Bool) : (s.senses p absent hot).render = s.render := rfl
@[simp] theorem senses_panel (s : State) (p : Fin 4) (absent hot : Bool) : (s.senses p absent hot).panel = s.panel := rfl
@[simp] theorem senses_shared (s : State) (p : Fin 4) (absent hot : Bool) : (s.senses p absent hot).shared = s.shared := rfl
@[simp] theorem senses_failPlan (s : State) (p : Fin 4) (absent hot : Bool) : (s.senses p absent hot).failPlan = s.failPlan := rfl
@[simp] theorem senses_pending (s : State) (p : Fin 4) (absent hot : Bool) : (s.senses p absent hot).pending = s.pending := rfl

@[simp] theorem dropWaits_tick (s : State) (b : Nat) : (s.dropWaits b).tick = s.tick := rfl
@[simp] theorem dropWaits_wraps (s : State) (b : Nat) : (s.dropWaits b).wraps = s.wraps := rfl
@[simp] theorem dropWaits_disp (s : State) (b : Nat) : (s.dropWaits b).disp = s.disp := rfl
@[simp] theorem dropWaits_alerts (s : State) (b : Nat) : (s.dropWaits b).alerts = s.alerts := rfl
@[simp] theorem dropWaits_report (s : State) (b : Nat) : (s.dropWaits b).report = s.report := rfl
@[simp] theorem dropWaits_pods (s : State) (b : Nat) : (s.dropWaits b).pods = s.pods := rfl
@[simp] theorem dropWaits_monitor (s : State) (b : Nat) : (s.dropWaits b).monitor = s.monitor := rfl
@[simp] theorem dropWaits_gens (s : State) (b : Nat) : (s.dropWaits b).gens = s.gens := rfl
@[simp] theorem dropWaits_chain01 (s : State) (b : Nat) : (s.dropWaits b).chain01 = s.chain01 := rfl
@[simp] theorem dropWaits_chain23 (s : State) (b : Nat) : (s.dropWaits b).chain23 = s.chain23 := rfl
@[simp] theorem dropWaits_staging (s : State) (b : Nat) : (s.dropWaits b).staging = s.staging := rfl
@[simp] theorem dropWaits_writer (s : State) (b : Nat) : (s.dropWaits b).writer = s.writer := rfl
@[simp] theorem dropWaits_takes (s : State) (b : Nat) : (s.dropWaits b).takes = s.takes := rfl
@[simp] theorem dropWaits_seq (s : State) (b : Nat) : (s.dropWaits b).seq = s.seq := rfl
@[simp] theorem dropWaits_lanes (s : State) (b : Nat) : (s.dropWaits b).lanes = s.lanes := rfl
@[simp] theorem dropWaits_slots (s : State) (b : Nat) : (s.dropWaits b).slots = s.slots := rfl
@[simp] theorem dropWaits_replay (s : State) (b : Nat) : (s.dropWaits b).replay = s.replay := rfl
@[simp] theorem dropWaits_exporter (s : State) (b : Nat) : (s.dropWaits b).exporter = s.exporter := rfl
@[simp] theorem dropWaits_render (s : State) (b : Nat) : (s.dropWaits b).render = s.render := rfl
@[simp] theorem dropWaits_panel (s : State) (b : Nat) : (s.dropWaits b).panel = s.panel := rfl
@[simp] theorem dropWaits_shared (s : State) (b : Nat) : (s.dropWaits b).shared = s.shared := rfl
@[simp] theorem dropWaits_failPlan (s : State) (b : Nat) : (s.dropWaits b).failPlan = s.failPlan := rfl
@[simp] theorem dropWaits_pending (s : State) (b : Nat) : (s.dropWaits b).pending = s.pending := rfl
@[simp] theorem dropWaits_sampler (s : State) (b : Nat) : (s.dropWaits b).sampler = s.sampler := rfl
@[simp] theorem dropWaits_blocks (s : State) (b : Nat) : (s.dropWaits b).pool.blocks = s.pool.blocks := rfl
@[simp] theorem dropWaits_free (s : State) (b : Nat) : (s.dropWaits b).pool.free = s.pool.free := rfl

@[simp] theorem formLevels_tick (s : State) (levels : Chans) : (s.formLevels levels).tick = s.tick := rfl
@[simp] theorem formLevels_wraps (s : State) (levels : Chans) : (s.formLevels levels).wraps = s.wraps := rfl
@[simp] theorem formLevels_disp (s : State) (levels : Chans) : (s.formLevels levels).disp = s.disp := rfl
@[simp] theorem formLevels_alerts (s : State) (levels : Chans) : (s.formLevels levels).alerts = s.alerts := rfl
@[simp] theorem formLevels_report (s : State) (levels : Chans) : (s.formLevels levels).report = s.report := rfl
@[simp] theorem formLevels_pods (s : State) (levels : Chans) : (s.formLevels levels).pods = s.pods := rfl
@[simp] theorem formLevels_monitor (s : State) (levels : Chans) : (s.formLevels levels).monitor = s.monitor := rfl
@[simp] theorem formLevels_gens (s : State) (levels : Chans) : (s.formLevels levels).gens = s.gens := rfl
@[simp] theorem formLevels_chain01 (s : State) (levels : Chans) : (s.formLevels levels).chain01 = s.chain01 := rfl
@[simp] theorem formLevels_chain23 (s : State) (levels : Chans) : (s.formLevels levels).chain23 = s.chain23 := rfl
@[simp] theorem formLevels_staging (s : State) (levels : Chans) : (s.formLevels levels).staging = s.staging := rfl
@[simp] theorem formLevels_writer (s : State) (levels : Chans) : (s.formLevels levels).writer = s.writer := rfl
@[simp] theorem formLevels_pool (s : State) (levels : Chans) : (s.formLevels levels).pool = s.pool := rfl
@[simp] theorem formLevels_takes (s : State) (levels : Chans) : (s.formLevels levels).takes = s.takes := rfl
@[simp] theorem formLevels_seq (s : State) (levels : Chans) : (s.formLevels levels).seq = s.seq := rfl
@[simp] theorem formLevels_lanes (s : State) (levels : Chans) : (s.formLevels levels).lanes = s.lanes := rfl
@[simp] theorem formLevels_slots (s : State) (levels : Chans) : (s.formLevels levels).slots = s.slots := rfl
@[simp] theorem formLevels_replay (s : State) (levels : Chans) : (s.formLevels levels).replay = s.replay := rfl
@[simp] theorem formLevels_exporter (s : State) (levels : Chans) : (s.formLevels levels).exporter = s.exporter := rfl
@[simp] theorem formLevels_render (s : State) (levels : Chans) : (s.formLevels levels).render = s.render := rfl
@[simp] theorem formLevels_panel (s : State) (levels : Chans) : (s.formLevels levels).panel = s.panel := rfl
@[simp] theorem formLevels_shared (s : State) (levels : Chans) : (s.formLevels levels).shared = s.shared := rfl
@[simp] theorem formLevels_failPlan (s : State) (levels : Chans) : (s.formLevels levels).failPlan = s.failPlan := rfl
@[simp] theorem formLevels_pending (s : State) (levels : Chans) : (s.formLevels levels).pending = s.pending := rfl

@[simp] theorem compared_tick (s : State) (levels : Chans) : (s.compared levels).tick = s.tick := rfl
@[simp] theorem compared_wraps (s : State) (levels : Chans) : (s.compared levels).wraps = s.wraps := rfl
@[simp] theorem compared_disp (s : State) (levels : Chans) : (s.compared levels).disp = s.disp := rfl
@[simp] theorem compared_alerts (s : State) (levels : Chans) : (s.compared levels).alerts = s.alerts := rfl
@[simp] theorem compared_report (s : State) (levels : Chans) : (s.compared levels).report = s.report := rfl
@[simp] theorem compared_pods (s : State) (levels : Chans) : (s.compared levels).pods = s.pods := rfl
@[simp] theorem compared_monitor (s : State) (levels : Chans) : (s.compared levels).monitor = s.monitor := rfl
@[simp] theorem compared_gens (s : State) (levels : Chans) : (s.compared levels).gens = s.gens := rfl
@[simp] theorem compared_chain01 (s : State) (levels : Chans) : (s.compared levels).chain01 = s.chain01 := rfl
@[simp] theorem compared_chain23 (s : State) (levels : Chans) : (s.compared levels).chain23 = s.chain23 := rfl
@[simp] theorem compared_staging (s : State) (levels : Chans) : (s.compared levels).staging = s.staging := rfl
@[simp] theorem compared_writer (s : State) (levels : Chans) : (s.compared levels).writer = s.writer := rfl
@[simp] theorem compared_pool (s : State) (levels : Chans) : (s.compared levels).pool = s.pool := rfl
@[simp] theorem compared_takes (s : State) (levels : Chans) : (s.compared levels).takes = s.takes := rfl
@[simp] theorem compared_seq (s : State) (levels : Chans) : (s.compared levels).seq = s.seq := rfl
@[simp] theorem compared_lanes (s : State) (levels : Chans) : (s.compared levels).lanes = s.lanes := rfl
@[simp] theorem compared_slots (s : State) (levels : Chans) : (s.compared levels).slots = s.slots := rfl
@[simp] theorem compared_replay (s : State) (levels : Chans) : (s.compared levels).replay = s.replay := rfl
@[simp] theorem compared_exporter (s : State) (levels : Chans) : (s.compared levels).exporter = s.exporter := rfl
@[simp] theorem compared_render (s : State) (levels : Chans) : (s.compared levels).render = s.render := rfl
@[simp] theorem compared_panel (s : State) (levels : Chans) : (s.compared levels).panel = s.panel := rfl
@[simp] theorem compared_shared (s : State) (levels : Chans) : (s.compared levels).shared = s.shared := rfl
@[simp] theorem compared_failPlan (s : State) (levels : Chans) : (s.compared levels).failPlan = s.failPlan := rfl
@[simp] theorem compared_pending (s : State) (levels : Chans) : (s.compared levels).pending = s.pending := rfl

@[simp] theorem laneDone_tick (s : State) (k : Fin 4) : (s.laneDone k).tick = s.tick := rfl
@[simp] theorem laneDone_wraps (s : State) (k : Fin 4) : (s.laneDone k).wraps = s.wraps := rfl
@[simp] theorem laneDone_disp (s : State) (k : Fin 4) : (s.laneDone k).disp = s.disp := rfl
@[simp] theorem laneDone_alerts (s : State) (k : Fin 4) : (s.laneDone k).alerts = s.alerts := rfl
@[simp] theorem laneDone_report (s : State) (k : Fin 4) : (s.laneDone k).report = s.report := rfl
@[simp] theorem laneDone_pods (s : State) (k : Fin 4) : (s.laneDone k).pods = s.pods := rfl
@[simp] theorem laneDone_monitor (s : State) (k : Fin 4) : (s.laneDone k).monitor = s.monitor := rfl
@[simp] theorem laneDone_gens (s : State) (k : Fin 4) : (s.laneDone k).gens = s.gens := rfl
@[simp] theorem laneDone_chain01 (s : State) (k : Fin 4) : (s.laneDone k).chain01 = s.chain01 := rfl
@[simp] theorem laneDone_chain23 (s : State) (k : Fin 4) : (s.laneDone k).chain23 = s.chain23 := rfl
@[simp] theorem laneDone_sampler (s : State) (k : Fin 4) : (s.laneDone k).sampler = s.sampler := rfl
@[simp] theorem laneDone_staging (s : State) (k : Fin 4) : (s.laneDone k).staging = s.staging := rfl
@[simp] theorem laneDone_writer (s : State) (k : Fin 4) : (s.laneDone k).writer = s.writer := rfl
@[simp] theorem laneDone_pool (s : State) (k : Fin 4) : (s.laneDone k).pool = s.pool := rfl
@[simp] theorem laneDone_takes (s : State) (k : Fin 4) : (s.laneDone k).takes = s.takes := rfl
@[simp] theorem laneDone_seq (s : State) (k : Fin 4) : (s.laneDone k).seq = s.seq := rfl
@[simp] theorem laneDone_slots (s : State) (k : Fin 4) : (s.laneDone k).slots = s.slots := rfl
@[simp] theorem laneDone_exporter (s : State) (k : Fin 4) : (s.laneDone k).exporter = s.exporter := rfl
@[simp] theorem laneDone_render (s : State) (k : Fin 4) : (s.laneDone k).render = s.render := rfl
@[simp] theorem laneDone_panel (s : State) (k : Fin 4) : (s.laneDone k).panel = s.panel := rfl
@[simp] theorem laneDone_shared (s : State) (k : Fin 4) : (s.laneDone k).shared = s.shared := rfl
@[simp] theorem laneDone_failPlan (s : State) (k : Fin 4) : (s.laneDone k).failPlan = s.failPlan := rfl
@[simp] theorem laneDone_pending (s : State) (k : Fin 4) : (s.laneDone k).pending = s.pending := rfl

@[simp] theorem willFail_tick (s : State) (a : LinkAccess) (n : Nat) : (s.willFail a n).tick = s.tick := rfl
@[simp] theorem willFail_wraps (s : State) (a : LinkAccess) (n : Nat) : (s.willFail a n).wraps = s.wraps := rfl
@[simp] theorem willFail_disp (s : State) (a : LinkAccess) (n : Nat) : (s.willFail a n).disp = s.disp := rfl
@[simp] theorem willFail_alerts (s : State) (a : LinkAccess) (n : Nat) : (s.willFail a n).alerts = s.alerts := rfl
@[simp] theorem willFail_report (s : State) (a : LinkAccess) (n : Nat) : (s.willFail a n).report = s.report := rfl
@[simp] theorem willFail_pods (s : State) (a : LinkAccess) (n : Nat) : (s.willFail a n).pods = s.pods := rfl
@[simp] theorem willFail_monitor (s : State) (a : LinkAccess) (n : Nat) : (s.willFail a n).monitor = s.monitor := rfl
@[simp] theorem willFail_gens (s : State) (a : LinkAccess) (n : Nat) : (s.willFail a n).gens = s.gens := rfl
@[simp] theorem willFail_chain01 (s : State) (a : LinkAccess) (n : Nat) : (s.willFail a n).chain01 = s.chain01 := rfl
@[simp] theorem willFail_chain23 (s : State) (a : LinkAccess) (n : Nat) : (s.willFail a n).chain23 = s.chain23 := rfl
@[simp] theorem willFail_sampler (s : State) (a : LinkAccess) (n : Nat) : (s.willFail a n).sampler = s.sampler := rfl
@[simp] theorem willFail_staging (s : State) (a : LinkAccess) (n : Nat) : (s.willFail a n).staging = s.staging := rfl
@[simp] theorem willFail_writer (s : State) (a : LinkAccess) (n : Nat) : (s.willFail a n).writer = s.writer := rfl
@[simp] theorem willFail_pool (s : State) (a : LinkAccess) (n : Nat) : (s.willFail a n).pool = s.pool := rfl
@[simp] theorem willFail_takes (s : State) (a : LinkAccess) (n : Nat) : (s.willFail a n).takes = s.takes := rfl
@[simp] theorem willFail_seq (s : State) (a : LinkAccess) (n : Nat) : (s.willFail a n).seq = s.seq := rfl
@[simp] theorem willFail_lanes (s : State) (a : LinkAccess) (n : Nat) : (s.willFail a n).lanes = s.lanes := rfl
@[simp] theorem willFail_slots (s : State) (a : LinkAccess) (n : Nat) : (s.willFail a n).slots = s.slots := rfl
@[simp] theorem willFail_replay (s : State) (a : LinkAccess) (n : Nat) : (s.willFail a n).replay = s.replay := rfl
@[simp] theorem willFail_exporter (s : State) (a : LinkAccess) (n : Nat) : (s.willFail a n).exporter = s.exporter := rfl
@[simp] theorem willFail_render (s : State) (a : LinkAccess) (n : Nat) : (s.willFail a n).render = s.render := rfl
@[simp] theorem willFail_panel (s : State) (a : LinkAccess) (n : Nat) : (s.willFail a n).panel = s.panel := rfl
@[simp] theorem willFail_shared (s : State) (a : LinkAccess) (n : Nat) : (s.willFail a n).shared = s.shared := rfl
@[simp] theorem willFail_pending (s : State) (a : LinkAccess) (n : Nat) : (s.willFail a n).pending = s.pending := rfl

/-- A lane noted in the take being recorded changes the take table alone. -/
theorem noteLane_takes_only (s : State) (k : Fin 4) : s.noteLane k = { s with takes := (s.noteLane k).takes } := by
  unfold State.noteLane
  split <;> rfl

/-- With no take being recorded a frame record goes nowhere. -/
theorem insertFrame_none (s : State) (k : Fin 4) (t : Tick) (b : RecBody) (h : s.recordingIndex = none) : s.insertFrame k t b = s := by
  simp [State.insertFrame, State.noteLane, State.insert, h]

end Sys2Proof.Machine
end

