-- ==== Sys2Proof/Laws/Closing.lean ====
section
/-! SUPPORT. Laws/Closing.lean: what closes a step and what completes an order, with no failure in store: the port, the page, the record. -/

set_option Elab.async false

namespace Sys2Proof.Machine

/-! ## No failure in store -/

@[simp] theorem takeAccess_nil (a : LinkAccess) : takeAccess a [] = (false, []) := rfl

theorem fails_of_settled {s : State} (h : s.settled) (a : LinkAccess) : s.fails a = false := by
  unfold State.settled at h
  simp [State.fails, h]

theorem accessed_of_settled {s : State} (h : s.settled) (a : LinkAccess) : s.accessed a = s := by
  unfold State.settled at h
  have : (takeAccess a s.failPlan).2 = s.failPlan := by rw [h]; rfl
  unfold State.accessed
  rw [this]

/-! ## The page -/

/-- With no failure in store every unit to be written is written. -/
theorem storePage_plan (must : Nat → Bool) (n : Nat) (us vs : List Word64) (a : Nat) (m : Mem) :
    (storePage must n us vs a m []).plan = [] ∧ (storePage must n us vs a m []).failed = false := by
  induction us generalizing n vs a m with
  | nil => exact ⟨rfl, rfl⟩
  | cons u us ih =>
    cases vs with
    | nil => exact ⟨rfl, rfl⟩
    | cons v vs =>
      unfold storePage
      split
      · simpa using ih _ vs _ _
      · exact ih _ vs _ _

/-- Bytes of the first units, and of those after. -/
theorem inBytes_rest (a n c : Nat) (hc : c < 2 ^ 64) (h : inBytes (a + 8) (8 * n) c) : inBytes a (8 * (n + 1)) c :=
  inBytes_unit a n c hc (Or.inr h)

/-- A byte outside the units of a page reads as before. -/
theorem storePage_out (must : Nat → Bool) (n : Nat) (us vs : List Word64) (a c : Nat) (m : Mem) (plan : List (LinkAccess × Nat)) (h : m.wf = true)
    (hc : c < 2 ^ 64) (ho : ¬ inBytes a (8 * vs.length) c) : (storePage must n us vs a m plan).mem.get c = m.get c := by
  induction us generalizing n vs a m plan with
  | nil => rfl
  | cons u us ih =>
    cases vs with
    | nil => rfl
    | cons v vs =>
      have h1 : ¬ inBytes a 8 c := fun e => ho (inBytes_unit a vs.length c hc (Or.inl e))
      have h2 : ¬ inBytes (a + 8) (8 * vs.length) c := fun e => ho (inBytes_rest a vs.length c hc e)
      unfold storePage
      split
      · split
        · rfl
        · rw [ih _ vs _ _ _ (Mem.putUnit_wf _ _ _ h) h2, Mem.get_putUnit_out _ _ _ _ h hc h1]
      · exact ih _ vs _ _ _ h h2

/-- With no failure in store a unit of the page that has to be written, handed over in the step (R193) or not, and the units after it. -/
theorem storePage_must (must : Nat → Bool) (n : Nat) (u v : Word64) (us vs : List Word64) (a : Nat) (m : Mem) (h : must n = true) :
    storePage must n (u :: us) (v :: vs) a m [] = storePage must (n + 1) us vs (a + 8) (m.putUnit a v) [] := by
  conv_lhs => unfold storePage
  simp [h]

/-- The page brought up to date, in HALTED: only the image goes on. -/
theorem syncReport_halted {s : State} (h : s.disp.state = .halted) : s.syncReport = (s.handOver s.pageStale).imaged := by
  unfold State.syncReport
  simp [h]

/-- The page brought up to date outside HALTED with no failure in store. -/
theorem syncReport_running {s : State} (h : s.disp.state ≠ .halted) (hs : s.settled) :
    s.syncReport =
      State.imaged { s.handOver s.pageStale with
        shared := (s.pageStore (s.handOver s.pageStale).pageUnits).mem
        failPlan := [] } := by
  unfold State.settled at hs
  have h1 := storePage_plan s.mustWrite 0 s.report.image (s.handOver s.pageStale).pageUnits s.disp.pageAddr s.shared
  unfold State.syncReport State.pageStore
  simp [h, hs, h1.1, h1.2]

/-- The page brought up to date with no failure in store: shared memory and the report writer alone change. -/
theorem syncReport_frame {s : State} (hs : s.settled) :
    s.syncReport = { s with shared := s.syncReport.shared, report := s.syncReport.report, failPlan := [] } := by
  by_cases h : s.disp.state = .halted
  · rw [syncReport_halted h]
    unfold State.settled at hs
    simp [State.handOver, State.imaged, ← hs]
  · rw [syncReport_running h hs]
    rfl

/-- Bytes outside the page read as before. -/
theorem syncReport_get {s : State} (hs : s.settled) (hw : s.shared.wf = true) (a : Nat) (ha : a < 2 ^ 64) (ho : ¬ s.inPage a) :
    s.syncReport.shared.get a = s.shared.get a := by
  by_cases h : s.disp.state = .halted
  · rw [syncReport_halted h]
    rfl
  · rw [syncReport_running h hs]
    refine storePage_out _ _ _ _ _ _ _ _ hw ha ?_
    rw [pageUnits_length']
    exact fun e => ho ⟨h, e⟩
where
  pageUnits_length' {s : State} : s.pageUnits.length = 64 := rfl

/-! ## The closing of a step -/

/-- A step that closes with no failure in store: see closedFrom. -/
theorem finish_closedFrom {s : State} (hs : s.settled) (hw : s.shared.wf = true) : closedFrom s s.finish := by
  have hg : (s.grant s.waits).settled := hs
  have hpool : s.finish.pool = (s.grant s.waits).pool := by
    unfold State.finish
    rw [syncReport_frame hg]
  have hp : s.finish.pool = { s.pool with lastGranted := s.finish.pool.lastGranted, inFlight := s.finish.pool.inFlight } := by
    rw [hpool]
    unfold State.grant
    dsimp only
    split <;> rfl
  refine ⟨?_, ?_⟩
  · rw [← hp, hpool]
    conv_lhs => unfold State.finish
    rw [syncReport_frame hg]
    rfl
  · intro a ha _ ho
    exact syncReport_get hg hw a ha ho

/-! ## Completion -/

/-- A completion with no failure in store. -/
theorem complete_settled {s : State} (hs : s.settled) (o : OrderRef) (kind : OrderKind) (oc : Outcome) (r : List Word64) :
    s.complete o kind oc r =
      { s with
        shared := (s.shared.putUnits (resultAddr o.addr kind) r).putUnit (stateAddr o.addr) (stateUnit (s.recordState o) oc.code)
        disp := { s.disp with cursorOutcome := if s.disp.cursor = some o.addr then some oc else s.disp.cursorOutcome }
        alerts := s.alerts.raiseIf o.alert .order
        failPlan := [] } := by
  unfold State.settled at hs
  have h1 : s.resultFails r = false := by
    unfold State.resultFails
    split
    · rfl
    · exact fails_of_settled hs _
  have h2 : s.planAfterResult r = [] := by
    unfold State.planAfterResult
    split <;> simp [hs]
  have h3 : s.stateWriteFails r = false := by
    unfold State.stateWriteFails
    simp [h2]
  unfold State.complete State.completeAs State.outcomeWritten State.recordState
  simp [h1, h2, h3, Alerts.raiseIf]

/-- Reading back units just stored. -/
theorem Mem.getUnits_putUnits (m : Mem) (a : Nat) (us : List Word64) (h : m.wf = true) (hl : a + 8 * us.length ≤ 2 ^ 64) :
    (m.putUnits a us).getUnits a us.length = us := by
  induction us generalizing m a with
  | nil => rfl
  | cons u rest ih =>
    simp only [List.length_cons] at hl
    have hw := Mem.putUnit_wf m a u h
    rw [show m.putUnits a (u :: rest) = (m.putUnit a u).putUnits (a + 8) rest from rfl]
    simp only [List.length_cons, Mem.getUnits]
    rw [ih (m.putUnit a u) (a + 8) hw (by omega)]
    congr 1
    have hout : ((m.putUnit a u).putUnits (a + 8) rest).getUnit a = (m.putUnit a u).getUnit a := by
      unfold Mem.getUnit
      rw [Mem.getNat_congr _ (m.putUnit a u) a 8 (fun i hi =>
        Mem.get_putUnits_out _ _ _ _ hw (by unfold wrapAddr; omega) (by unfold inBytes wrapAddr; omega))]
    rw [hout, Mem.getUnit_putUnit m a u h]

/-- Units read alike where all their bytes do. -/
theorem Mem.getUnits_congr (m m' : Mem) (a n : Nat) (h : ∀ i, i < 8 * n → m.get (wrapAddr (a + i)) = m'.get (wrapAddr (a + i))) :
    m.getUnits a n = m'.getUnits a n := by
  induction n generalizing a with
  | zero => rfl
  | succ n ih =>
    simp only [Mem.getUnits, Mem.getUnit]
    rw [Mem.getNat_congr m m' a 8 (fun i hi => h i (by omega)),
      ih (a + 8) (fun i hi => by have := h (8 + i) (by omega); rwa [show a + (8 + i) = a + 8 + i by omega] at this)]

/-- A byte of the record is outside the page. -/
theorem notInPage_of_clear {u : State} {o : OrderRef} {kind : OrderKind} {n : Nat} (hc : u.recordClear o kind n) (a : Nat) (h1 : o.addr ≤ a)
    (h2 : a < resultAddr o.addr kind + 8 * n) : ¬ u.inPage a := by
  intro ⟨hs, hp⟩
  rcases hc.2.2 with h | ⟨hp1, h⟩
  · exact hs h
  · have := hc.2.1
    unfold inBytes at hp
    omega

/-- An order completed and the step closed: see completedFrom. -/
theorem complete_finish {u : State} {o : OrderRef} {kind : OrderKind} {oc : Outcome} {r : List Word64} (hs : u.settled) (hw : u.shared.wf = true)
    (hc : u.recordClear o kind r.length) : completedFrom u (u.complete o kind oc r).finish o kind oc r := by
  have e := complete_settled hs o kind oc r
  have hw1 : (u.complete o kind oc r).shared.wf = true := by
    rw [e]
    exact Mem.putUnit_wf _ _ _ (Mem.putUnits_wf _ _ _ hw)
  have hs1 : (u.complete o kind oc r).settled := by rw [e]; rfl
  have hf := finish_closedFrom hs1 hw1
  have hpage : ∀ a, ¬ u.inPage a → ¬ (u.complete o kind oc r).inPage a := by
    intro a ha
    rw [e]
    exact ha
  have hadr : resultAddr o.addr kind = stateAddr o.addr + 0x10 + 8 * kind.paramUnits := by unfold resultAddr stateAddr; omega
  have hst : stateAddr o.addr = o.addr + 8 := rfl
  have hend := hc.2.1
  have hkeep : ∀ a, a < 2 ^ 64 → ¬ u.inPage a → (u.complete o kind oc r).finish.shared.get a = (u.complete o kind oc r).shared.get a :=
    fun a ha hp => hf.2 a ha (fun x => x) (hpage a hp)
  refine ⟨?_, ?_, ?_, ?_⟩
  · have h1 := hf.1
    rw [h1]
    rw [e]
  · have : (u.complete o kind oc r).finish.shared.getUnit (stateAddr o.addr) = (u.complete o kind oc r).shared.getUnit (stateAddr o.addr) := by
      unfold Mem.getUnit
      rw [Mem.getNat_congr _ _ _ 8 (fun i hi => hkeep _ (by unfold wrapAddr; omega) (notInPage_of_clear hc _ (by unfold wrapAddr; omega) (by unfold wrapAddr; omega)))]
    rw [this, e]
    exact Mem.getUnit_putUnit _ _ _ (Mem.putUnits_wf _ _ _ hw)
  · have : (u.complete o kind oc r).finish.shared.getUnits (resultAddr o.addr kind) r.length =
        (u.shared.putUnits (resultAddr o.addr kind) r).getUnits (resultAddr o.addr kind) r.length := by
      refine Mem.getUnits_congr _ _ _ _ (fun i hi => ?_)
      rw [hkeep _ (by unfold wrapAddr; omega) (notInPage_of_clear hc _ (by unfold wrapAddr; omega) (by unfold wrapAddr; omega)), e]
      exact Mem.get_putUnit_out _ _ _ _ (Mem.putUnits_wf _ _ _ hw) (by unfold wrapAddr; omega) (by unfold inBytes wrapAddr; omega)
    rw [this]
    exact Mem.getUnits_putUnits _ _ _ hw hend
  · intro a ha hn hp
    rw [hkeep a ha hp, e]
    dsimp only
    rw [Mem.get_putUnit_out _ _ _ _ (Mem.putUnits_wf _ _ _ hw) ha (fun x => hn (Or.inl x)),
      Mem.get_putUnits_out _ _ _ _ hw ha (fun x => hn (Or.inr x))]

/-! ## A field after the closing, and after a completion -/

theorem closedFrom.tick {u t : State} (h : closedFrom u t) : t.tick = u.tick := by rw [h.1]
theorem closedFrom.wraps {u t : State} (h : closedFrom u t) : t.wraps = u.wraps := by rw [h.1]
theorem closedFrom.disp {u t : State} (h : closedFrom u t) : t.disp = u.disp := by rw [h.1]
theorem closedFrom.alerts {u t : State} (h : closedFrom u t) : t.alerts = u.alerts := by rw [h.1]
theorem closedFrom.pods {u t : State} (h : closedFrom u t) : t.pods = u.pods := by rw [h.1]
theorem closedFrom.monitor {u t : State} (h : closedFrom u t) : t.monitor = u.monitor := by rw [h.1]
theorem closedFrom.gens {u t : State} (h : closedFrom u t) : t.gens = u.gens := by rw [h.1]
theorem closedFrom.chain01 {u t : State} (h : closedFrom u t) : t.chain01 = u.chain01 := by rw [h.1]
theorem closedFrom.chain23 {u t : State} (h : closedFrom u t) : t.chain23 = u.chain23 := by rw [h.1]
theorem closedFrom.sampler {u t : State} (h : closedFrom u t) : t.sampler = u.sampler := by rw [h.1]
theorem closedFrom.staging {u t : State} (h : closedFrom u t) : t.staging = u.staging := by rw [h.1]
theorem closedFrom.writer {u t : State} (h : closedFrom u t) : t.writer = u.writer := by rw [h.1]
theorem closedFrom.takes {u t : State} (h : closedFrom u t) : t.takes = u.takes := by rw [h.1]
theorem closedFrom.seq {u t : State} (h : closedFrom u t) : t.seq = u.seq := by rw [h.1]
theorem closedFrom.lanes {u t : State} (h : closedFrom u t) : t.lanes = u.lanes := by rw [h.1]
theorem closedFrom.slots {u t : State} (h : closedFrom u t) : t.slots = u.slots := by rw [h.1]
theorem closedFrom.replay {u t : State} (h : closedFrom u t) : t.replay = u.replay := by rw [h.1]
theorem closedFrom.exporter {u t : State} (h : closedFrom u t) : t.exporter = u.exporter := by rw [h.1]
theorem closedFrom.render {u t : State} (h : closedFrom u t) : t.render = u.render := by rw [h.1]
theorem closedFrom.panel {u t : State} (h : closedFrom u t) : t.panel = u.panel := by rw [h.1]
theorem closedFrom.pending {u t : State} (h : closedFrom u t) : t.pending = u.pending := by rw [h.1]
theorem closedFrom.pool_blocks {u t : State} (h : closedFrom u t) : t.pool.blocks = u.pool.blocks := by rw [h.1]
theorem closedFrom.pool_free {u t : State} (h : closedFrom u t) : t.pool.free = u.pool.free := by rw [h.1]
theorem closedFrom.pool_tripLevel {u t : State} (h : closedFrom u t) : t.pool.tripLevel = u.pool.tripLevel := by rw [h.1]
theorem closedFrom.pool_tripArmed {u t : State} (h : closedFrom u t) : t.pool.tripArmed = u.pool.tripArmed := by rw [h.1]
theorem closedFrom.takeAt {u t : State} (h : closedFrom u t) (i : Nat) : t.takeAt i = u.takeAt i := by unfold State.takeAt; rw [h.takes]
theorem closedFrom.settled {u t : State} (h : closedFrom u t) : t.settled := by rw [h.1]; rfl

theorem completedFrom.tick {u t : State} {o : OrderRef} {kind : OrderKind} {oc : Outcome} {r : List Word64} (h : completedFrom u t o kind oc r) : t.tick = u.tick := by rw [h.1]
theorem completedFrom.wraps {u t : State} {o : OrderRef} {kind : OrderKind} {oc : Outcome} {r : List Word64} (h : completedFrom u t o kind oc r) : t.wraps = u.wraps := by rw [h.1]
theorem completedFrom.pods {u t : State} {o : OrderRef} {kind : OrderKind} {oc : Outcome} {r : List Word64} (h : completedFrom u t o kind oc r) : t.pods = u.pods := by rw [h.1]
theorem completedFrom.monitor {u t : State} {o : OrderRef} {kind : OrderKind} {oc : Outcome} {r : List Word64} (h : completedFrom u t o kind oc r) : t.monitor = u.monitor := by rw [h.1]
theorem completedFrom.gens {u t : State} {o : OrderRef} {kind : OrderKind} {oc : Outcome} {r : List Word64} (h : completedFrom u t o kind oc r) : t.gens = u.gens := by rw [h.1]
theorem completedFrom.chain01 {u t : State} {o : OrderRef} {kind : OrderKind} {oc : Outcome} {r : List Word64} (h : completedFrom u t o kind oc r) : t.chain01 = u.chain01 := by rw [h.1]
theorem completedFrom.chain23 {u t : State} {o : OrderRef} {kind : OrderKind} {oc : Outcome} {r : List Word64} (h : completedFrom u t o kind oc r) : t.chain23 = u.chain23 := by rw [h.1]
theorem completedFrom.sampler {u t : State} {o : OrderRef} {kind : OrderKind} {oc : Outcome} {r : List Word64} (h : completedFrom u t o kind oc r) : t.sampler = u.sampler := by rw [h.1]
theorem completedFrom.staging {u t : State} {o : OrderRef} {kind : OrderKind} {oc : Outcome} {r : List Word64} (h : completedFrom u t o kind oc r) : t.staging = u.staging := by rw [h.1]
theorem completedFrom.writer {u t : State} {o : OrderRef} {kind : OrderKind} {oc : Outcome} {r : List Word64} (h : completedFrom u t o kind oc r) : t.writer = u.writer := by rw [h.1]
theorem completedFrom.takes {u t : State} {o : OrderRef} {kind : OrderKind} {oc : Outcome} {r : List Word64} (h : completedFrom u t o kind oc r) : t.takes = u.takes := by rw [h.1]
theorem completedFrom.seq {u t : State} {o : OrderRef} {kind : OrderKind} {oc : Outcome} {r : List Word64} (h : completedFrom u t o kind oc r) : t.seq = u.seq := by rw [h.1]
theorem completedFrom.lanes {u t : State} {o : OrderRef} {kind : OrderKind} {oc : Outcome} {r : List Word64} (h : completedFrom u t o kind oc r) : t.lanes = u.lanes := by rw [h.1]
theorem completedFrom.slots {u t : State} {o : OrderRef} {kind : OrderKind} {oc : Outcome} {r : List Word64} (h : completedFrom u t o kind oc r) : t.slots = u.slots := by rw [h.1]
theorem completedFrom.replay {u t : State} {o : OrderRef} {kind : OrderKind} {oc : Outcome} {r : List Word64} (h : completedFrom u t o kind oc r) : t.replay = u.replay := by rw [h.1]
theorem completedFrom.exporter {u t : State} {o : OrderRef} {kind : OrderKind} {oc : Outcome} {r : List Word64} (h : completedFrom u t o kind oc r) : t.exporter = u.exporter := by rw [h.1]
theorem completedFrom.render {u t : State} {o : OrderRef} {kind : OrderKind} {oc : Outcome} {r : List Word64} (h : completedFrom u t o kind oc r) : t.render = u.render := by rw [h.1]
theorem completedFrom.panel {u t : State} {o : OrderRef} {kind : OrderKind} {oc : Outcome} {r : List Word64} (h : completedFrom u t o kind oc r) : t.panel = u.panel := by rw [h.1]
theorem completedFrom.pending {u t : State} {o : OrderRef} {kind : OrderKind} {oc : Outcome} {r : List Word64} (h : completedFrom u t o kind oc r) : t.pending = u.pending := by rw [h.1]
theorem completedFrom.pool_blocks {u t : State} {o : OrderRef} {kind : OrderKind} {oc : Outcome} {r : List Word64} (h : completedFrom u t o kind oc r) : t.pool.blocks = u.pool.blocks := by rw [h.1]
theorem completedFrom.pool_free {u t : State} {o : OrderRef} {kind : OrderKind} {oc : Outcome} {r : List Word64} (h : completedFrom u t o kind oc r) : t.pool.free = u.pool.free := by rw [h.1]
theorem completedFrom.pool_tripLevel {u t : State} {o : OrderRef} {kind : OrderKind} {oc : Outcome} {r : List Word64} (h : completedFrom u t o kind oc r) : t.pool.tripLevel = u.pool.tripLevel := by rw [h.1]
theorem completedFrom.pool_tripArmed {u t : State} {o : OrderRef} {kind : OrderKind} {oc : Outcome} {r : List Word64} (h : completedFrom u t o kind oc r) : t.pool.tripArmed = u.pool.tripArmed := by rw [h.1]
theorem completedFrom.alerts {u t : State} {o : OrderRef} {kind : OrderKind} {oc : Outcome} {r : List Word64} (h : completedFrom u t o kind oc r) : t.alerts = u.alerts.raiseIf o.alert .order := by rw [h.1]
theorem completedFrom.disp {u t : State} {o : OrderRef} {kind : OrderKind} {oc : Outcome} {r : List Word64} (h : completedFrom u t o kind oc r) :
    t.disp = { u.disp with cursorOutcome := if u.disp.cursor = some o.addr then some oc else u.disp.cursorOutcome } := by rw [h.1]
theorem completedFrom.takeAt {u t : State} {o : OrderRef} {kind : OrderKind} {oc : Outcome} {r : List Word64} (h : completedFrom u t o kind oc r) (i : Nat) :
    t.takeAt i = u.takeAt i := by unfold State.takeAt; rw [h.takes]

/-! ## No event for the sequencer -/

theorem noEvents_quiet {q : Sequencer} (h : q.events = SeqEvents.none) : q.noEvents = q := by
  unfold Sequencer.noEvents
  rw [← h]

theorem lateEvents_quiet {s : State} (h : s.quiet) : s.lateEvents = none := by
  unfold State.quiet at h
  simp [State.lateEvents, h]

theorem dropGapEvents_quiet {s : State} (h : s.quiet) : s.dropGapEvents = s := by
  unfold State.dropGapEvents
  rw [noEvents_quiet h]
  split <;> rfl

theorem seqFlush_quiet {s : State} (h : s.quiet) : s.seqFlush = s := by
  unfold State.seqFlush
  rw [lateEvents_quiet h]
  exact dropGapEvents_quiet h

/-- With no capture run no maximum is judged. -/
theorem seqEarlier_idle {s : State} (h : s.captureRuns = false) (t : Tick) : s.seqEarlier t = s := by
  simp [State.seqEarlier, h]

/-- With no capture run a vector leaves the part as it is. -/
theorem seqVector_idle {s : State} (h : s.captureRuns = false) (t : Tick) (levels unknown : Chans) : s.seqVector t levels unknown = s := by
  simp [State.seqVector, seqEarlier_idle h, h]

theorem seqFlushEnding_quiet {s : State} (h : s.quiet) : s.seqFlushEnding = s := by
  unfold State.seqFlushEnding
  rw [lateEvents_quiet h]

/-- With no event for the sequencer a step closes as any other does. -/
theorem finishEvents_quiet {s : State} (h : s.quiet) : s.finishEvents = s.finish := by
  unfold State.finishEvents
  rw [seqFlush_quiet h]

end Sys2Proof.Machine
end

