-- ==== Sys2Proof/Laws/KeepsCapture.lean ====
section
/-! SUPPORT. Laws/KeepsCapture.lean: Keeps for the operations of the take table, the sequencer at work, the pods and the sampler. -/

set_option Elab.async false
set_option linter.unreachableTactic false
set_option linter.unusedTactic false
set_option linter.unusedSimpArgs false

namespace Sys2Proof.Machine

/-! ## Machine/Takes.lean -/

theorem completeStops_keeps {s₀ : State} (s : State) (os : List OrderRef) (hk : Keeps s₀ s) : Keeps s₀ (State.completeStops s os) := by
  unfold State.completeStops
  try dsimp only
  repeat' first
    | with_reducible exact hk | with_reducible assumption | with_reducible apply complete_keeps | with_reducible apply keeps_ite
    | (with_reducible refine keeps_foldl _ ?_ _ _ _ ?_; intro _ _ _ _; beta_reduce) | with_reducible exact id | with_reducible rfl
    | (simp only [putAt_length, List.length_map]; done) | (intro hw; simp [hw, takeAccess]; done) | (intro hw; exact hw) | split
    | with_reducible apply keeps_mk
    | dsimp only

theorem completeArm_keeps {s₀ : State} (s : State) (t : Take) (hk : Keeps s₀ s) : Keeps s₀ (State.completeArm s t) := by
  unfold State.completeArm
  try dsimp only
  repeat' first
    | with_reducible exact hk | with_reducible assumption | with_reducible apply armOrder_keeps | with_reducible apply complete_keeps
    | with_reducible apply keeps_ite | (with_reducible refine keeps_foldl _ ?_ _ _ _ ?_; intro _ _ _ _; beta_reduce) | with_reducible exact id
    | with_reducible rfl | (simp only [putAt_length, List.length_map]; done) | (intro hw; simp [hw, takeAccess]; done) | (intro hw; exact hw) | split
    | with_reducible apply keeps_mk
    | dsimp only

theorem Pool.unrevocable_partitioned (p : Pool) (id : Nat) (h : p.partitioned) : (p.unrevocable id).partitioned := by
  have ho : (p.unrevocable id).owned = p.owned := by simp [Pool.owned, Pool.unrevocable, Function.comp_def]
  unfold Pool.partitioned at *
  rwa [ho]

theorem enterEnded_keeps {s₀ : State} (s : State) (i : Nat) (hk : Keeps s₀ s) : Keeps s₀ (State.enterEnded s i) := by
  unfold State.enterEnded
  refine renderFinal_keeps _ _ (raise_keeps _ _ (completeStops_keeps _ _ (completeArm_keeps _ _ ?_)))
  exact hk.upd rfl rfl rfl id (Pool.unrevocable_partitioned _ _) (putAt_length _ _ _) rfl rfl rfl id

theorem revoke_owned (s : State) (b : Nat) : (s.revoke b).pool.owned = s.pool.owned := by
  unfold State.revoke
  split
  · rfl
  · exact Pool.setBlock_owned _ _ _

theorem dropBlock_keeps {s₀ : State} (s : State) (i b : Nat) (hm : b ∈ s.pool.owned) (hk : Keeps s₀ s) : Keeps s₀ (State.dropBlock s i b) :=
  keeps_ite (renderAfterDrop_keeps _ (freeFront_keeps _ _ _ (by rw [revoke_owned]; exact hm) (revoke_keeps _ _ hk))) (freeFront_keeps _ _ _ hm hk)

theorem dropWaits_keeps {s₀ : State} (s : State) (b : Nat) (hk : Keeps s₀ s) : Keeps s₀ (State.dropWaits s b) :=
  hk.upd rfl rfl rfl id id rfl rfl rfl rfl id

theorem dropFront_keeps {s₀ : State} (s : State) (i : Nat) (hk : Keeps s₀ s) : Keeps s₀ (State.dropFront s i) := by
  unfold State.dropFront
  split
  · exact hk
  · rename_i b hb
    exact keeps_ite (dropWaits_keeps _ _ hk) (dropBlock_keeps _ _ _ (owned_of_frontBlock s i b hb) hk)

theorem dropWaited_keeps {s₀ : State} (s : State) (b : Nat) (hk : Keeps s₀ s) : Keeps s₀ (State.dropWaited s b) := by
  unfold State.dropWaited
  split
  · exact hk
  · rename_i e he
    split
    · exact hk
    · split
      · exact dropBlock_keeps _ _ _ (Pool.owned_of_block _ _ _ he) hk
      · exact hk

theorem ringCheck_keeps {s₀ : State} (s : State) (i : Nat) (hk : Keeps s₀ s) : Keeps s₀ (State.ringCheck s i) := by
  unfold State.ringCheck
  try dsimp only
  repeat' first
    | with_reducible exact hk | with_reducible assumption | with_reducible apply dropFront_keeps | with_reducible apply keeps_ite
    | (with_reducible refine keeps_foldl _ ?_ _ _ _ ?_; intro _ _ _ _; beta_reduce) | with_reducible exact id | with_reducible rfl
    | (simp only [putAt_length, List.length_map]; done) | (intro hw; simp [hw, takeAccess]; done) | (intro hw; exact hw) | split
    | with_reducible apply keeps_mk
    | dsimp only

theorem putRecord_keeps {s₀ : State} (s : State) (i b : Nat) (r : CapRec) (t : Tick) (hk : Keeps s₀ s) : Keeps s₀ (State.putRecord s i b r t) := by
  unfold State.putRecord
  try dsimp only
  repeat' first
    | with_reducible exact hk | with_reducible assumption | with_reducible apply keeps_ite
    | (with_reducible refine keeps_foldl _ ?_ _ _ _ ?_; intro _ _ _ _; beta_reduce) | with_reducible exact id | with_reducible rfl
    | (simp only [putAt_length, List.length_map]; done) | (intro hw; simp [hw, takeAccess]; done) | (intro hw; exact hw) | split
    | with_reducible apply keeps_mk
    | dsimp only

theorem writeRecord_keeps {s₀ : State} (s : State) (i b : Nat) (r : CapRec) (t : Tick)
    (hk : Keeps s₀ s) : Keeps s₀ (State.writeRecord s i b r t) := by
  unfold State.writeRecord
  try dsimp only
  repeat' first
    | with_reducible exact hk | with_reducible assumption | with_reducible apply putRecord_keeps | with_reducible apply keeps_ite
    | (with_reducible refine keeps_foldl _ ?_ _ _ _ ?_; intro _ _ _ _; beta_reduce) | with_reducible exact id | with_reducible rfl
    | (simp only [putAt_length, List.length_map]; done) | (intro hw; simp [hw, takeAccess]; done) | (intro hw; exact hw) | split
    | with_reducible apply keeps_mk
    | dsimp only

theorem closingGap_keeps {s₀ : State} (s : State) (i : Nat) (hk : Keeps s₀ s) : Keeps s₀ (State.closingGap s i) := by
  unfold State.closingGap
  try dsimp only
  repeat' first
    | with_reducible exact hk | with_reducible assumption | with_reducible apply writeRecord_keeps | with_reducible apply keeps_ite
    | (with_reducible refine keeps_foldl _ ?_ _ _ _ ?_; intro _ _ _ _; beta_reduce) | with_reducible exact id | with_reducible rfl
    | (simp only [putAt_length, List.length_map]; done) | (intro hw; simp [hw, takeAccess]; done) | (intro hw; exact hw) | split
    | with_reducible apply keeps_mk
    | dsimp only

/-- Handing the lost records over, or not, touches no image. -/
theorem Report.handLostIf_image (c : Prop) [Decidable c] (r : Report) (lost : Nat) : (if c then r.handLost lost else r).image.length = r.image.length := by
  split <;> rfl

theorem discardStaged_keeps {s₀ : State} (s : State) (i : Nat) (counted : Bool) (hk : Keeps s₀ s) : Keeps s₀ (State.discardStaged s i counted) :=
  hk.upd rfl rfl rfl id id (putAt_length _ _ _) rfl rfl ((Report.handLostIf_image _ _ _).trans (Report.handFill_image _ _ _)) id

theorem settleLast_keeps {s₀ : State} (s : State) (i : Nat) (hk : Keeps s₀ s) : Keeps s₀ (State.settleLast s i) := by
  unfold State.settleLast
  split
  · exact hk
  · split
    · exact hk
    · rename_i e he
      refine keeps_ite (freeFilling_keeps _ _ (Pool.owned_of_block _ _ _ he) hk) ?_
      exact keeps_ite (ringCheck_keeps _ _ (renderSeal_keeps _ _ (sealBlock_keeps _ _ _ hk))) (renderSeal_keeps _ _ (sealBlock_keeps _ _ _ hk))

theorem settleIfDrained_keeps {s₀ : State} (s : State) (i : Nat) (hk : Keeps s₀ s) : Keeps s₀ (State.settleIfDrained s i) := by
  unfold State.settleIfDrained
  try dsimp only
  repeat' first
    | with_reducible exact hk | with_reducible assumption | with_reducible apply settleLast_keeps | with_reducible apply closingGap_keeps
    | with_reducible apply discardStaged_keeps | with_reducible apply keeps_ite
    | (with_reducible refine keeps_foldl _ ?_ _ _ _ ?_; intro _ _ _ _; beta_reduce) | with_reducible exact id | with_reducible rfl
    | (simp only [putAt_length, List.length_map]; done) | (intro hw; simp [hw, takeAccess]; done) | (intro hw; exact hw) | split
    | with_reducible apply keeps_mk
    | dsimp only

theorem takeEnding_keeps {s₀ : State} (s : State) (i : Nat) (reason : EndReason) (hk : Keeps s₀ s) : Keeps s₀ (State.takeEnding s i reason) := by
  unfold State.takeEnding
  try dsimp only
  repeat' first
    | with_reducible exact hk | with_reducible assumption | with_reducible apply detachLanes_keeps | with_reducible apply keeps_ite
    | (with_reducible refine keeps_foldl _ ?_ _ _ _ ?_; intro _ _ _ _; beta_reduce) | with_reducible exact id | with_reducible rfl
    | (simp only [putAt_length, List.length_map]; done) | (intro hw; simp [hw, takeAccess]; done) | (intro hw; exact hw) | split
    | with_reducible apply keeps_mk
    | dsimp only

theorem endTake_keeps {s₀ : State} (s : State) (i : Nat) (reason : EndReason) (hk : Keeps s₀ s) : Keeps s₀ (State.endTake s i reason) := by
  unfold State.endTake
  try dsimp only
  repeat' first
    | with_reducible exact hk | with_reducible assumption | with_reducible apply settleIfDrained_keeps | with_reducible apply takeEnding_keeps
    | with_reducible apply discardStaged_keeps | with_reducible apply enterEnded_keeps | with_reducible apply keeps_ite
    | (with_reducible refine keeps_foldl _ ?_ _ _ _ ?_; intro _ _ _ _; beta_reduce) | with_reducible exact id | with_reducible rfl
    | (simp only [putAt_length, List.length_map]; done) | (intro hw; simp [hw, takeAccess]; done) | (intro hw; exact hw) | split
    | with_reducible apply keeps_mk
    | dsimp only

theorem afterSealPretrig_keeps {s₀ : State} (s : State) (i : Nat) (hk : Keeps s₀ s) : Keeps s₀ (State.afterSealPretrig s i) := by
  unfold State.afterSealPretrig
  try dsimp only
  repeat' first
    | with_reducible exact hk | with_reducible assumption | with_reducible apply dropFront_keeps | with_reducible apply acquire_keeps
    | with_reducible apply ringCheck_keeps | with_reducible apply keeps_ite
    | (with_reducible refine keeps_foldl _ ?_ _ _ _ ?_; intro _ _ _ _; beta_reduce) | with_reducible exact id | with_reducible rfl
    | (simp only [putAt_length, List.length_map]; done) | (intro hw; simp [hw, takeAccess]; done) | (intro hw; exact hw) | split
    | with_reducible apply keeps_mk
    | dsimp only

theorem afterSealPosttrig_keeps {s₀ : State} (s : State) (i : Nat) (hk : Keeps s₀ s) : Keeps s₀ (State.afterSealPosttrig s i) := by
  unfold State.afterSealPosttrig
  try dsimp only
  repeat' first
    | with_reducible exact hk | with_reducible assumption | with_reducible apply acquire_keeps | with_reducible apply endTake_keeps
    | with_reducible apply keeps_ite | (with_reducible refine keeps_foldl _ ?_ _ _ _ ?_; intro _ _ _ _; beta_reduce) | with_reducible exact id
    | with_reducible rfl | (simp only [putAt_length, List.length_map]; done) | (intro hw; simp [hw, takeAccess]; done) | (intro hw; exact hw) | split
    | with_reducible apply keeps_mk
    | dsimp only

theorem sealFull_keeps {s₀ : State} (s : State) (i b : Nat) (hk : Keeps s₀ s) : Keeps s₀ (State.sealFull s i b) := by
  unfold State.sealFull
  try dsimp only
  repeat' first
    | with_reducible exact hk | with_reducible assumption | with_reducible apply renderSeal_keeps | with_reducible apply afterSealPosttrig_keeps
    | with_reducible apply sealBlock_keeps | with_reducible apply afterSealPretrig_keeps | with_reducible apply keeps_ite
    | (with_reducible refine keeps_foldl _ ?_ _ _ _ ?_; intro _ _ _ _; beta_reduce) | with_reducible exact id | with_reducible rfl
    | (simp only [putAt_length, List.length_map]; done) | (intro hw; simp [hw, takeAccess]; done) | (intro hw; exact hw) | split
    | with_reducible apply keeps_mk
    | dsimp only

theorem withStaging_keeps {s₀ : State} (s : State) (f : Staging) (hk : Keeps s₀ s) : Keeps s₀ (s.withStaging f) :=
  hk.upd rfl rfl rfl id id rfl rfl rfl (Report.handFill_image _ _ _) id

theorem drainOne_keeps {s₀ : State} (s : State) (i b : Nat) (e : Staged) (hk : Keeps s₀ s) : Keeps s₀ (State.drainOne s i b e) := by
  unfold State.drainOne
  try dsimp only
  repeat' first
    | with_reducible exact hk | with_reducible assumption | with_reducible apply settleIfDrained_keeps | with_reducible apply writeRecord_keeps
    | with_reducible apply recover_keeps | with_reducible apply sealFull_keeps | with_reducible apply withStaging_keeps
    | with_reducible apply keeps_ite
    | (with_reducible refine keeps_foldl _ ?_ _ _ _ ?_; intro _ _ _ _; beta_reduce) | with_reducible exact id | with_reducible rfl
    | (simp only [putAt_length, List.length_map]; done) | (intro hw; simp [hw, takeAccess]; done) | (intro hw; exact hw) | split
    | with_reducible apply keeps_mk
    | dsimp only

theorem writerAccess_keeps {s₀ : State} (s : State) (hk : Keeps s₀ s) : Keeps s₀ (State.writerAccess s) := by
  unfold State.writerAccess
  try dsimp only
  repeat' first
    | with_reducible exact hk | with_reducible assumption | with_reducible apply drainOne_keeps | with_reducible apply keeps_ite
    | (with_reducible refine keeps_foldl _ ?_ _ _ _ ?_; intro _ _ _ _; beta_reduce) | with_reducible exact id | with_reducible rfl
    | (simp only [putAt_length, List.length_map]; done) | (intro hw; simp [hw, takeAccess]; done) | (intro hw; exact hw) | split
    | with_reducible apply keeps_mk
    | dsimp only

theorem seqTo_keeps {s₀ : State} (s : State) (q : Sequencer) (hk : Keeps s₀ s) : Keeps s₀ (s.seqTo q) :=
  hk.upd rfl rfl rfl id id rfl rfl rfl rfl id

theorem beginRun_keeps {s₀ : State} (s : State) (t : Take) (hk : Keeps s₀ s) : Keeps s₀ (s.beginRun t) :=
  keeps_ite (seqTo_keeps _ _ (hands_keeps _ _ hk)) hk

theorem enterPretrig_keeps {s₀ : State} (s : State) (i : Nat) (hk : Keeps s₀ s) : Keeps s₀ (State.enterPretrig s i) := by
  unfold State.enterPretrig
  try dsimp only
  repeat' first
    | with_reducible exact hk | with_reducible assumption | with_reducible apply attachLanes_keeps | with_reducible apply setTake_keeps
    | with_reducible apply acquire_keeps | with_reducible apply endTake_keeps | with_reducible apply restateFaults_keeps
    | with_reducible apply hands_keeps | with_reducible apply beginRun_keeps
    | with_reducible apply keeps_ite | (with_reducible refine keeps_foldl _ ?_ _ _ _ ?_; intro _ _ _ _; beta_reduce) | with_reducible exact id
    | with_reducible rfl | (simp only [putAt_length, List.length_map]; done) | (intro hw; simp [hw, takeAccess]; done) | (intro hw; exact hw) | split
    | with_reducible apply keeps_mk
    | dsimp only

theorem podIsOn_keeps {s₀ : State} (s : State) (hk : Keeps s₀ s) : Keeps s₀ (State.podIsOn s) := by
  unfold State.podIsOn
  try dsimp only
  repeat' first
    | with_reducible exact hk | with_reducible assumption | with_reducible apply enterPretrig_keeps | with_reducible apply keeps_ite
    | (with_reducible refine keeps_foldl _ ?_ _ _ _ ?_; intro _ _ _ _; beta_reduce) | with_reducible exact id | with_reducible rfl
    | (simp only [putAt_length, List.length_map]; done) | (intro hw; simp [hw, takeAccess]; done) | (intro hw; exact hw) | split
    | with_reducible apply keeps_mk
    | dsimp only

theorem wakePods_keeps {s₀ : State} (s : State) (hk : Keeps s₀ s) : Keeps s₀ (State.wakePods s) := by
  unfold State.wakePods
  try dsimp only
  repeat' first
    | with_reducible exact hk | with_reducible assumption | with_reducible apply keeps_ite
    | (with_reducible refine keeps_foldl _ ?_ _ _ _ ?_; intro _ _ _ _; beta_reduce) | with_reducible exact id | with_reducible rfl
    | (simp only [putAt_length, List.length_map]; done) | (intro hw; simp [hw, takeAccess]; done) | (intro hw; exact hw) | split
    | with_reducible apply keeps_mk
    | dsimp only

theorem trigger_keeps {s₀ : State} (s : State) (i : Nat) (src : TrigSource) (stage : Nat) (t : Tick)
    (hk : Keeps s₀ s) : Keeps s₀ (State.trigger s i src stage t) := by
  unfold State.trigger
  try dsimp only
  repeat' first
    | with_reducible exact hk | with_reducible assumption | with_reducible apply wakePods_keeps | with_reducible apply liveGap_keeps
    | with_reducible apply insert_keeps | with_reducible apply setTake_keeps | with_reducible apply raise_keeps | with_reducible apply keeps_ite
    | (with_reducible refine keeps_foldl _ ?_ _ _ _ ?_; intro _ _ _ _; beta_reduce) | with_reducible exact id | with_reducible rfl
    | (simp only [putAt_length, List.length_map]; done) | (intro hw; simp [hw, takeAccess]; done) | (intro hw; exact hw) | split
    | with_reducible apply keeps_mk
    | dsimp only

theorem armed_keeps {s₀ : State} (s : State) (o : OrderRef) (p : ArmP) (i : Nat) (hk : Keeps s₀ s) : Keeps s₀ (State.armed s o p i) := by
  unfold State.armed
  try dsimp only
  repeat' first
    | with_reducible exact hk | with_reducible assumption | with_reducible apply keeps_ite
    | (with_reducible refine keeps_foldl _ ?_ _ _ _ ?_; intro _ _ _ _; beta_reduce) | with_reducible exact id | with_reducible rfl
    | (simp only [putAt_length, List.length_map]; done) | (intro hw; simp [hw, takeAccess]; done) | (intro hw; exact hw) | split
    | with_reducible apply keeps_mk
    | dsimp only

theorem armOrder_keeps {s₀ : State} (o : OrderRef) (p : ArmP) (s : State) (hk : Keeps s₀ s) : Keeps s₀ (armOrder o p s).state := by
  unfold armOrder
  try dsimp only
  repeat' first
    | with_reducible exact hk | with_reducible assumption | with_reducible apply inFlight_keeps | with_reducible apply enterPretrig_keeps
    | with_reducible apply refuse_keeps | with_reducible apply armed_keeps | with_reducible apply keeps_ite
    | (with_reducible refine keeps_foldl _ ?_ _ _ _ ?_; intro _ _ _ _; beta_reduce) | with_reducible exact id | with_reducible rfl
    | (simp only [putAt_length, List.length_map]; done) | (intro hw; simp [hw, takeAccess]; done) | (intro hw; exact hw) | split
    | with_reducible apply keeps_mk
    | dsimp only

theorem stopOrder_keeps {s₀ : State} (o : OrderRef) (s : State) (hk : Keeps s₀ s) : Keeps s₀ (stopOrder o s).state := by
  unfold stopOrder
  try dsimp only
  repeat' first
    | with_reducible exact hk | with_reducible assumption | with_reducible apply inFlight_keeps | with_reducible apply refuse_keeps
    | with_reducible apply setTake_keeps | with_reducible apply endTake_keeps | with_reducible apply keeps_ite
    | (with_reducible refine keeps_foldl _ ?_ _ _ _ ?_; intro _ _ _ _; beta_reduce) | with_reducible exact id | with_reducible rfl
    | (simp only [putAt_length, List.length_map]; done) | (intro hw; simp [hw, takeAccess]; done) | (intro hw; exact hw) | split
    | with_reducible apply keeps_mk
    | dsimp only

theorem forceOrder_keeps {s₀ : State} (s : State) (hk : Keeps s₀ s) : Keeps s₀ (forceOrder s).state := by
  unfold forceOrder
  try dsimp only
  repeat' first
    | with_reducible exact hk | with_reducible assumption | with_reducible apply refuse_keeps | with_reducible apply accept_keeps
    | with_reducible apply trigger_keeps | with_reducible apply keeps_ite
    | (with_reducible refine keeps_foldl _ ?_ _ _ _ ?_; intro _ _ _ _; beta_reduce) | with_reducible exact id | with_reducible rfl
    | (simp only [putAt_length, List.length_map]; done) | (intro hw; simp [hw, takeAccess]; done) | (intro hw; exact hw) | split
    | with_reducible apply keeps_mk
    | dsimp only

theorem takeStatusOrder_keeps {s₀ : State} (p : TakeIdP) (s : State) (hk : Keeps s₀ s) : Keeps s₀ (takeStatusOrder p s).state := by
  unfold takeStatusOrder
  try dsimp only
  repeat' first
    | with_reducible exact hk | with_reducible assumption | with_reducible apply refuse_keeps | with_reducible apply keeps_ite
    | (with_reducible refine keeps_foldl _ ?_ _ _ _ ?_; intro _ _ _ _; beta_reduce) | with_reducible exact id | with_reducible rfl
    | (simp only [putAt_length, List.length_map]; done) | (intro hw; simp [hw, takeAccess]; done) | (intro hw; exact hw) | split
    | with_reducible apply keeps_mk
    | dsimp only

/-! ## Machine/SeqRun.lean -/

theorem hit_keeps {s₀ : State} (s : State) (t : Tick) (stage : Nat) (hk : Keeps s₀ s) : Keeps s₀ (State.hit s t stage) := by
  unfold State.hit
  try dsimp only
  repeat' first
    | with_reducible exact hk | with_reducible assumption | with_reducible apply keeps_ite
    | (with_reducible refine keeps_foldl _ ?_ _ _ _ ?_; intro _ _ _ _; beta_reduce) | with_reducible exact id | with_reducible rfl
    | (simp only [putAt_length, List.length_map]; done) | (intro hw; simp [hw, takeAccess]; done) | (intro hw; exact hw) | split
    | with_reducible apply keeps_mk
    | dsimp only

theorem fire_keeps {s₀ : State} (s : State) (t : Tick) (stage : Nat) (hk : Keeps s₀ s) : Keeps s₀ (State.fire s t stage) := by
  unfold State.fire
  try dsimp only
  repeat' first
    | with_reducible exact hk | with_reducible assumption | with_reducible apply trigger_keeps | with_reducible apply keeps_ite
    | (with_reducible refine keeps_foldl _ ?_ _ _ _ ?_; intro _ _ _ _; beta_reduce) | with_reducible exact id | with_reducible rfl
    | (simp only [putAt_length, List.length_map]; done) | (intro hw; simp [hw, takeAccess]; done) | (intro hw; exact hw) | split
    | with_reducible apply keeps_mk
    | dsimp only

theorem seqOut_keeps {s₀ : State} (search : Bool) (t : Tick) (s : State) (o : SeqOut) (hk : Keeps s₀ s) : Keeps s₀ (State.seqOut search t s o) := by
  unfold State.seqOut
  try dsimp only
  repeat' first
    | with_reducible exact hk | with_reducible assumption | with_reducible apply hit_keeps | with_reducible apply insert_keeps
    | with_reducible apply stageStimulus_keeps | with_reducible apply fire_keeps | with_reducible apply keeps_ite
    | (with_reducible refine keeps_foldl _ ?_ _ _ _ ?_; intro _ _ _ _; beta_reduce) | with_reducible exact id | with_reducible rfl
    | (simp only [putAt_length, List.length_map]; done) | (intro hw; simp [hw, takeAccess]; done) | (intro hw; exact hw) | split
    | with_reducible apply keeps_mk
    | dsimp only

theorem flagTake_keeps {s₀ : State} (s : State) (hk : Keeps s₀ s) : Keeps s₀ (State.flagTake s) := by
  unfold State.flagTake
  try dsimp only
  repeat' first
    | with_reducible exact hk | with_reducible assumption | with_reducible apply setTake_keeps | with_reducible apply keeps_ite
    | (with_reducible refine keeps_foldl _ ?_ _ _ _ ?_; intro _ _ _ _; beta_reduce) | with_reducible exact id | with_reducible rfl
    | (simp only [putAt_length, List.length_map]; done) | (intro hw; simp [hw, takeAccess]; done) | (intro hw; exact hw) | split
    | with_reducible apply keeps_mk
    | dsimp only

theorem seqStep_keeps {s₀ : State} (s : State) (search : Bool) (t : Tick) (x : SeqStep)
    (hk : Keeps s₀ s) : Keeps s₀ (State.seqStep s search t x) := by
  unfold State.seqStep
  try dsimp only
  repeat' first
    | with_reducible exact hk | with_reducible assumption | with_reducible apply seqOut_keeps | with_reducible apply flagTake_keeps
    | with_reducible apply seqTo_keeps
    | with_reducible apply keeps_ite | (with_reducible refine keeps_foldl _ ?_ _ _ _ ?_; intro _ _ _ _; beta_reduce) | with_reducible exact id
    | with_reducible rfl | (simp only [putAt_length, List.length_map]; done) | (intro hw; simp [hw, takeAccess]; done) | (intro hw; exact hw) | split
    | with_reducible apply keeps_mk
    | dsimp only

theorem seqJudge_keeps {s₀ : State} (s : State) (search : Bool) (k : Nat) (t : Tick) (fuel : Nat) (hk : Keeps s₀ s) :
    Keeps s₀ (State.seqJudge s search k t fuel) := by
  induction fuel generalizing s with
  | zero => exact hk
  | succ n ih =>
    unfold State.seqJudge
    exact keeps_ite (ih _ (seqStep_keeps _ _ _ _ hk)) hk

theorem seqJudgeTo_keeps {s₀ : State} (s : State) (search : Bool) (k : Nat) (t : Tick)
    (hk : Keeps s₀ s) : Keeps s₀ (State.seqJudgeTo s search k t) := by
  unfold State.seqJudgeTo
  try dsimp only
  repeat' first
    | with_reducible exact hk | with_reducible assumption | with_reducible apply seqJudge_keeps | with_reducible apply keeps_ite
    | (with_reducible refine keeps_foldl _ ?_ _ _ _ ?_; intro _ _ _ _; beta_reduce) | with_reducible exact id | with_reducible rfl
    | (simp only [putAt_length, List.length_map]; done) | (intro hw; simp [hw, takeAccess]; done) | (intro hw; exact hw) | split
    | with_reducible apply keeps_mk
    | dsimp only

theorem seqEarlier_keeps {s₀ : State} (s : State) (t : Tick) (hk : Keeps s₀ s) : Keeps s₀ (s.seqEarlier t) :=
  keeps_ite (seqJudgeTo_keeps _ _ _ _ hk) hk

theorem seqVector_keeps {s₀ : State} (s : State) (t : Tick) (levels unknown : Chans)
    (hk : Keeps s₀ s) : Keeps s₀ (State.seqVector s t levels unknown) :=
  keeps_ite (seqStep_keeps _ _ _ _ (seqEarlier_keeps _ _ hk)) (seqEarlier_keeps _ _ hk)

theorem seqGap_keeps {s₀ : State} (s : State) (hk : Keeps s₀ s) : Keeps s₀ (State.seqGap s) := by
  unfold State.seqGap
  try dsimp only
  repeat' first
    | with_reducible exact hk | with_reducible assumption | with_reducible apply keeps_ite
    | (with_reducible refine keeps_foldl _ ?_ _ _ _ ?_; intro _ _ _ _; beta_reduce) | with_reducible exact id | with_reducible rfl
    | (simp only [putAt_length, List.length_map]; done) | (intro hw; simp [hw, takeAccess]; done) | (intro hw; exact hw) | split
    | with_reducible apply keeps_mk
    | dsimp only

theorem dropGapEvents_keeps {s₀ : State} (s : State) (hk : Keeps s₀ s) : Keeps s₀ s.dropGapEvents :=
  keeps_ite (hk.upd rfl rfl rfl id id rfl rfl rfl rfl id) hk

theorem seqFlush_keeps {s₀ : State} (s : State) (hk : Keeps s₀ s) : Keeps s₀ (State.seqFlush s) := by
  unfold State.seqFlush
  split
  · exact seqStep_keeps _ _ _ _ hk
  · exact dropGapEvents_keeps _ hk

theorem seqFlushEnding_keeps {s₀ : State} (s : State) (hk : Keeps s₀ s) : Keeps s₀ (State.seqFlushEnding s) := by
  unfold State.seqFlushEnding
  split
  · exact seqStep_keeps _ _ _ _ hk
  · exact hk

theorem seqMaximum_keeps {s₀ : State} (s : State) (hk : Keeps s₀ s) : Keeps s₀ (State.seqMaximum s) := by
  unfold State.seqMaximum
  try dsimp only
  repeat' first
    | with_reducible exact hk | with_reducible assumption | with_reducible apply seqJudgeTo_keeps | with_reducible apply keeps_ite
    | (with_reducible refine keeps_foldl _ ?_ _ _ _ ?_; intro _ _ _ _; beta_reduce) | with_reducible exact id | with_reducible rfl
    | (simp only [putAt_length, List.length_map]; done) | (intro hw; simp [hw, takeAccess]; done) | (intro hw; exact hw) | split
    | with_reducible apply keeps_mk
    | dsimp only

theorem searchVector_keeps {s₀ : State} (s : State) (k : Nat) (t : Tick) (levels unknown : Chans)
    (hk : Keeps s₀ s) : Keeps s₀ (State.searchVector s k t levels unknown) := by
  unfold State.searchVector
  try dsimp only
  repeat' first
    | with_reducible exact hk | with_reducible assumption | with_reducible apply seqStep_keeps | with_reducible apply seqJudgeTo_keeps
    | with_reducible apply keeps_ite | (with_reducible refine keeps_foldl _ ?_ _ _ _ ?_; intro _ _ _ _; beta_reduce) | with_reducible exact id
    | with_reducible rfl | (simp only [putAt_length, List.length_map]; done) | (intro hw; simp [hw, takeAccess]; done) | (intro hw; exact hw) | split
    | with_reducible apply keeps_mk
    | dsimp only

theorem searchGap_keeps {s₀ : State} (s : State) (hk : Keeps s₀ s) : Keeps s₀ (State.searchGap s) := by
  unfold State.searchGap
  try dsimp only
  repeat' first
    | with_reducible exact hk | with_reducible assumption | with_reducible apply keeps_ite
    | (with_reducible refine keeps_foldl _ ?_ _ _ _ ?_; intro _ _ _ _; beta_reduce) | with_reducible exact id | with_reducible rfl
    | (simp only [putAt_length, List.length_map]; done) | (intro hw; simp [hw, takeAccess]; done) | (intro hw; exact hw) | split
    | with_reducible apply keeps_mk
    | dsimp only

theorem searchSpan_keeps {s₀ : State} (s : State) (k : Nat) (t : Tick) (hk : Keeps s₀ s) : Keeps s₀ (State.searchSpan s k t) := by
  unfold State.searchSpan
  try dsimp only
  repeat' first
    | with_reducible exact hk | with_reducible assumption | with_reducible apply seqJudgeTo_keeps | with_reducible apply keeps_ite
    | (with_reducible refine keeps_foldl _ ?_ _ _ _ ?_; intro _ _ _ _; beta_reduce) | with_reducible exact id | with_reducible rfl
    | (simp only [putAt_length, List.length_map]; done) | (intro hw; simp [hw, takeAccess]; done) | (intro hw; exact hw) | split
    | with_reducible apply keeps_mk
    | dsimp only

/-! ## Machine/Pods.lean -/

theorem setPodAt_keeps {s₀ : State} (s : State) (p : Fin 4) (x : Pod) (hk : Keeps s₀ s) : Keeps s₀ (State.setPodAt s p x) := by
  unfold State.setPodAt
  try dsimp only
  repeat' first
    | with_reducible exact hk | with_reducible assumption | with_reducible apply keeps_ite
    | (with_reducible refine keeps_foldl _ ?_ _ _ _ ?_; intro _ _ _ _; beta_reduce) | with_reducible exact id | with_reducible rfl
    | (simp only [putAt_length, List.length_map]; done) | (intro hw; simp [hw, takeAccess]; done) | (intro hw; exact hw) | split
    | with_reducible apply keeps_mk
    | dsimp only

theorem noteWaking_keeps {s₀ : State} (s : State) (p : Fin 4) (hk : Keeps s₀ s) : Keeps s₀ (State.noteWaking s p) := by
  unfold State.noteWaking
  try dsimp only
  repeat' first
    | with_reducible exact hk | with_reducible assumption | with_reducible apply keeps_ite
    | (with_reducible refine keeps_foldl _ ?_ _ _ _ ?_; intro _ _ _ _; beta_reduce) | with_reducible exact id | with_reducible rfl
    | (simp only [putAt_length, List.length_map]; done) | (intro hw; simp [hw, takeAccess]; done) | (intro hw; exact hw) | split
    | with_reducible apply keeps_mk
    | dsimp only

theorem podEvent_keeps {s₀ : State} (s : State) (p : Fin 4) (hk : Keeps s₀ s) : Keeps s₀ (State.podEvent s p) := by
  unfold State.podEvent
  try dsimp only
  repeat' first
    | with_reducible exact hk | with_reducible assumption | with_reducible apply keeps_ite
    | (with_reducible refine keeps_foldl _ ?_ _ _ _ ?_; intro _ _ _ _; beta_reduce) | with_reducible exact id | with_reducible rfl
    | (simp only [putAt_length, List.length_map]; done) | (intro hw; simp [hw, takeAccess]; done) | (intro hw; exact hw) | split
    | with_reducible apply keeps_mk
    | dsimp only

theorem markEnds_keeps {s₀ : State} (s : State) (p : Fin 4) (m : BitVec 8) (hk : Keeps s₀ s) : Keeps s₀ (State.markEnds s p m) := by
  unfold State.markEnds
  split
  · exact hk
  · exact keeps_ite (endTake_keeps _ _ _ (seqFlushEnding_keeps _ hk)) hk

theorem isolate_keeps {s₀ : State} (s : State) (p : Fin 4) (src : FaultSource) (hk : Keeps s₀ s) : Keeps s₀ (State.isolate s p src) :=
  keeps_ite (setPodAt_keeps _ _ _ hk) (podSilences_keeps _ _ ((setPodAt_keeps s p ((s.pods.get p).isolatedBy src) hk).upd rfl rfl rfl id id rfl rfl rfl rfl id))

theorem announce_keeps {s₀ : State} (s : State) (p : Fin 4) (src : FaultSource) (hk : Keeps s₀ s) : Keeps s₀ (State.announce s p src) :=
  noteWaking_keeps _ _ (podEvent_keeps _ _ (raise_keeps _ _ (faultBegin_keeps _ _ _ _ _ hk)))

theorem actSource_keeps {s₀ : State} (s : State) (p : Fin 4) (src : FaultSource) (hk : Keeps s₀ s) : Keeps s₀ (State.actSource s p src) := by
  unfold State.actSource
  split
  · exact hk
  · exact announce_keeps _ _ _ hk
  · exact markEnds_keeps _ _ _ (announce_keeps _ _ _ hk)
  · exact announce_keeps _ _ _ (isolate_keeps _ _ _ hk)

theorem activate_keeps {s₀ : State} (s : State) (p : Fin 4) (src : FaultSource) (m : BitVec 8)
    (hk : Keeps s₀ s) : Keeps s₀ (State.activate s p src m) := by
  unfold State.activate
  try dsimp only
  repeat' first
    | with_reducible exact hk | with_reducible assumption | with_reducible apply actSource_keeps | with_reducible apply setSource_keeps
    | with_reducible apply keeps_ite | (with_reducible refine keeps_foldl _ ?_ _ _ _ ?_; intro _ _ _ _; beta_reduce) | with_reducible exact id
    | with_reducible rfl | (simp only [putAt_length, List.length_map]; done) | (intro hw; simp [hw, takeAccess]; done) | (intro hw; exact hw) | split
    | with_reducible apply keeps_mk
    | dsimp only

theorem grow_keeps {s₀ : State} (s : State) (p : Fin 4) (src : FaultSource) (m : BitVec 8) (hk : Keeps s₀ s) : Keeps s₀ (State.grow s p src m) := by
  unfold State.grow
  try dsimp only
  repeat' first
    | with_reducible exact hk | with_reducible assumption | with_reducible apply actSource_keeps | with_reducible apply setSource_keeps
    | with_reducible apply keeps_ite | (with_reducible refine keeps_foldl _ ?_ _ _ _ ?_; intro _ _ _ _; beta_reduce) | with_reducible exact id
    | with_reducible rfl | (simp only [putAt_length, List.length_map]; done) | (intro hw; simp [hw, takeAccess]; done) | (intro hw; exact hw) | split
    | with_reducible apply keeps_mk
    | dsimp only

/-- The FAULT end of an ending source keeps. -/
theorem sourceClosed_keeps {s₀ : State} (s : State) (p : Fin 4) (src : FaultSource) (m : BitVec 8) (o : Option FaultAction) (hk : Keeps s₀ s) :
    Keeps s₀ (match o with
      | none => s
      | some a => if a.masks then s.faultEnd s.intervalTime p src a m else s) := by
  split
  · exact hk
  · exact keeps_ite (faultEnd_keeps _ _ _ _ _ _ hk) hk

theorem endSource_keeps {s₀ : State} (s : State) (p : Fin 4) (src : FaultSource) (hk : Keeps s₀ s) : Keeps s₀ (State.endSource s p src) :=
  keeps_ite (setSource_keeps _ _ _ _ (sourceClosed_keeps _ _ _ _ _ hk))
    (noteWaking_keeps _ _ (setSource_keeps _ _ _ _ (sourceClosed_keeps _ _ _ _ _ hk)))

theorem evalSource_keeps {s₀ : State} (s : State) (p : Fin 4) (src : FaultSource) (hits : BitVec 8) (ov : Bool)
    (hk : Keeps s₀ s) : Keeps s₀ (State.evalSource s p src hits ov) := by
  unfold State.evalSource
  try dsimp only
  repeat' first
    | with_reducible exact hk | with_reducible assumption | with_reducible apply grow_keeps | with_reducible apply activate_keeps
    | with_reducible apply endSource_keeps | with_reducible apply keeps_ite
    | (with_reducible refine keeps_foldl _ ?_ _ _ _ ?_; intro _ _ _ _; beta_reduce) | with_reducible exact id | with_reducible rfl
    | (simp only [putAt_length, List.length_map]; done) | (intro hw; simp [hw, takeAccess]; done) | (intro hw; exact hw) | split
    | with_reducible apply keeps_mk
    | dsimp only

theorem evalSense_keeps {s₀ : State} (s : State) (p : Fin 4) (src : FaultSource) (sense : Bool)
    (hk : Keeps s₀ s) : Keeps s₀ (State.evalSense s p src sense) := by
  unfold State.evalSense
  try dsimp only
  repeat' first
    | with_reducible exact hk | with_reducible assumption | with_reducible apply activate_keeps | with_reducible apply endSource_keeps
    | with_reducible apply keeps_ite | (with_reducible refine keeps_foldl _ ?_ _ _ _ ?_; intro _ _ _ _; beta_reduce) | with_reducible exact id
    | with_reducible rfl | (simp only [putAt_length, List.length_map]; done) | (intro hw; simp [hw, takeAccess]; done) | (intro hw; exact hw) | split
    | with_reducible apply keeps_mk
    | dsimp only

theorem evalSenses_keeps {s₀ : State} (s : State) (p : Fin 4) (hk : Keeps s₀ s) : Keeps s₀ (State.evalSenses s p) := by
  unfold State.evalSenses
  try dsimp only
  repeat' first
    | with_reducible exact hk | with_reducible assumption | with_reducible apply evalSense_keeps | with_reducible apply keeps_ite
    | (with_reducible refine keeps_foldl _ ?_ _ _ _ ?_; intro _ _ _ _; beta_reduce) | with_reducible exact id | with_reducible rfl
    | (simp only [putAt_length, List.length_map]; done) | (intro hw; simp [hw, takeAccess]; done) | (intro hw; exact hw) | split
    | with_reducible apply keeps_mk
    | dsimp only

theorem evalOver_keeps {s₀ : State} (s : State) (p : Fin 4) (hk : Keeps s₀ s) : Keeps s₀ (State.evalOver s p) := by
  unfold State.evalOver
  try dsimp only
  repeat' first
    | with_reducible exact hk | with_reducible assumption | with_reducible apply evalSource_keeps | with_reducible apply keeps_ite
    | (with_reducible refine keeps_foldl _ ?_ _ _ _ ?_; intro _ _ _ _; beta_reduce) | with_reducible exact id | with_reducible rfl
    | (simp only [putAt_length, List.length_map]; done) | (intro hw; simp [hw, takeAccess]; done) | (intro hw; exact hw) | split
    | with_reducible apply keeps_mk
    | dsimp only

theorem evalUnder_keeps {s₀ : State} (s : State) (p : Fin 4) (hk : Keeps s₀ s) : Keeps s₀ (State.evalUnder s p) := by
  unfold State.evalUnder
  try dsimp only
  repeat' first
    | with_reducible exact hk | with_reducible assumption | with_reducible apply evalSource_keeps | with_reducible apply keeps_ite
    | (with_reducible refine keeps_foldl _ ?_ _ _ _ ?_; intro _ _ _ _; beta_reduce) | with_reducible exact id | with_reducible rfl
    | (simp only [putAt_length, List.length_map]; done) | (intro hw; simp [hw, takeAccess]; done) | (intro hw; exact hw) | split
    | with_reducible apply keeps_mk
    | dsimp only

theorem evalMiddle_keeps {s₀ : State} (s : State) (p : Fin 4) (hk : Keeps s₀ s) : Keeps s₀ (State.evalMiddle s p) := by
  unfold State.evalMiddle
  try dsimp only
  repeat' first
    | with_reducible exact hk | with_reducible assumption | with_reducible apply evalSource_keeps | with_reducible apply keeps_ite
    | (with_reducible refine keeps_foldl _ ?_ _ _ _ ?_; intro _ _ _ _; beta_reduce) | with_reducible exact id | with_reducible rfl
    | (simp only [putAt_length, List.length_map]; done) | (intro hw; simp [hw, takeAccess]; done) | (intro hw; exact hw) | split
    | with_reducible apply keeps_mk
    | dsimp only

theorem evalPod_keeps {s₀ : State} (s : State) (p : Fin 4) (hk : Keeps s₀ s) : Keeps s₀ (State.evalPod s p) := by
  unfold State.evalPod
  try dsimp only
  repeat' first
    | with_reducible exact hk | with_reducible assumption | with_reducible apply evalMiddle_keeps | with_reducible apply evalUnder_keeps
    | with_reducible apply evalOver_keeps | with_reducible apply keeps_ite
    | (with_reducible refine keeps_foldl _ ?_ _ _ _ ?_; intro _ _ _ _; beta_reduce) | with_reducible exact id | with_reducible rfl
    | (simp only [putAt_length, List.length_map]; done) | (intro hw; simp [hw, takeAccess]; done) | (intro hw; exact hw) | split
    | with_reducible apply keeps_mk
    | dsimp only

@[simp] theorem measureFrom_length (pods : Four Pod) (analog : List Int) (l : List ChannelMon) (i : Nat) : (measureFrom pods analog l i).length = l.length := by
  induction l generalizing i with
  | nil => rfl
  | cons c rest ih => simp [measureFrom, ih]

theorem monitorExpiry_keeps {s₀ : State} (s : State) (analog : List Int) (hk : Keeps s₀ s) : Keeps s₀ (State.monitorExpiry s analog) := by
  unfold State.monitorExpiry
  refine keeps_foldl _ (fun _ _ _ h => evalPod_keeps _ _ h) _ _ _ ?_
  exact hk.upd rfl rfl rfl id id rfl rfl (measureFrom_length _ _ _ _) rfl id

theorem powerOff_keeps {s₀ : State} (s : State) (p : Fin 4) (hk : Keeps s₀ s) : Keeps s₀ (State.powerOff s p) := by
  unfold State.powerOff
  try dsimp only
  repeat' first
    | with_reducible exact hk | with_reducible assumption | with_reducible apply setPodAt_keeps | with_reducible apply podOffStops_keeps
    | with_reducible apply endSource_keeps | with_reducible apply keeps_ite
    | (with_reducible refine keeps_foldl _ ?_ _ _ _ ?_; intro _ _ _ _; beta_reduce) | with_reducible exact id | with_reducible rfl
    | (simp only [putAt_length, List.length_map]; done) | (intro hw; simp [hw, takeAccess]; done) | (intro hw; exact hw) | split
    | with_reducible apply keeps_mk
    | dsimp only

theorem powerOn_keeps {s₀ : State} (s : State) (p : Fin 4) (span : Nat) (hk : Keeps s₀ s) : Keeps s₀ (State.powerOn s p span) := by
  unfold State.powerOn
  try dsimp only
  repeat' first
    | with_reducible exact hk | with_reducible assumption | with_reducible apply setPodAt_keeps | with_reducible apply evalSenses_keeps
    | with_reducible apply keeps_ite | (with_reducible refine keeps_foldl _ ?_ _ _ _ ?_; intro _ _ _ _; beta_reduce) | with_reducible exact id
    | with_reducible rfl | (simp only [putAt_length, List.length_map]; done) | (intro hw; simp [hw, takeAccess]; done) | (intro hw; exact hw) | split
    | with_reducible apply keeps_mk
    | dsimp only

theorem powerPodOrder_keeps {s₀ : State} (p : PowerPodP) (s : State) (hk : Keeps s₀ s) : Keeps s₀ (powerPodOrder p s).state := by
  unfold powerPodOrder
  try dsimp only
  repeat' first
    | with_reducible exact hk | with_reducible assumption | with_reducible apply powerOff_keeps | with_reducible apply powerOn_keeps
    | with_reducible apply refuse_keeps | with_reducible apply accept_keeps | with_reducible apply keeps_ite
    | (with_reducible refine keeps_foldl _ ?_ _ _ _ ?_; intro _ _ _ _; beta_reduce) | with_reducible exact id | with_reducible rfl
    | (simp only [putAt_length, List.length_map]; done) | (intro hw; simp [hw, takeAccess]; done) | (intro hw; exact hw) | split
    | with_reducible apply keeps_mk
    | dsimp only

@[simp] theorem resetChannels_length (p : Fin 4) (l : List ChannelMon) (i : Nat) : (resetChannels p l i).length = l.length := by
  induction l generalizing i with
  | nil => rfl
  | cons c rest ih => simp [resetChannels, ih]

theorem warmOver_keeps {s₀ : State} (s : State) (p : Fin 4) (hk : Keeps s₀ s) : Keeps s₀ (State.warmOver s p) :=
  podIsOn_keeps _ (hk.upd rfl rfl rfl id id rfl rfl (resetChannels_length _ _ _) rfl id)

theorem wakeOver_keeps {s₀ : State} (s : State) (p : Fin 4) (hk : Keeps s₀ s) : Keeps s₀ (State.wakeOver s p) := by
  unfold State.wakeOver
  try dsimp only
  repeat' first
    | with_reducible exact hk | with_reducible assumption | with_reducible apply setPodAt_keeps | with_reducible apply podIsOn_keeps
    | with_reducible apply keeps_ite | (with_reducible refine keeps_foldl _ ?_ _ _ _ ?_; intro _ _ _ _; beta_reduce) | with_reducible exact id
    | with_reducible rfl | (simp only [putAt_length, List.length_map]; done) | (intro hw; simp [hw, takeAccess]; done) | (intro hw; exact hw) | split
    | with_reducible apply keeps_mk
    | dsimp only

theorem podsWatch_keeps {s₀ : State} (s : State) (m : Chans) (hk : Keeps s₀ s) : Keeps s₀ (State.podsWatch s m) := by
  unfold State.podsWatch
  try dsimp only
  repeat' first
    | with_reducible exact hk | with_reducible assumption | with_reducible apply keeps_ite
    | (with_reducible refine keeps_foldl _ ?_ _ _ _ ?_; intro _ _ _ _; beta_reduce) | with_reducible exact id | with_reducible rfl
    | (simp only [putAt_length, List.length_map]; done) | (intro hw; simp [hw, takeAccess]; done) | (intro hw; exact hw) | split
    | with_reducible apply keeps_mk
    | dsimp only

theorem setPodOrder_keeps {s₀ : State} (p : SetPodP) (s : State) (hk : Keeps s₀ s) : Keeps s₀ (setPodOrder p s).state := by
  unfold setPodOrder
  try dsimp only
  repeat' first
    | with_reducible exact hk | with_reducible assumption | with_reducible apply refuse_keeps | with_reducible apply accept_keeps
    | with_reducible apply keeps_ite | (with_reducible refine keeps_foldl _ ?_ _ _ _ ?_; intro _ _ _ _; beta_reduce) | with_reducible exact id
    | with_reducible rfl | (simp only [putAt_length, List.length_map]; done) | (intro hw; simp [hw, takeAccess]; done) | (intro hw; exact hw) | split
    | with_reducible apply keeps_mk
    | dsimp only

theorem closeIsolates_keeps {s₀ : State} (s : State) (p : Fin 4) (hk : Keeps s₀ s) : Keeps s₀ (State.closeIsolates s p) := by
  unfold State.closeIsolates
  try dsimp only
  repeat' first
    | with_reducible exact hk | with_reducible assumption | with_reducible apply faultEnd_keeps | with_reducible apply isolate_keeps
    | with_reducible apply keeps_ite | (with_reducible refine keeps_foldl _ ?_ _ _ _ ?_; intro _ _ _ _; beta_reduce) | with_reducible exact id
    | with_reducible rfl | (simp only [putAt_length, List.length_map]; done) | (intro hw; simp [hw, takeAccess]; done) | (intro hw; exact hw) | split
    | with_reducible apply keeps_mk
    | dsimp only

theorem clearPodOrder_keeps {s₀ : State} (p : ClearPodP) (s : State) (hk : Keeps s₀ s) : Keeps s₀ (clearPodOrder p s).state := by
  unfold clearPodOrder
  try dsimp only
  repeat' first
    | with_reducible exact hk | with_reducible assumption | with_reducible apply noteWaking_keeps | with_reducible apply refuse_keeps
    | with_reducible apply accept_keeps | with_reducible apply setPodAt_keeps | with_reducible apply closeIsolates_keeps
    | with_reducible apply keeps_ite | (with_reducible refine keeps_foldl _ ?_ _ _ _ ?_; intro _ _ _ _; beta_reduce) | with_reducible exact id
    | with_reducible rfl | (simp only [putAt_length, List.length_map]; done) | (intro hw; simp [hw, takeAccess]; done) | (intro hw; exact hw) | split
    | with_reducible apply keeps_mk
    | dsimp only

/-! ## Machine/Sampler.lean -/

theorem changeRecord_keeps {s₀ : State} (s : State) (t : Tick) (presented : Chans) (due : Bool)
    (hk : Keeps s₀ s) : Keeps s₀ (State.changeRecord s t presented due) := by
  unfold State.changeRecord
  try dsimp only
  repeat' first
    | with_reducible exact hk | with_reducible assumption | with_reducible apply insert_keeps | with_reducible apply keeps_ite
    | (with_reducible refine keeps_foldl _ ?_ _ _ _ ?_; intro _ _ _ _; beta_reduce) | with_reducible exact id | with_reducible rfl
    | (simp only [putAt_length, List.length_map]; done) | (intro hw; simp [hw, takeAccess]; done) | (intro hw; exact hw) | split
    | with_reducible apply keeps_mk
    | dsimp only

theorem immediate_keeps {s₀ : State} (s : State) (t : Tick) (hk : Keeps s₀ s) : Keeps s₀ (State.immediate s t) := by
  unfold State.immediate
  try dsimp only
  repeat' first
    | with_reducible exact hk | with_reducible assumption | with_reducible apply trigger_keeps | with_reducible apply keeps_ite
    | (with_reducible refine keeps_foldl _ ?_ _ _ _ ?_; intro _ _ _ _; beta_reduce) | with_reducible exact id | with_reducible rfl
    | (simp only [putAt_length, List.length_map]; done) | (intro hw; simp [hw, takeAccess]; done) | (intro hw; exact hw) | split
    | with_reducible apply keeps_mk
    | dsimp only

theorem sampleVector_keeps {s₀ : State} (s : State) (t : Tick) (levels : Chans) (hk : Keeps s₀ s) : Keeps s₀ (State.sampleVector s t levels) := by
  unfold State.sampleVector
  try dsimp only
  repeat' first
    | with_reducible exact hk | with_reducible assumption | with_reducible apply changeRecord_keeps | with_reducible apply liveInterval_keeps
    | with_reducible apply immediate_keeps | with_reducible apply seqVector_keeps | with_reducible apply keeps_ite
    | (with_reducible refine keeps_foldl _ ?_ _ _ _ ?_; intro _ _ _ _; beta_reduce) | with_reducible exact id | with_reducible rfl
    | (simp only [putAt_length, List.length_map]; done) | (intro hw; simp [hw, takeAccess]; done) | (intro hw; exact hw) | split
    | with_reducible apply keeps_mk
    | dsimp only

theorem watchVector_keeps {s₀ : State} (s : State) (t : Tick) (hk : Keeps s₀ s) : Keeps s₀ (State.watchVector s t) := by
  unfold State.watchVector
  try dsimp only
  repeat' first
    | with_reducible exact hk | with_reducible assumption | with_reducible apply liveInterval_keeps | with_reducible apply seqVector_keeps
    | with_reducible apply keeps_ite | (with_reducible refine keeps_foldl _ ?_ _ _ _ ?_; intro _ _ _ _; beta_reduce) | with_reducible exact id
    | with_reducible rfl | (simp only [putAt_length, List.length_map]; done) | (intro hw; simp [hw, takeAccess]; done) | (intro hw; exact hw) | split
    | with_reducible apply keeps_mk
    | dsimp only

theorem formLevels_keeps {s₀ : State} (s : State) (levels : Chans) (hk : Keeps s₀ s) : Keeps s₀ (State.formLevels s levels) :=
  hk.upd rfl rfl rfl id id rfl rfl rfl rfl id

theorem resume_keeps {s₀ : State} (s : State) (t : Tick) (hk : Keeps s₀ s) : Keeps s₀ (State.resume s t) := by
  unfold State.resume
  split
  · exact hk
  · refine keeps_mk (restateFaults_keeps _ _ _ (offer_keeps _ _ _ _ (countGap_keeps _ _ (offer_keeps _ _ _ _ hk)))) ?_ ?_ ?_ ?_ ?_ ?_ ?_ <;>
      first | with_reducible exact id | with_reducible rfl

theorem forming_keeps {s₀ : State} (s : State) (hk : Keeps s₀ s) : Keeps s₀ s.forming :=
  hk.upd rfl rfl rfl id id rfl rfl rfl rfl id

theorem wakingInterval_keeps {s₀ : State} (s : State) (levels : Chans) (hk : Keeps s₀ s) : Keeps s₀ (s.wakingInterval levels) :=
  keeps_ite (sampleVector_keeps _ _ _ (resume_keeps _ _ hk)) (formLevels_keeps _ _ hk)

theorem sampleInterval_keeps {s₀ : State} (s : State) (levels : Chans) (hk : Keeps s₀ s) : Keeps s₀ (State.sampleInterval s levels) := by
  have hf := forming_keeps _ hk
  unfold State.sampleInterval
  split
  · exact hk
  · exact sampleVector_keeps _ _ _ hf
  · exact watchVector_keeps _ _ (formLevels_keeps _ _ hf)
  · exact wakingInterval_keeps _ _ (seqEarlier_keeps _ _ hf)

theorem enterWatch_keeps {s₀ : State} (s : State) (hk : Keeps s₀ s) : Keeps s₀ (State.enterWatch s) := by
  unfold State.enterWatch
  try dsimp only
  repeat' first
    | with_reducible exact hk | with_reducible assumption | with_reducible apply insert_keeps | with_reducible apply podsWatch_keeps
    | with_reducible apply keeps_ite | (with_reducible refine keeps_foldl _ ?_ _ _ _ ?_; intro _ _ _ _; beta_reduce) | with_reducible exact id
    | with_reducible rfl | (simp only [putAt_length, List.length_map]; done) | (intro hw; simp [hw, takeAccess]; done) | (intro hw; exact hw) | split
    | with_reducible apply keeps_mk
    | dsimp only

/-- What follows the vector of a wake edge keeps. -/
theorem wakeEnd_keeps {s₀ : State} (s : State) (t : Tick) (hk : Keeps s₀ s) :
    Keeps s₀ (if s.sampler.state = .watch then
      { (s.liveGap t).seqFlush.seqGap.wakePods with sampler := (s.liveGap t).seqFlush.seqGap.wakePods.sampler.wakes } else s) :=
  keeps_ite (by
    refine keeps_mk (wakePods_keeps _ (seqGap_keeps _ (seqFlush_keeps _ (liveGap_keeps _ _ hk)))) ?_ ?_ ?_ ?_ ?_ ?_ ?_ <;>
      first | with_reducible exact id | with_reducible rfl) hk

theorem wakeEdge_keeps {s₀ : State} (s : State) (levels : Chans) (hk : Keeps s₀ s) : Keeps s₀ (State.wakeEdge s levels) := by
  unfold State.wakeEdge
  extract_lets time latched src s1 s2 s3
  have h1 : Keeps s₀ s1 := hk.upd rfl rfl rfl id id rfl rfl rfl rfl id
  have h2 : Keeps s₀ s2 := insert_keeps _ _ _ h1
  have h3 : Keeps s₀ s3 := seqVector_keeps _ _ _ _ (liveInterval_keeps _ _ _ _ h2)
  exact wakeEnd_keeps _ _ h3

end Sys2Proof.Machine
end

