-- ==== Sys2Proof/Laws/KeepsPart.lean ====
section
/-! SUPPORT. Laws/KeepsPart.lean: Keeps for the operations of replay, export, panel, report page and dispatcher, and of the events. -/

set_option Elab.async false
set_option linter.unreachableTactic false
set_option linter.unusedTactic false
set_option linter.unusedSimpArgs false

namespace Sys2Proof.Machine

/-! ## Machine/Replay.lean -/

theorem endSearch_keeps {s₀ : State} (s : State) (hk : Keeps s₀ s) : Keeps s₀ (State.endSearch s) := by
  unfold State.endSearch
  try dsimp only
  repeat' first
    | with_reducible exact hk | with_reducible assumption | with_reducible apply keeps_ite
    | (with_reducible refine keeps_foldl _ ?_ _ _ _ ?_; intro _ _ _ _; beta_reduce) | with_reducible exact id | with_reducible rfl
    | (simp only [putAt_length, List.length_map]; done) | (intro hw; simp [hw, takeAccess]; done) | (intro hw; exact hw) | split
    | with_reducible apply keeps_mk
    | dsimp only

theorem laneDone_keeps {s₀ : State} (s : State) (k : Fin 4) (hk : Keeps s₀ s) : Keeps s₀ (State.laneDone s k) := by
  unfold State.laneDone
  try dsimp only
  repeat' first
    | with_reducible exact hk | with_reducible assumption | with_reducible apply keeps_ite
    | (with_reducible refine keeps_foldl _ ?_ _ _ _ ?_; intro _ _ _ _; beta_reduce) | with_reducible exact id | with_reducible rfl
    | (simp only [putAt_length, List.length_map]; done) | (intro hw; simp [hw, takeAccess]; done) | (intro hw; exact hw) | split
    | with_reducible apply keeps_mk
    | dsimp only

theorem laneCancelled_keeps {s₀ : State} (s : State) (k : Fin 4) (hk : Keeps s₀ s) : Keeps s₀ (State.laneCancelled s k) := by
  unfold State.laneCancelled
  try dsimp only
  repeat' first
    | with_reducible exact hk | with_reducible assumption | with_reducible apply keeps_ite
    | (with_reducible refine keeps_foldl _ ?_ _ _ _ ?_; intro _ _ _ _; beta_reduce) | with_reducible exact id | with_reducible rfl
    | (simp only [putAt_length, List.length_map]; done) | (intro hw; simp [hw, takeAccess]; done) | (intro hw; exact hw) | split
    | with_reducible apply keeps_mk
    | dsimp only

theorem replayIdle_keeps {s₀ : State} (s : State) (hk : Keeps s₀ s) : Keeps s₀ (State.replayIdle s) := by
  unfold State.replayIdle
  try dsimp only
  repeat' first
    | with_reducible exact hk | with_reducible assumption | with_reducible apply endRight_keeps | with_reducible apply keeps_ite
    | (with_reducible refine keeps_foldl _ ?_ _ _ _ ?_; intro _ _ _ _; beta_reduce) | with_reducible exact id | with_reducible rfl
    | (simp only [putAt_length, List.length_map]; done) | (intro hw; simp [hw, takeAccess]; done) | (intro hw; exact hw) | split
    | with_reducible apply keeps_mk
    | dsimp only

theorem replayComplete_keeps {s₀ : State} (s : State) (oc : Outcome) (hk : Keeps s₀ s) : Keeps s₀ (State.replayComplete s oc) := by
  unfold State.replayComplete
  try dsimp only
  repeat' first
    | with_reducible exact hk | with_reducible assumption | with_reducible apply complete_keeps | with_reducible apply replayIdle_keeps
    | with_reducible apply keeps_ite | (with_reducible refine keeps_foldl _ ?_ _ _ _ ?_; intro _ _ _ _; beta_reduce) | with_reducible exact id
    | with_reducible rfl | (simp only [putAt_length, List.length_map]; done) | (intro hw; simp [hw, takeAccess]; done) | (intro hw; exact hw) | split
    | with_reducible apply keeps_mk
    | dsimp only

theorem searchLast_keeps {s₀ : State} (s : State) (hk : Keeps s₀ s) : Keeps s₀ (State.searchLast s) := by
  unfold State.searchLast
  exact keeps_ite (searchSpan_keeps _ _ _ hk) hk

theorem replayStops_keeps {s₀ : State} (s : State) (hk : Keeps s₀ s) : Keeps s₀ (State.replayStops s) := by
  unfold State.replayStops
  try dsimp only
  repeat' first
    | with_reducible apply searchLast_keeps
    | with_reducible exact hk | with_reducible assumption | with_reducible apply endSearch_keeps | with_reducible apply laneCancelled_keeps
    | with_reducible apply keeps_ite | (with_reducible refine keeps_foldl _ ?_ _ _ _ ?_; intro _ _ _ _; beta_reduce) | with_reducible exact id
    | with_reducible rfl | (simp only [putAt_length, List.length_map]; done) | (intro hw; simp [hw, takeAccess]; done) | (intro hw; exact hw) | split
    | with_reducible apply keeps_mk
    | dsimp only

theorem replayCancel_keeps {s₀ : State} (s : State) (hk : Keeps s₀ s) : Keeps s₀ (State.replayCancel s) := by
  unfold State.replayCancel
  try dsimp only
  repeat' first
    | with_reducible exact hk | with_reducible assumption | with_reducible apply replayComplete_keeps | with_reducible apply replayStops_keeps
    | with_reducible apply keeps_ite | (with_reducible refine keeps_foldl _ ?_ _ _ _ ?_; intro _ _ _ _; beta_reduce) | with_reducible exact id
    | with_reducible rfl | (simp only [putAt_length, List.length_map]; done) | (intro hw; simp [hw, takeAccess]; done) | (intro hw; exact hw) | split
    | with_reducible apply keeps_mk
    | dsimp only

theorem replayAbandon_keeps {s₀ : State} (s : State) (hk : Keeps s₀ s) : Keeps s₀ (State.replayAbandon s) := by
  unfold State.replayAbandon
  try dsimp only
  repeat' first
    | with_reducible exact hk | with_reducible assumption | with_reducible apply replayIdle_keeps | with_reducible apply replayStops_keeps
    | with_reducible apply keeps_ite | (with_reducible refine keeps_foldl _ ?_ _ _ _ ?_; intro _ _ _ _; beta_reduce) | with_reducible exact id
    | with_reducible rfl | (simp only [putAt_length, List.length_map]; done) | (intro hw; simp [hw, takeAccess]; done) | (intro hw; exact hw) | split
    | with_reducible apply keeps_mk
    | dsimp only

theorem replayFinish_keeps {s₀ : State} (s : State) (hk : Keeps s₀ s) : Keeps s₀ (State.replayFinish s) := by
  unfold State.replayFinish
  try dsimp only
  repeat' first
    | with_reducible exact hk | with_reducible assumption | with_reducible apply endSearch_keeps | with_reducible apply replayComplete_keeps
    | with_reducible apply laneDone_keeps | with_reducible apply keeps_ite
    | (with_reducible refine keeps_foldl _ ?_ _ _ _ ?_; intro _ _ _ _; beta_reduce) | with_reducible exact id | with_reducible rfl
    | (simp only [putAt_length, List.length_map]; done) | (intro hw; simp [hw, takeAccess]; done) | (intro hw; exact hw) | split
    | with_reducible apply keeps_mk
    | dsimp only

theorem laneRangeEnd_keeps {s₀ : State} (s : State) (t : Tick) (k : Fin 4) (hk : Keeps s₀ s) : Keeps s₀ (State.laneRangeEnd s t k) := by
  unfold State.laneRangeEnd
  try dsimp only
  repeat' first
    | with_reducible exact hk | with_reducible assumption | with_reducible apply closeInterrupted_keeps | with_reducible apply raiseExcs_keeps
    | with_reducible apply keeps_ite | (with_reducible refine keeps_foldl _ ?_ _ _ _ ?_; intro _ _ _ _; beta_reduce) | with_reducible exact id
    | with_reducible rfl | (simp only [putAt_length, List.length_map]; done) | (intro hw; simp [hw, takeAccess]; done) | (intro hw; exact hw) | split
    | with_reducible apply keeps_mk
    | dsimp only

theorem searchFlush_keeps {s₀ : State} (s : State) (hk : Keeps s₀ s) : Keeps s₀ (State.searchFlush s) := by
  unfold State.searchFlush
  try dsimp only
  repeat' first
    | with_reducible exact hk | with_reducible assumption | with_reducible apply seqStep_keeps | with_reducible apply keeps_ite
    | (with_reducible refine keeps_foldl _ ?_ _ _ _ ?_; intro _ _ _ _; beta_reduce) | with_reducible exact id | with_reducible rfl
    | (simp only [putAt_length, List.length_map]; done) | (intro hw; simp [hw, takeAccess]; done) | (intro hw; exact hw) | split
    | with_reducible apply keeps_mk
    | dsimp only

theorem replayClose_keeps {s₀ : State} (s : State) (hk : Keeps s₀ s) : Keeps s₀ (State.replayClose s) := by
  unfold State.replayClose
  extract_lets t _ s1
  have h1 : Keeps s₀ s1 := hk.upd rfl rfl rfl id id rfl rfl rfl rfl id
  have h2 := keeps_foldl (fun s k => State.laneRangeEnd s t k) (fun _ _ _ h => laneRangeEnd_keeps _ _ _ h) (lanesIn s.replay.lanes) _ _ h1
  exact keeps_ite (replayFinish_keeps _ (searchSpan_keeps _ _ _ (searchFlush_keeps _ h2))) (replayFinish_keeps _ hk)

theorem replayHolds_keeps {s₀ : State} (s : State) (b : Nat) (hk : Keeps s₀ s) : Keeps s₀ (State.replayHolds s b) := by
  unfold State.replayHolds
  try dsimp only
  repeat' first
    | with_reducible exact hk | with_reducible assumption | with_reducible apply dropHoldOpt_keeps | with_reducible apply placeHold_keeps
    | with_reducible apply keeps_ite | (with_reducible refine keeps_foldl _ ?_ _ _ _ ?_; intro _ _ _ _; beta_reduce) | with_reducible exact id
    | with_reducible rfl | (simp only [putAt_length, List.length_map]; done) | (intro hw; simp [hw, takeAccess]; done) | (intro hw; exact hw) | split
    | with_reducible apply keeps_mk
    | dsimp only

theorem replayFront_keeps {s₀ : State} (s : State) (hk : Keeps s₀ s) : Keeps s₀ (State.replayFront s) := by
  unfold State.replayFront
  try dsimp only
  repeat' first
    | with_reducible exact hk | with_reducible assumption | with_reducible apply replayHolds_keeps | with_reducible apply keeps_ite
    | (with_reducible refine keeps_foldl _ ?_ _ _ _ ?_; intro _ _ _ _; beta_reduce) | with_reducible exact id | with_reducible rfl
    | (simp only [putAt_length, List.length_map]; done) | (intro hw; simp [hw, takeAccess]; done) | (intro hw; exact hw) | split
    | with_reducible apply keeps_mk
    | dsimp only

theorem replayResume_keeps {s₀ : State} (s : State) (hk : Keeps s₀ s) : Keeps s₀ (State.replayResume s) := by
  unfold State.replayResume
  try dsimp only
  repeat' first
    | with_reducible exact hk | with_reducible assumption | with_reducible apply replayFront_keeps | with_reducible apply keeps_ite
    | (with_reducible refine keeps_foldl _ ?_ _ _ _ ?_; intro _ _ _ _; beta_reduce) | with_reducible exact id | with_reducible rfl
    | (simp only [putAt_length, List.length_map]; done) | (intro hw; simp [hw, takeAccess]; done) | (intro hw; exact hw) | split
    | with_reducible apply keeps_mk
    | dsimp only

theorem replayScanned_keeps {s₀ : State} (s : State) (hk : Keeps s₀ s) : Keeps s₀ (State.replayScanned s) := by
  unfold State.replayScanned
  try dsimp only
  repeat' first
    | with_reducible exact hk | with_reducible assumption | with_reducible apply replayFront_keeps | with_reducible apply keeps_ite
    | (with_reducible refine keeps_foldl _ ?_ _ _ _ ?_; intro _ _ _ _; beta_reduce) | with_reducible exact id | with_reducible rfl
    | (simp only [putAt_length, List.length_map]; done) | (intro hw; simp [hw, takeAccess]; done) | (intro hw; exact hw) | split
    | with_reducible apply keeps_mk
    | dsimp only

theorem replayNextBlock_keeps {s₀ : State} (s : State) (e : Block) (hk : Keeps s₀ s) : Keeps s₀ (State.replayNextBlock s e) := by
  unfold State.replayNextBlock
  try dsimp only
  repeat' first
    | with_reducible exact hk | with_reducible assumption | with_reducible apply replayHolds_keeps | with_reducible apply keeps_ite
    | (with_reducible refine keeps_foldl _ ?_ _ _ _ ?_; intro _ _ _ _; beta_reduce) | with_reducible exact id | with_reducible rfl
    | (simp only [putAt_length, List.length_map]; done) | (intro hw; simp [hw, takeAccess]; done) | (intro hw; exact hw) | split
    | with_reducible apply keeps_mk
    | dsimp only

theorem replayLead_keeps {s₀ : State} (s : State) (hk : Keeps s₀ s) : Keeps s₀ (State.replayLead s) := by
  unfold State.replayLead
  try dsimp only
  repeat' first
    | with_reducible exact hk | with_reducible assumption | with_reducible apply keeps_ite
    | (with_reducible refine keeps_foldl _ ?_ _ _ _ ?_; intro _ _ _ _; beta_reduce) | with_reducible exact id | with_reducible rfl
    | (simp only [putAt_length, List.length_map]; done) | (intro hw; simp [hw, takeAccess]; done) | (intro hw; exact hw) | split
    | with_reducible apply keeps_mk
    | dsimp only

theorem replayAccess_keeps {s₀ : State} (s : State) (hk : Keeps s₀ s) : Keeps s₀ (State.replayAccess s) := by
  unfold State.replayAccess
  try dsimp only
  repeat' first
    | with_reducible exact hk | with_reducible assumption | with_reducible apply replayLead_keeps | with_reducible apply replayScanned_keeps
    | with_reducible apply replayNextBlock_keeps | with_reducible apply keeps_ite
    | (with_reducible refine keeps_foldl _ ?_ _ _ _ ?_; intro _ _ _ _; beta_reduce) | with_reducible exact id | with_reducible rfl
    | (simp only [putAt_length, List.length_map]; done) | (intro hw; simp [hw, takeAccess]; done) | (intro hw; exact hw) | split
    | with_reducible apply keeps_mk
    | dsimp only

theorem replayNotice_keeps {s₀ : State} (s : State) (g : GapSpan) (hk : Keeps s₀ s) : Keeps s₀ (State.replayNotice s g) := by
  unfold State.replayNotice
  try dsimp only
  repeat' first
    | with_reducible exact hk | with_reducible assumption | with_reducible apply laneGap_keeps | with_reducible apply searchSpan_keeps
    | with_reducible apply searchGap_keeps | with_reducible apply keeps_ite
    | (with_reducible refine keeps_foldl _ ?_ _ _ _ ?_; intro _ _ _ _; beta_reduce) | with_reducible exact id | with_reducible rfl
    | (simp only [putAt_length, List.length_map]; done) | (intro hw; simp [hw, takeAccess]; done) | (intro hw; exact hw) | split
    | with_reducible apply keeps_mk
    | dsimp only

theorem replayPodEvents_keeps {s₀ : State} (s : State) (t : Nat) (hk : Keeps s₀ s) : Keeps s₀ (State.replayPodEvents s t) := by
  unfold State.replayPodEvents
  try dsimp only
  repeat' first
    | with_reducible exact hk | with_reducible assumption | with_reducible apply keeps_ite
    | (with_reducible refine keeps_foldl _ ?_ _ _ _ ?_; intro _ _ _ _; beta_reduce) | with_reducible exact id | with_reducible rfl
    | (simp only [putAt_length, List.length_map]; done) | (intro hw; simp [hw, takeAccess]; done) | (intro hw; exact hw) | split
    | with_reducible apply keeps_mk
    | dsimp only

theorem replayVector_keeps {s₀ : State} (s : State) (hk : Keeps s₀ s) : Keeps s₀ (State.replayVector s) := by
  unfold State.replayVector
  extract_lets n t k list x unknown _ s1 s2 s3
  have h1 : Keeps s₀ s1 := hk.upd rfl rfl rfl id id rfl rfl rfl rfl id
  have h2 : Keeps s₀ s2 := keeps_foldl _ (fun _ _ _ h => laneInterval_keeps _ _ _ _ _ _ _ h) _ _ _ h1
  have h3 : Keeps s₀ s3 := searchVector_keeps _ _ _ _ _ (replayPodEvents_keeps _ _ h2)
  exact keeps_ite (searchSpan_keeps _ _ _ h3) h3

theorem replayInterval_keeps {s₀ : State} (s : State) (hk : Keeps s₀ s) : Keeps s₀ (State.replayInterval s) := by
  unfold State.replayInterval
  try dsimp only
  repeat' first
    | with_reducible exact hk | with_reducible assumption | with_reducible apply replayNotice_keeps | with_reducible apply replayVector_keeps
    | with_reducible apply replayClose_keeps | with_reducible apply keeps_ite
    | (with_reducible refine keeps_foldl _ ?_ _ _ _ ?_; intro _ _ _ _; beta_reduce) | with_reducible exact id | with_reducible rfl
    | (simp only [putAt_length, List.length_map]; done) | (intro hw; simp [hw, takeAccess]; done) | (intro hw; exact hw) | split
    | with_reducible apply keeps_mk
    | dsimp only

theorem replayStart_keeps {s₀ : State} (s : State) (o : OrderRef) (p : ReplayP) (t : Take) (base : Nat) (range : Nat × Nat)
    (hk : Keeps s₀ s) : Keeps s₀ (State.replayStart s o p t base range) := by
  unfold State.replayStart
  try dsimp only
  repeat' first
    | with_reducible exact hk | with_reducible assumption | with_reducible apply replayFront_keeps | with_reducible apply keeps_ite
    | (with_reducible refine keeps_foldl _ ?_ _ _ _ ?_; intro _ _ _ _; beta_reduce) | with_reducible exact id | with_reducible rfl
    | (simp only [putAt_length, List.length_map]; done) | (intro hw; simp [hw, takeAccess]; done) | (intro hw; exact hw) | split
    | with_reducible apply keeps_mk
    | dsimp only

theorem replayOrder_keeps {s₀ : State} (o : OrderRef) (p : ReplayP) (s : State) (hk : Keeps s₀ s) : Keeps s₀ (replayOrder o p s).state := by
  unfold replayOrder
  try dsimp only
  repeat' first
    | with_reducible exact hk | with_reducible assumption | with_reducible apply inFlight_keeps | with_reducible apply refuse_keeps
    | with_reducible apply replayStart_keeps | with_reducible apply keeps_ite
    | (with_reducible refine keeps_foldl _ ?_ _ _ _ ?_; intro _ _ _ _; beta_reduce) | with_reducible exact id | with_reducible rfl
    | (simp only [putAt_length, List.length_map]; done) | (intro hw; simp [hw, takeAccess]; done) | (intro hw; exact hw) | split
    | with_reducible apply keeps_mk
    | dsimp only

/-! ## Machine/Export.lean -/

theorem exportEnds_keeps {s₀ : State} (s : State) (oc : Outcome) (hk : Keeps s₀ s) : Keeps s₀ (State.exportEnds s oc) := by
  unfold State.exportEnds
  try dsimp only
  repeat' first
    | with_reducible exact hk | with_reducible assumption | with_reducible apply complete_keeps | with_reducible apply endRight_keeps
    | with_reducible apply exportOrder_keeps | with_reducible apply keeps_ite
    | (with_reducible refine keeps_foldl _ ?_ _ _ _ ?_; intro _ _ _ _; beta_reduce) | with_reducible exact id | with_reducible rfl
    | (simp only [putAt_length, List.length_map]; done) | (intro hw; simp [hw, takeAccess]; done) | (intro hw; exact hw) | split
    | with_reducible apply keeps_mk
    | dsimp only

theorem segmentStart_keeps {s₀ : State} (s : State) (j : ExportJob) (b : Nat) (e : Block)
    (hk : Keeps s₀ s) : Keeps s₀ (State.segmentStart s j b e) := by
  unfold State.segmentStart
  dsimp only
  have h1 := placeHold_keeps s b false hk
  refine keeps_ite (exportEnds_keeps _ _ (raise_keeps _ _ ?_)) ?_
  · exact h1.upd rfl rfl rfl (storeUnits_wf _ _ _ _ _ _) id rfl rfl rfl rfl (storeUnits_plan _ _ _ _ _ _)
  · exact h1.upd rfl rfl rfl (storeUnits_wf _ _ _ _ _ _) id rfl rfl rfl rfl (storeUnits_plan _ _ _ _ _ _)

theorem exportRun_keeps {s₀ : State} (s : State) (fuel : Nat) (hk : Keeps s₀ s) : Keeps s₀ (State.exportRun s fuel) := by
  induction fuel generalizing s with
  | zero => exact hk
  | succ n ih =>
    unfold State.exportRun
    split
    · exact hk
    · refine keeps_ite hk (keeps_ite (ih _ (exportEnds_keeps _ _ hk)) ?_)
      split
      · exact keeps_ite (ih _ (exportEnds_keeps _ _ hk)) (ih _ (segmentStart_keeps _ _ _ _ hk))
      · exact hk

theorem exportAccess_keeps {s₀ : State} (s : State) (hk : Keeps s₀ s) : Keeps s₀ (State.exportAccess s) := by
  unfold State.exportAccess
  split
  · split
    · exact hk
    · dsimp only
      refine keeps_ite (exportRun_keeps _ _ (exportEnds_keeps _ _ (raise_keeps _ _ ?_))) (keeps_ite ?_ (exportRun_keeps _ _ ?_))
      · exact hk.upd rfl rfl rfl (storeUnits_wf _ _ _ _ _ _) id rfl rfl rfl rfl (storeUnits_plan _ _ _ _ _ _)
      · exact hk.upd rfl rfl rfl (storeUnits_wf _ _ _ _ _ _) id rfl rfl rfl rfl (storeUnits_plan _ _ _ _ _ _)
      · refine keeps_mk (dropHold_keeps _ _ _ ?_) id id rfl rfl rfl rfl id
        exact hk.upd rfl rfl rfl (storeUnits_wf _ _ _ _ _ _) id rfl rfl rfl rfl (storeUnits_plan _ _ _ _ _ _)
  · exact hk

theorem exportJoin_keeps {s₀ : State} (s : State) (j : ExportJob) (hk : Keeps s₀ s) : Keeps s₀ (State.exportJoin s j) := by
  unfold State.exportJoin
  try dsimp only
  repeat' first
    | with_reducible exact hk | with_reducible assumption | with_reducible apply exportRun_keeps | with_reducible apply keeps_ite
    | (with_reducible refine keeps_foldl _ ?_ _ _ _ ?_; intro _ _ _ _; beta_reduce) | with_reducible exact id | with_reducible rfl
    | (simp only [putAt_length, List.length_map]; done) | (intro hw; simp [hw, takeAccess]; done) | (intro hw; exact hw) | split
    | with_reducible apply keeps_mk
    | dsimp only

theorem stallOn_keeps {s₀ : State} (s : State) (addr : Nat) (hk : Keeps s₀ s) : Keeps s₀ (State.stallOn s addr) := by
  unfold State.stallOn
  try dsimp only
  repeat' first
    | with_reducible exact hk | with_reducible assumption | with_reducible apply keeps_ite
    | (with_reducible refine keeps_foldl _ ?_ _ _ _ ?_; intro _ _ _ _; beta_reduce) | with_reducible exact id | with_reducible rfl
    | (simp only [putAt_length, List.length_map]; done) | (intro hw; simp [hw, takeAccess]; done) | (intro hw; exact hw) | split
    | with_reducible apply keeps_mk
    | dsimp only

theorem exportOrder_keeps {s₀ : State} (o : OrderRef) (p : ExportP) (s : State) (hk : Keeps s₀ s) : Keeps s₀ (exportOrder o p s).state := by
  unfold exportOrder
  try dsimp only
  repeat' first
    | with_reducible exact hk | with_reducible assumption | with_reducible apply exportJoin_keeps | with_reducible apply inFlight_keeps
    | with_reducible apply refuse_keeps | with_reducible apply stallOn_keeps | with_reducible apply keeps_ite
    | (with_reducible refine keeps_foldl _ ?_ _ _ _ ?_; intro _ _ _ _; beta_reduce) | with_reducible exact id | with_reducible rfl
    | (simp only [putAt_length, List.length_map]; done) | (intro hw; simp [hw, takeAccess]; done) | (intro hw; exact hw) | split
    | with_reducible apply keeps_mk
    | dsimp only

theorem cancelQueued_keeps {s₀ : State} (s : State) (js : List ExportJob) (hk : Keeps s₀ s) : Keeps s₀ (State.cancelQueued s js) := by
  unfold State.cancelQueued
  try dsimp only
  repeat' first
    | with_reducible exact hk | with_reducible assumption | with_reducible apply complete_keeps | with_reducible apply exportOrder_keeps
    | with_reducible apply keeps_ite | (with_reducible refine keeps_foldl _ ?_ _ _ _ ?_; intro _ _ _ _; beta_reduce) | with_reducible exact id
    | with_reducible rfl | (simp only [putAt_length, List.length_map]; done) | (intro hw; simp [hw, takeAccess]; done) | (intro hw; exact hw) | split
    | with_reducible apply keeps_mk
    | dsimp only

theorem exportCancel_keeps {s₀ : State} (s : State) (id : Nat) (hk : Keeps s₀ s) : Keeps s₀ (State.exportCancel s id) := by
  unfold State.exportCancel
  try dsimp only
  repeat' first
    | with_reducible exact hk | with_reducible assumption | with_reducible apply exportRun_keeps | with_reducible apply exportEnds_keeps
    | with_reducible apply cancelQueued_keeps | with_reducible apply keeps_ite
    | (with_reducible refine keeps_foldl _ ?_ _ _ _ ?_; intro _ _ _ _; beta_reduce) | with_reducible exact id | with_reducible rfl
    | (simp only [putAt_length, List.length_map]; done) | (intro hw; simp [hw, takeAccess]; done) | (intro hw; exact hw) | split
    | with_reducible apply keeps_mk
    | dsimp only

theorem exportAbandon_keeps {s₀ : State} (s : State) (hk : Keeps s₀ s) : Keeps s₀ (State.exportAbandon s) := by
  unfold State.exportAbandon
  try dsimp only
  repeat' first
    | with_reducible exact hk | with_reducible assumption | with_reducible apply endRight_keeps | with_reducible apply keeps_ite
    | (with_reducible refine keeps_foldl _ ?_ _ _ _ ?_; intro _ _ _ _; beta_reduce) | with_reducible exact id | with_reducible rfl
    | (simp only [putAt_length, List.length_map]; done) | (intro hw; simp [hw, takeAccess]; done) | (intro hw; exact hw) | split
    | with_reducible apply keeps_mk
    | dsimp only

theorem renderCancel_keeps {s₀ : State} (s : State) (id : Nat) (hk : Keeps s₀ s) : Keeps s₀ (State.renderCancel s id) := by
  unfold State.renderCancel
  try dsimp only
  repeat' first
    | with_reducible exact hk | with_reducible assumption | with_reducible apply endRender_keeps | with_reducible apply keeps_ite
    | (with_reducible refine keeps_foldl _ ?_ _ _ _ ?_; intro _ _ _ _; beta_reduce) | with_reducible exact id | with_reducible rfl
    | (simp only [putAt_length, List.length_map]; done) | (intro hw; simp [hw, takeAccess]; done) | (intro hw; exact hw) | split
    | with_reducible apply keeps_mk
    | dsimp only

theorem replayCancelOf_keeps {s₀ : State} (s : State) (id : Nat) (hk : Keeps s₀ s) : Keeps s₀ (State.replayCancelOf s id) := by
  unfold State.replayCancelOf
  try dsimp only
  repeat' first
    | with_reducible exact hk | with_reducible assumption | with_reducible apply replayCancel_keeps | with_reducible apply keeps_ite
    | (with_reducible refine keeps_foldl _ ?_ _ _ _ ?_; intro _ _ _ _; beta_reduce) | with_reducible exact id | with_reducible rfl
    | (simp only [putAt_length, List.length_map]; done) | (intro hw; simp [hw, takeAccess]; done) | (intro hw; exact hw) | split
    | with_reducible apply keeps_mk
    | dsimp only

theorem releaseTakeOrder_keeps {s₀ : State} (p : TakeIdP) (s : State) (hk : Keeps s₀ s) : Keeps s₀ (releaseTakeOrder p s).state := by
  unfold releaseTakeOrder
  try dsimp only
  repeat' first
    | with_reducible exact hk | with_reducible assumption | with_reducible apply renderCancel_keeps | with_reducible apply emptyIfDone_keeps
    | with_reducible apply refuse_keeps | with_reducible apply accept_keeps | with_reducible apply replayCancelOf_keeps
    | with_reducible apply setTake_keeps | with_reducible apply exportCancel_keeps | with_reducible apply keeps_ite
    | (with_reducible refine keeps_foldl _ ?_ _ _ _ ?_; intro _ _ _ _; beta_reduce) | with_reducible exact id | with_reducible rfl
    | (simp only [putAt_length, List.length_map]; done) | (intro hw; simp [hw, takeAccess]; done) | (intro hw; exact hw) | split
    | with_reducible apply keeps_mk
    | dsimp only

theorem freeOne_keeps {s₀ : State} (s : State) (id : Nat) (hk : Keeps s₀ s) : Keeps s₀ (State.freeOne s id) := by
  unfold State.freeOne
  split
  · exact hk
  · split
    · exact hk
    · rename_i i _ b hb
      refine emptyIfDone_keeps _ _ (freeFront_keeps _ _ _ ?_ hk)
      unfold State.freeable at hb
      split at hb
      · cases hb
      · split at hb
        · cases hb
        · rename_i b' hb'
          split at hb
          · cases hb
          · split at hb
            · cases hb
              exact owned_of_frontBlock _ _ _ hb'
            · cases hb

/-! ## Machine/Panel.lean -/

theorem completeShow_keeps {s₀ : State} (s : State) (oc : Outcome) (letGo : Option Nat)
    (hk : Keeps s₀ s) : Keeps s₀ (State.completeShow s oc letGo) := by
  unfold State.completeShow
  try dsimp only
  repeat' first
    | with_reducible exact hk | with_reducible assumption | with_reducible apply complete_keeps | with_reducible apply keeps_ite
    | (with_reducible refine keeps_foldl _ ?_ _ _ _ ?_; intro _ _ _ _; beta_reduce) | with_reducible exact id | with_reducible rfl
    | (simp only [putAt_length, List.length_map]; done) | (intro hw; simp [hw, takeAccess]; done) | (intro hw; exact hw) | split
    | with_reducible apply keeps_mk
    | dsimp only

theorem showPending_keeps {s₀ : State} (s : State) (hk : Keeps s₀ s) : Keeps s₀ (State.showPending s) := by
  unfold State.showPending
  try dsimp only
  repeat' first
    | with_reducible exact hk | with_reducible assumption | with_reducible apply completeShow_keeps | with_reducible apply keeps_ite
    | (with_reducible refine keeps_foldl _ ?_ _ _ _ ?_; intro _ _ _ _; beta_reduce) | with_reducible exact id | with_reducible rfl
    | (simp only [putAt_length, List.length_map]; done) | (intro hw; simp [hw, takeAccess]; done) | (intro hw; exact hw) | split
    | with_reducible apply keeps_mk
    | dsimp only

theorem drawFrame_keeps {s₀ : State} (s : State) (hk : Keeps s₀ s) : Keeps s₀ (State.drawFrame s) := by
  unfold State.drawFrame
  try dsimp only
  repeat' first
    | with_reducible exact hk | with_reducible assumption | with_reducible apply accessed_keeps | with_reducible apply raiseIf_keeps
    | with_reducible apply keeps_ite | (with_reducible refine keeps_foldl _ ?_ _ _ _ ?_; intro _ _ _ _; beta_reduce) | with_reducible exact id
    | with_reducible rfl | (simp only [putAt_length, List.length_map]; done) | (intro hw; simp [hw, takeAccess]; done) | (intro hw; exact hw) | split
    | with_reducible apply keeps_mk
    | dsimp only

theorem frame_keeps {s₀ : State} (s : State) (now : Tick) (hk : Keeps s₀ s) : Keeps s₀ (State.frame s now) := by
  unfold State.frame
  try dsimp only
  repeat' first
    | with_reducible apply hands_keeps
    | with_reducible exact hk | with_reducible assumption | with_reducible apply showPending_keeps | with_reducible apply drawFrame_keeps
    | with_reducible apply renderRecheck_keeps | with_reducible apply keeps_ite
    | (with_reducible refine keeps_foldl _ ?_ _ _ _ ?_; intro _ _ _ _; beta_reduce) | with_reducible exact id | with_reducible rfl
    | (simp only [putAt_length, List.length_map]; done) | (intro hw; simp [hw, takeAccess]; done) | (intro hw; exact hw) | split
    | with_reducible apply keeps_mk
    | dsimp only

theorem darkens_keeps {s₀ : State} (s : State) (c : PanelConfig) (hk : Keeps s₀ s) : Keeps s₀ (State.darkens s c) :=
  hands_keeps _ _ (hk.upd rfl rfl rfl id id rfl rfl rfl rfl id)

theorem setPanelOrder_keeps {s₀ : State} (p : SetPanelP) (s : State) (hk : Keeps s₀ s) : Keeps s₀ (setPanelOrder p s).state := by
  unfold setPanelOrder
  try dsimp only
  repeat' first
    | with_reducible apply darkens_keeps
    | with_reducible exact hk | with_reducible assumption | with_reducible apply refuse_keeps | with_reducible apply accept_keeps
    | with_reducible apply frame_keeps | with_reducible apply renderRecheck_keeps | with_reducible apply completeShow_keeps
    | with_reducible apply keeps_ite | (with_reducible refine keeps_foldl _ ?_ _ _ _ ?_; intro _ _ _ _; beta_reduce) | with_reducible exact id
    | with_reducible rfl | (simp only [putAt_length, List.length_map]; done) | (intro hw; simp [hw, takeAccess]; done) | (intro hw; exact hw) | split
    | with_reducible apply keeps_mk
    | dsimp only

theorem showOrder_keeps {s₀ : State} (o : OrderRef) (p : ShowP) (s : State) (hk : Keeps s₀ s) : Keeps s₀ (showOrder o p s).state := by
  unfold showOrder
  try dsimp only
  repeat' first
    | with_reducible exact hk | with_reducible assumption | with_reducible apply inFlight_keeps | with_reducible apply refuse_keeps
    | with_reducible apply completeShow_keeps | with_reducible apply keeps_ite
    | (with_reducible refine keeps_foldl _ ?_ _ _ _ ?_; intro _ _ _ _; beta_reduce) | with_reducible exact id | with_reducible rfl
    | (simp only [putAt_length, List.length_map]; done) | (intro hw; simp [hw, takeAccess]; done) | (intro hw; exact hw) | split
    | with_reducible apply keeps_mk
    | dsimp only

/-! ## Machine/Report.lean -/

theorem handOver_keeps {s₀ : State} (s : State) (all : Bool) (hk : Keeps s₀ s) : Keeps s₀ (State.handOver s all) :=
  hk.upd rfl rfl rfl id id rfl rfl rfl rfl id

theorem imaged_keeps {s₀ : State} (s : State) (hk : Keeps s₀ s) : Keeps s₀ (State.imaged s) :=
  hk.trans ⟨rfl, rfl, rfl, id, id, rfl, rfl, rfl, fun _ => rfl, id⟩

/-- A page written keeps the canonical form. -/
theorem storePage_wf (must : Nat → Bool) (n : Nat) (us vs : List Word64) (a : Nat) (m : Mem) (plan : List (LinkAccess × Nat)) (h : m.wf = true) :
    (storePage must n us vs a m plan).mem.wf = true := by
  induction us generalizing n vs a m plan with
  | nil => exact h
  | cons u us ih =>
    cases vs with
    | nil => exact h
    | cons v vs =>
      unfold storePage
      split
      · split
        · exact h
        · exact ih _ _ _ _ _ (Mem.putUnit_wf _ _ _ h)
      · exact ih _ _ _ _ _ h

theorem storePage_noplan (must : Nat → Bool) (n : Nat) (us vs : List Word64) (a : Nat) (m : Mem) (plan : List (LinkAccess × Nat)) (h : plan = []) :
    (storePage must n us vs a m plan).plan = [] := by
  subst h
  induction us generalizing n vs a m with
  | nil => rfl
  | cons u us ih =>
    cases vs with
    | nil => rfl
    | cons v vs =>
      unfold storePage
      split
      · exact ih _ _ _ _
      · exact ih _ _ _ _

theorem syncReport_keeps {s₀ : State} (s : State) (hk : Keeps s₀ s) : Keeps s₀ (State.syncReport s) := by
  unfold State.syncReport
  dsimp only
  have h1 := handOver_keeps s s.pageStale hk
  have h2 : Keeps s₀ { s.handOver s.pageStale with
      shared := (s.pageStore (s.handOver s.pageStale).pageUnits).mem
      failPlan := (s.pageStore (s.handOver s.pageStale).pageUnits).plan } :=
    h1.upd rfl rfl rfl (storePage_wf _ _ _ _ _ _ _) id rfl rfl rfl rfl (storePage_noplan _ _ _ _ _ _ _)
  exact keeps_ite (imaged_keeps _ h1) (keeps_ite (imaged_keeps _ (linkHalt_keeps _ h2)) (imaged_keeps _ h2))

theorem finish_keeps {s₀ : State} (s : State) (hk : Keeps s₀ s) : Keeps s₀ (State.finish s) :=
  keeps_mk (syncReport_keeps _ (grant_keeps _ _ hk)) id id rfl rfl rfl rfl (fun _ => rfl)

theorem finishEvents_keeps {s₀ : State} (s : State) (hk : Keeps s₀ s) : Keeps s₀ (State.finishEvents s) := by
  unfold State.finishEvents
  try dsimp only
  repeat' first
    | with_reducible exact hk | with_reducible assumption | with_reducible apply finish_keeps | with_reducible apply seqFlush_keeps
    | with_reducible apply keeps_ite | (with_reducible refine keeps_foldl _ ?_ _ _ _ ?_; intro _ _ _ _; beta_reduce) | with_reducible exact id
    | with_reducible rfl | (simp only [putAt_length, List.length_map]; done) | (intro hw; simp [hw, takeAccess]; done) | (intro hw; exact hw) | split
    | with_reducible apply keeps_mk
    | dsimp only

/-! ## Machine/Dispatcher.lean -/

theorem setAlertsOrder_keeps {s₀ : State} (p : SetAlertsP) (s : State) (hk : Keeps s₀ s) : Keeps s₀ (setAlertsOrder p s).state := by
  unfold setAlertsOrder
  try dsimp only
  repeat' first
    | with_reducible exact hk | with_reducible assumption | with_reducible apply refuse_keeps | with_reducible apply accept_keeps
    | with_reducible apply keeps_ite | (with_reducible refine keeps_foldl _ ?_ _ _ _ ?_; intro _ _ _ _; beta_reduce) | with_reducible exact id
    | with_reducible rfl | (simp only [putAt_length, List.length_map]; done) | (intro hw; simp [hw, takeAccess]; done) | (intro hw; exact hw) | split
    | with_reducible apply keeps_mk
    | dsimp only

theorem retireCursor_keeps {s₀ : State} (s : State) (next : Nat) (hk : Keeps s₀ s) : Keeps s₀ (State.retireCursor s next) := by
  unfold State.retireCursor
  split
  · refine keeps_ite (linkHalt_keeps _ (accessed_keeps _ _ hk)) ?_
    exact (accessed_keeps s .orderHeader hk).upd rfl rfl rfl (fun h => Mem.putUnit_wf _ _ _ h) id rfl rfl rfl rfl id
  · exact hk

theorem haltDispatcher_keeps {s₀ : State} (s : State) (hk : Keeps s₀ s) : Keeps s₀ (State.haltDispatcher s) := by
  unfold State.haltDispatcher
  try dsimp only
  repeat' first
    | with_reducible exact hk | with_reducible assumption | with_reducible apply keeps_ite
    | (with_reducible refine keeps_foldl _ ?_ _ _ _ ?_; intro _ _ _ _; beta_reduce) | with_reducible exact id | with_reducible rfl
    | (simp only [putAt_length, List.length_map]; done) | (intro hw; simp [hw, takeAccess]; done) | (intro hw; exact hw) | split
    | with_reducible apply keeps_mk
    | dsimp only

theorem halt_keeps {s₀ : State} (s : State) (o : OrderRef) (hk : Keeps s₀ s) : Keeps s₀ (State.halt s o) := by
  unfold State.halt
  exact keeps_ite (retireCursor_keeps _ _ hk) (haltDispatcher_keeps _ (completeAs_keeps _ _ _ _ _ _ (retireCursor_keeps _ _ hk)))

theorem haltOrder_keeps {s₀ : State} (s : State) (o : OrderRef) (hk : Keeps s₀ s) : Keeps s₀ (State.haltOrder s o) := by
  unfold State.haltOrder
  exact keeps_ite (syncReport_keeps _ hk) (halt_keeps _ _ (syncReport_keeps _ hk))

theorem unitReply_keeps {s₀ : State} (s : State) (o : OrderRef) (us : List Word64) (kind : OrderKind) (hk : Keeps s₀ s) :
    Keeps s₀ (unitReply s o us kind).state := by
  cases kind
  · exact hk
  · exact hk
  · exact setAlertsOrder_keeps _ _ hk
  · exact setPodOrder_keeps _ _ hk
  · exact powerPodOrder_keeps _ _ hk
  · exact clearPodOrder_keeps _ _ hk
  · exact setStimulusOrder_keeps _ _ hk
  · exact runStimulusOrder_keeps _ _ hk
  · exact armOrder_keeps _ _ _ hk
  · exact stopOrder_keeps _ _ hk
  · exact forceOrder_keeps _ hk
  · exact takeStatusOrder_keeps _ _ hk
  · exact releaseTakeOrder_keeps _ _ hk
  · exact setSequenceOrder_keeps _ _ hk
  · exact setLaneOrder_keeps _ _ hk
  · exact snapshotLaneOrder_keeps _ _ hk
  · exact resumeLaneOrder_keeps _ _ hk
  · exact setMatchOrder_keeps _ _ hk
  · exact replayOrder_keeps _ _ _ hk
  · exact exportOrder_keeps _ _ _ hk
  · exact renderOrder_keeps _ _ _ hk
  · exact showOrder_keeps _ _ _ hk
  · exact setPanelOrder_keeps _ _ hk

theorem paramsRead_keeps {s₀ : State} (s : State) (kind : OrderKind) (hk : Keeps s₀ s) : Keeps s₀ (State.paramsRead s kind) := by
  unfold State.paramsRead
  try dsimp only
  repeat' first
    | with_reducible exact hk | with_reducible assumption | with_reducible apply accessed_keeps | with_reducible apply keeps_ite
    | (with_reducible refine keeps_foldl _ ?_ _ _ _ ?_; intro _ _ _ _; beta_reduce) | with_reducible exact id | with_reducible rfl
    | (simp only [putAt_length, List.length_map]; done) | (intro hw; simp [hw, takeAccess]; done) | (intro hw; exact hw) | split
    | with_reducible apply keeps_mk
    | dsimp only

theorem afterUnit_keeps {s₀ : State} (s : State) (kind : OrderKind) (hk : Keeps s₀ s) : Keeps s₀ (State.afterUnit s kind) := by
  unfold State.afterUnit
  try dsimp only
  repeat' first
    | with_reducible exact hk | with_reducible assumption | with_reducible apply replayClose_keeps | with_reducible apply keeps_ite
    | (with_reducible refine keeps_foldl _ ?_ _ _ _ ?_; intro _ _ _ _; beta_reduce) | with_reducible exact id | with_reducible rfl
    | (simp only [putAt_length, List.length_map]; done) | (intro hw; simp [hw, takeAccess]; done) | (intro hw; exact hw) | split
    | with_reducible apply keeps_mk
    | dsimp only

theorem handUnit_keeps {s₀ : State} (s : State) (o : OrderRef) (kind : OrderKind) (hk : Keeps s₀ s) : Keeps s₀ (State.handUnit s o kind) :=
  keeps_ite (complete_keeps _ _ _ _ _ (raise_keeps _ _ (paramsRead_keeps s kind hk)))
    (afterUnit_keeps _ _ (Reply_finish_keeps _ _ _ (unitReply_keeps _ _ _ _ (paramsRead_keeps s kind hk))))

theorem handOrder_keeps {s₀ : State} (s : State) (o : OrderRef) (kind : OrderKind) (hk : Keeps s₀ s) : Keeps s₀ (State.handOrder s o kind) :=
  keeps_ite (haltOrder_keeps _ _ hk) (handUnit_keeps _ _ _ (keeps_mk hk id id rfl rfl rfl rfl id))

theorem linkRead_keeps {s₀ : State} (s : State) (hk : Keeps s₀ s) : Keeps s₀ (State.linkRead s) := by
  unfold State.linkRead
  try dsimp only
  repeat' first
    | with_reducible exact hk | with_reducible assumption | with_reducible apply accessed_keeps | with_reducible apply keeps_ite
    | (with_reducible refine keeps_foldl _ ?_ _ _ _ ?_; intro _ _ _ _; beta_reduce) | with_reducible exact id | with_reducible rfl
    | (simp only [putAt_length, List.length_map]; done) | (intro hw; simp [hw, takeAccess]; done) | (intro hw; exact hw) | split
    | with_reducible apply keeps_mk
    | dsimp only

theorem broken_keeps {s₀ : State} (s : State) (hk : Keeps s₀ s) : Keeps s₀ (State.broken s) := by
  unfold State.broken
  try dsimp only
  repeat' first
    | with_reducible exact hk | with_reducible assumption | with_reducible apply raise_keeps | with_reducible apply keeps_ite
    | (with_reducible refine keeps_foldl _ ?_ _ _ _ ?_; intro _ _ _ _; beta_reduce) | with_reducible exact id | with_reducible rfl
    | (simp only [putAt_length, List.length_map]; done) | (intro hw; simp [hw, takeAccess]; done) | (intro hw; exact hw) | split
    | with_reducible apply keeps_mk
    | dsimp only

theorem takeRecord_keeps {s₀ : State} (s : State) (addr : Nat) (hk : Keeps s₀ s) : Keeps s₀ (State.takeRecord s addr) := by
  unfold State.takeRecord
  try dsimp only
  repeat' first
    | with_reducible exact hk | with_reducible assumption | with_reducible apply retireCursor_keeps | with_reducible apply accessed_keeps
    | with_reducible apply linkHalt_keeps | with_reducible apply keeps_ite
    | (with_reducible refine keeps_foldl _ ?_ _ _ _ ?_; intro _ _ _ _; beta_reduce) | with_reducible exact id | with_reducible rfl
    | exact fun hw => Mem.putUnit_wf _ _ _ hw
    | (simp only [putAt_length, List.length_map]; done) | (intro hw; simp [hw, takeAccess]; done) | (intro hw; exact hw) | split
    | with_reducible apply keeps_mk
    | dsimp only

theorem handTaken_keeps {s₀ : State} (s : State) (m : Mem) (addr : Nat) (hk : Keeps s₀ s) : Keeps s₀ (State.handTaken s m addr) := by
  unfold State.handTaken
  refine keeps_ite hk ?_
  dsimp only
  split
  · exact complete_keeps _ _ _ _ _ (keeps_mk hk id id rfl rfl rfl rfl id)
  · exact keeps_ite (stallOn_keeps _ _ hk) (handOrder_keeps _ _ _ hk)

theorem takeOrder_keeps {s₀ : State} (s : State) (hk : Keeps s₀ s) : Keeps s₀ (State.takeOrder s) := by
  unfold State.takeOrder
  try dsimp only
  repeat' first
    | with_reducible exact hk | with_reducible assumption | with_reducible apply linkRead_keeps | with_reducible apply broken_keeps
    | with_reducible apply takeRecord_keeps | with_reducible apply handTaken_keeps | with_reducible apply linkHalt_keeps
    | with_reducible apply keeps_ite | (with_reducible refine keeps_foldl _ ?_ _ _ _ ?_; intro _ _ _ _; beta_reduce) | with_reducible exact id
    | with_reducible rfl | (simp only [putAt_length, List.length_map]; done) | (intro hw; simp [hw, takeAccess]; done) | (intro hw; exact hw) | split
    | with_reducible apply keeps_mk
    | dsimp only

theorem waitEnds_keeps {s₀ : State} (s : State) (hk : Keeps s₀ s) : Keeps s₀ (State.waitEnds s) := by
  unfold State.waitEnds
  split
  · split
    · exact hk
    · exact keeps_ite hk (handOrder_keeps _ _ _ hk)
  · exact hk

theorem handMarks_keeps {s₀ : State} (s : State) (hk : Keeps s₀ s) : Keeps s₀ (State.handMarks s) := by
  unfold State.handMarks
  try dsimp only
  repeat' first
    | with_reducible exact hk | with_reducible assumption | with_reducible apply handMark_keeps | with_reducible apply replayClose_keeps
    | with_reducible apply keeps_ite | (with_reducible refine keeps_foldl _ ?_ _ _ _ ?_; intro _ _ _ _; beta_reduce) | with_reducible exact id
    | with_reducible rfl | (simp only [putAt_length, List.length_map]; done) | (intro hw; simp [hw, takeAccess]; done) | (intro hw; exact hw) | split
    | with_reducible apply keeps_mk
    | dsimp only

theorem nudgeHalted_keeps {s₀ : State} (s : State) (value : BitVec 32) (hk : Keeps s₀ s) : Keeps s₀ (State.nudgeHalted s value) := by
  unfold State.nudgeHalted
  try dsimp only
  repeat' first
    | with_reducible exact hk | with_reducible assumption | with_reducible apply handMarks_keeps | with_reducible apply accessed_keeps
    | with_reducible apply raise_keeps | with_reducible apply keeps_ite
    | (with_reducible refine keeps_foldl _ ?_ _ _ _ ?_; intro _ _ _ _; beta_reduce) | with_reducible exact id | with_reducible rfl
    | (simp only [putAt_length, List.length_map]; done) | (intro hw; simp [hw, takeAccess]; done) | (intro hw; exact hw) | split
    | with_reducible apply keeps_mk
    | dsimp only

theorem retryLink_keeps {s₀ : State} (s : State) (hk : Keeps s₀ s) : Keeps s₀ (State.retryLink s) := by
  unfold State.retryLink
  try dsimp only
  repeat' first
    | with_reducible exact hk | with_reducible assumption | with_reducible apply linkRead_keeps | with_reducible apply broken_keeps
    | with_reducible apply linkHalt_keeps | with_reducible apply keeps_ite
    | (with_reducible refine keeps_foldl _ ?_ _ _ _ ?_; intro _ _ _ _; beta_reduce) | with_reducible exact id | with_reducible rfl
    | (simp only [putAt_length, List.length_map]; done) | (intro hw; simp [hw, takeAccess]; done) | (intro hw; exact hw) | split
    | with_reducible apply keeps_mk
    | dsimp only

theorem takeCount_keeps {s₀ : State} (s : State) (value : BitVec 32) (hk : Keeps s₀ s) : Keeps s₀ (State.takeCount s value) := by
  unfold State.takeCount
  try dsimp only
  repeat' first
    | with_reducible apply hands_keeps
    | with_reducible exact hk | with_reducible assumption | with_reducible apply raise_keeps | with_reducible apply keeps_ite
    | (with_reducible refine keeps_foldl _ ?_ _ _ _ ?_; intro _ _ _ _; beta_reduce) | with_reducible exact id | with_reducible rfl
    | (simp only [putAt_length, List.length_map]; done) | (intro hw; simp [hw, takeAccess]; done) | (intro hw; exact hw) | split
    | with_reducible apply keeps_mk
    | dsimp only

theorem readBlock_keeps {s₀ : State} (s : State) (hk : Keeps s₀ s) : Keeps s₀ (State.readBlock s) := by
  unfold State.readBlock
  try dsimp only
  repeat' first
    | with_reducible exact hk | with_reducible assumption | with_reducible apply accessed_keeps | with_reducible apply keeps_ite
    | (with_reducible refine keeps_foldl _ ?_ _ _ _ ?_; intro _ _ _ _; beta_reduce) | with_reducible exact id | with_reducible rfl
    | (simp only [putAt_length, List.length_map]; done) | (intro hw; simp [hw, takeAccess]; done) | (intro hw; exact hw) | split
    | with_reducible apply keeps_mk
    | dsimp only

theorem nudgeRunning_keeps {s₀ : State} (s : State) (value : BitVec 32) (hk : Keeps s₀ s) : Keeps s₀ (State.nudgeRunning s value) := by
  unfold State.nudgeRunning
  try dsimp only
  repeat' first
    | with_reducible exact hk | with_reducible assumption | with_reducible apply retryLink_keeps | with_reducible apply takeCount_keeps
    | with_reducible apply handMarks_keeps | with_reducible apply accessed_keeps | with_reducible apply readBlock_keeps
    | with_reducible apply linkHalt_keeps | with_reducible apply keeps_ite
    | (with_reducible refine keeps_foldl _ ?_ _ _ _ ?_; intro _ _ _ _; beta_reduce) | with_reducible exact id | with_reducible rfl
    | (simp only [putAt_length, List.length_map]; done) | (intro hw; simp [hw, takeAccess]; done) | (intro hw; exact hw) | split
    | with_reducible apply keeps_mk
    | dsimp only

theorem nudge_keeps {s₀ : State} (s : State) (value : BitVec 32) (hk : Keeps s₀ s) : Keeps s₀ (State.nudge s value) := by
  unfold State.nudge
  try dsimp only
  repeat' first
    | with_reducible exact hk | with_reducible assumption | with_reducible apply nudgeRunning_keeps | with_reducible apply nudgeHalted_keeps
    | with_reducible apply keeps_ite | (with_reducible refine keeps_foldl _ ?_ _ _ _ ?_; intro _ _ _ _; beta_reduce) | with_reducible exact id
    | with_reducible rfl | (simp only [putAt_length, List.length_map]; done) | (intro hw; simp [hw, takeAccess]; done) | (intro hw; exact hw) | split
    | with_reducible apply keeps_mk
    | dsimp only

theorem renderAbandon_keeps {s₀ : State} (s : State) (hk : Keeps s₀ s) : Keeps s₀ (State.renderAbandon s) := by
  unfold State.renderAbandon
  try dsimp only
  repeat' first
    | with_reducible exact hk | with_reducible assumption | with_reducible apply endRight_keeps | with_reducible apply keeps_ite
    | (with_reducible refine keeps_foldl _ ?_ _ _ _ ?_; intro _ _ _ _; beta_reduce) | with_reducible exact id | with_reducible rfl
    | (simp only [putAt_length, List.length_map]; done) | (intro hw; simp [hw, takeAccess]; done) | (intro hw; exact hw) | split
    | with_reducible apply keeps_mk
    | dsimp only

theorem linkReset_keeps {s₀ : State} (s : State) (hk : Keeps s₀ s) : Keeps s₀ (State.linkReset s) := by
  unfold State.linkReset
  try dsimp only
  repeat' first
    | with_reducible exact hk | with_reducible assumption | with_reducible apply replayAbandon_keeps | with_reducible apply renderAbandon_keeps
    | with_reducible apply exportAbandon_keeps | with_reducible apply raise_keeps | with_reducible apply keeps_ite
    | (with_reducible refine keeps_foldl _ ?_ _ _ _ ?_; intro _ _ _ _; beta_reduce) | with_reducible exact id | with_reducible rfl
    | (simp only [putAt_length, List.length_map]; done) | (intro hw; simp [hw, takeAccess]; done) | (intro hw; exact hw) | split
    | with_reducible apply keeps_mk
    | dsimp only

theorem writeLinkBase_keeps {s₀ : State} (s : State) (value : Word64) (hk : Keeps s₀ s) : Keeps s₀ (State.writeLinkBase s value) := by
  unfold State.writeLinkBase
  try dsimp only
  repeat' first
    | with_reducible exact hk | with_reducible assumption | with_reducible apply keeps_ite
    | (with_reducible refine keeps_foldl _ ?_ _ _ _ ?_; intro _ _ _ _; beta_reduce) | with_reducible exact id | with_reducible rfl
    | (simp only [putAt_length, List.length_map]; done) | (intro hw; simp [hw, takeAccess]; done) | (intro hw; exact hw) | split
    | with_reducible apply keeps_mk
    | dsimp only

/-! ## Machine/EventCommands.lean -/

theorem senses_keeps {s₀ : State} (s : State) (p : Fin 4) (probeAbsent hot : Bool)
    (hk : Keeps s₀ s) : Keeps s₀ (State.senses s p probeAbsent hot) := by
  unfold State.senses
  try dsimp only
  repeat' first
    | with_reducible exact hk | with_reducible assumption | with_reducible apply setPodAt_keeps | with_reducible apply keeps_ite
    | (with_reducible refine keeps_foldl _ ?_ _ _ _ ?_; intro _ _ _ _; beta_reduce) | with_reducible exact id | with_reducible rfl
    | (simp only [putAt_length, List.length_map]; done) | (intro hw; simp [hw, takeAccess]; done) | (intro hw; exact hw) | split
    | with_reducible apply keeps_mk
    | dsimp only

theorem unitEnds_keeps {s₀ : State} (s : State) (g : Fin 4) (hk : Keeps s₀ s) : Keeps s₀ (State.unitEnds s g) := by
  unfold State.unitEnds
  try dsimp only
  repeat' first
    | with_reducible exact hk | with_reducible assumption | with_reducible apply unitPeriodEnd_keeps | with_reducible apply unitAdvance_keeps
    | with_reducible apply keeps_ite | (with_reducible refine keeps_foldl _ ?_ _ _ _ ?_; intro _ _ _ _; beta_reduce) | with_reducible exact id
    | with_reducible rfl | (simp only [putAt_length, List.length_map]; done) | (intro hw; simp [hw, takeAccess]; done) | (intro hw; exact hw) | split
    | with_reducible apply keeps_mk
    | dsimp only

theorem compared_keeps {s₀ : State} (s : State) (levels : Chans) (hk : Keeps s₀ s) : Keeps s₀ (State.compared s levels) := by
  unfold State.compared
  try dsimp only
  repeat' first
    | with_reducible exact hk | with_reducible assumption | with_reducible apply keeps_ite
    | (with_reducible refine keeps_foldl _ ?_ _ _ _ ?_; intro _ _ _ _; beta_reduce) | with_reducible exact id | with_reducible rfl
    | (simp only [putAt_length, List.length_map]; done) | (intro hw; simp [hw, takeAccess]; done) | (intro hw; exact hw) | split
    | with_reducible apply keeps_mk
    | dsimp only

theorem endIfReady_keeps {s₀ : State} (s : State) (hk : Keeps s₀ s) : Keeps s₀ (State.endIfReady s) := by
  unfold State.endIfReady
  try dsimp only
  repeat' first
    | with_reducible exact hk | with_reducible assumption | with_reducible apply enterEnded_keeps | with_reducible apply keeps_ite
    | (with_reducible refine keeps_foldl _ ?_ _ _ _ ?_; intro _ _ _ _; beta_reduce) | with_reducible exact id | with_reducible rfl
    | (simp only [putAt_length, List.length_map]; done) | (intro hw; simp [hw, takeAccess]; done) | (intro hw; exact hw) | split
    | with_reducible apply keeps_mk
    | dsimp only

theorem readerTakes_keeps {s₀ : State} (s : State) (r : Reader) (hk : Keeps s₀ s) : Keeps s₀ (State.readerTakes s r) := by
  cases r
  · exact replayAccess_keeps _ hk
  · exact exportAccess_keeps _ hk
  · exact renderAccessed_keeps _ hk

theorem readerResumes_keeps {s₀ : State} (s : State) (r : Reader) (hk : Keeps s₀ s) : Keeps s₀ (State.readerResumes s r) := by
  cases r
  · exact replayResume_keeps _ hk
  · exact exportRun_keeps _ _ hk
  · exact renderResume_keeps _ hk

theorem readerDone_keeps {s₀ : State} (s : State) (r : Reader) (hk : Keeps s₀ s) : Keeps s₀ (State.readerDone s r) := by
  unfold State.readerDone
  split
  · exact readerResumes_keeps _ _ (dropWaited_keeps _ _ (portFree_keeps _ hk))
  · exact keeps_ite (readerResumes_keeps _ _ (portFree_keeps _ hk)) (readerTakes_keeps _ _ (portFree_keeps _ hk))

theorem frameIfDue_keeps {s₀ : State} (s : State) (hk : Keeps s₀ s) : Keeps s₀ (State.frameIfDue s) := by
  unfold State.frameIfDue
  try dsimp only
  repeat' first
    | with_reducible exact hk | with_reducible assumption | with_reducible apply frame_keeps | with_reducible apply keeps_ite
    | (with_reducible refine keeps_foldl _ ?_ _ _ _ ?_; intro _ _ _ _; beta_reduce) | with_reducible exact id | with_reducible rfl
    | (simp only [putAt_length, List.length_map]; done) | (intro hw; simp [hw, takeAccess]; done) | (intro hw; exact hw) | split
    | with_reducible apply keeps_mk
    | dsimp only

end Sys2Proof.Machine
end

