-- ==== Sys2Proof/Laws/Exec.lean ====
section
/-! SUPPORT. Laws/Exec.lean: what every command does, said once: it answers a next state with no failure in store, and what the operations keep it keeps. -/

set_option Elab.async false

namespace Sys2Proof.Machine

/-- A command answers a next state that keeps what the operations of the part keep, with no failure in store. -/
def goesOn (s : State) (r : Result) : Prop := ∃ t, r = .next t ∧ Keeps s t ∧ t.settled

theorem goesOn_finish {s x : State} (h : Keeps s x) : goesOn s (.next x.finish) := ⟨_, rfl, finish_keeps _ h, rfl⟩

theorem goesOn_finishEvents {s x : State} (h : Keeps s x) : goesOn s (.next x.finishEvents) := ⟨_, rfl, finishEvents_keeps _ h, rfl⟩

theorem goesOn_orderResult {s : State} {r : Reply} (o : OrderRef) (kind : OrderKind) (h : Keeps s r.state) : goesOn s (orderResult r o kind) :=
  goesOn_finish (Reply_finish_keeps _ _ _ h)

theorem goesOn_orderResultEvents {s : State} {r : Reply} (o : OrderRef) (kind : OrderKind) (h : Keeps s r.state) :
    goesOn s (orderResultEvents r o kind) :=
  goesOn_finishEvents (Reply_finish_keeps _ _ _ h)

/-- The same from a state with one more failure in store. -/
theorem goesOn_willFail {s : State} {access : LinkAccess} {nth : Nat} {r : Result} (h : goesOn (s.willFail access nth) r) : goesOn s r := by
  obtain ⟨t, h1, h2, h3⟩ := h
  exact ⟨t, h1, ⟨h2.pending, h2.tick, h2.wraps, h2.shared, h2.pool, h2.takes, h2.slots, h2.channels, h2.image, fun _ => h3⟩, h3⟩

/-- A command within a failing step does what it does by itself. -/
theorem runCommand_eq_exec (c : Instr) (s : State) : runCommand c s = exec c s := by
  cases c <;> rfl

/-- Every command but the resets and TICK. -/
theorem runCommand_goesOn (c : Instr) (s : State) (h : movesTick c = false) : goesOn s (runCommand c s) := by
  have hk := Keeps.refl s
  induction c generalizing s with
  | powerOnReset => simp [movesTick] at h
  | partReset v =>
    have hv : v ≠ 1 := by simpa [movesTick] using h
    show goesOn s (execPartReset v s)
    unfold execPartReset
    rw [if_neg hv]
    exact goesOn_finish hk
  | tick n => simp [movesTick] at h
  | sharedMemoryAccessFailure a n d ih => exact goesOn_willFail (ih (s.willFail a n) h (Keeps.refl _))
  | linkReset => exact goesOn_finish (linkReset_keeps _ hk)
  | linkBaseWrite v => exact goesOn_finish (writeLinkBase_keeps _ _ hk)
  | nudge v st => exact goesOn_finishEvents (nudge_keeps _ _ (hostStores_keeps _ _ hk))
  | alertCauseWrite v => exact goesOn_finish (keeps_mk hk id id rfl rfl rfl rfl id)
  | alertMaskWrite v => exact goesOn_finish (keeps_mk hk id id rfl rfl rfl rfl id)
  | orderTake st => exact goesOn_finishEvents (takeOrder_keeps _ (hostStores_keeps _ _ hk))
  | dispatcherWaitEnds => exact goesOn_finishEvents (waitEnds_keeps _ hk)
  | halt o => exact goesOn_finish (haltOrder_keeps _ _ hk)
  | powerPod o p => exact goesOn_orderResultEvents _ _ (powerPodOrder_keeps _ _ hk)
  | resumeLane o p => exact goesOn_finishEvents (afterUnit_keeps _ _ (Reply_finish_keeps _ _ _ (resumeLaneOrder_keeps _ _ hk)))
  | warmTimerExpiry p => exact goesOn_finish (keeps_ite (warmOver_keeps _ _ hk) hk)
  | wakeTimerExpiry p => exact goesOn_finish (keeps_ite (wakeOver_keeps _ _ hk) hk)
  | monitorPeriodExpiry a => exact goesOn_finishEvents (keeps_ite (monitorExpiry_keeps _ _ hk) hk)
  | podSenseChange p a b => exact goesOn_finishEvents (keeps_ite (senses_keeps _ _ _ _ hk) (evalSenses_keeps _ _ (senses_keeps _ _ _ _ hk)))
  | periodEnd g => exact goesOn_finish (keeps_ite (unitPeriodEnd_keeps _ _ hk) hk)
  | unitEnd g => exact goesOn_finish (keeps_ite (unitEnds_keeps _ _ hk) hk)
  | sampleInterval v => exact goesOn_finishEvents (sampleInterval_keeps _ _ hk)
  | frameIdleExpiry k => exact goesOn_finishEvents (searchFlush_keeps _ (laneIdleExpiry_keeps _ _ hk))
  | windowMaximumJudged => exact goesOn_finishEvents (seqMaximum_keeps _ hk)
  | idleTimerExpiry => exact goesOn_finish (keeps_ite (enterWatch_keeps _ hk) hk)
  | wakeEdge v => exact goesOn_finishEvents (keeps_ite (wakeEdge_keeps _ _ hk) (compared_keeps _ _ hk))
  | captureWriterAccess => exact goesOn_finish (keeps_ite (writerAccess_keeps _ (portFree_keeps _ hk)) hk)
  | takeEntersEnded => exact goesOn_finish (endIfReady_keeps _ hk)
  | readerAccessComplete r => exact goesOn_finish (keeps_ite (readerDone_keeps _ _ hk) hk)
  | replayInterval => exact goesOn_finish (replayInterval_keeps _ hk)
  | blockFreed i => exact goesOn_finish (freeOne_keeps _ _ hk)
  | frameStart st => exact goesOn_finish (frameIfDue_keeps _ (hostStores_keeps _ _ hk))
  | stageReportDelayExpiry => exact goesOn_finish hk
  | note o => exact goesOn_orderResult _ _ hk
  | setAlerts o p => exact goesOn_orderResult _ _ (setAlertsOrder_keeps _ _ hk)
  | setPod o p => exact goesOn_orderResult _ _ (setPodOrder_keeps _ _ hk)
  | clearPod o p => exact goesOn_orderResult _ _ (clearPodOrder_keeps _ _ hk)
  | setStimulus o p => exact goesOn_orderResult _ _ (setStimulusOrder_keeps _ _ hk)
  | runStimulus o p => exact goesOn_orderResult _ _ (runStimulusOrder_keeps _ _ hk)
  | arm o p => exact goesOn_orderResult _ _ (armOrder_keeps _ _ _ hk)
  | stop o => exact goesOn_orderResult _ _ (stopOrder_keeps _ _ hk)
  | force o => exact goesOn_orderResult _ _ (forceOrder_keeps _ hk)
  | takeStatus o p => exact goesOn_orderResult _ _ (takeStatusOrder_keeps _ _ hk)
  | releaseTake o p => exact goesOn_orderResult _ _ (releaseTakeOrder_keeps _ _ hk)
  | setSequence o p => exact goesOn_orderResult _ _ (setSequenceOrder_keeps _ _ hk)
  | setLane o p => exact goesOn_orderResult _ _ (setLaneOrder_keeps _ _ hk)
  | snapshotLane o p => exact goesOn_orderResult _ _ (snapshotLaneOrder_keeps _ _ hk)
  | setMatch o p => exact goesOn_orderResult _ _ (setMatchOrder_keeps _ _ hk)
  | replay o p => exact goesOn_orderResult _ _ (replayOrder_keeps _ _ _ hk)
  | exportOrder o p => exact goesOn_orderResult _ _ (exportOrder_keeps _ _ _ hk)
  | render o p => exact goesOn_orderResult _ _ (renderOrder_keeps _ _ _ hk)
  | showTable o p => exact goesOn_orderResult _ _ (showOrder_keeps _ _ _ hk)
  | setPanel o p => exact goesOn_orderResult _ _ (setPanelOrder_keeps _ _ hk)

/-- Every command but the resets and TICK answers a next state that keeps what the operations keep. -/
theorem exec_goesOn (c : Instr) (s : State) (h : movesTick c = false) : goesOn s (exec c s) := by
  rw [← runCommand_eq_exec]
  exact runCommand_goesOn c s h

end Sys2Proof.Machine
end

