-- ==== Sys2Proof/Tests/Slice0.lean ====
section
/-! SUPPORT. Tests/Slice0.lean: an ill-formed command for each check of WellFormed, a few single steps on values the manual gives, and for every statement
of Certificates/Slice0/Obligations.lean a concrete state and operands that meet its hypotheses, clause by clause. -/

set_option Elab.async false

namespace Sys2Proof.Tests

open Sys2Proof Sys2Proof.Machine

/-! ## Commands that are not well formed -/

def o : OrderRef := ⟨0x1000, true⟩

theorem test_refused_record_address_zero : (Instr.note ⟨0, false⟩).wellFormed = false := by decide
theorem test_refused_record_address_misaligned : (Instr.halt ⟨0x1001, false⟩).wellFormed = false := by decide
theorem test_refused_record_address_beyond_64_bits : (Instr.stop ⟨2 ^ 64, false⟩).wellFormed = false := by decide
theorem test_refused_store_misaligned : (Instr.nudge 0 [⟨12, 0⟩]).wellFormed = false ∧ (Instr.orderTake [⟨12, 0⟩]).wellFormed = false ∧
    (Instr.frameStart [⟨12, 0⟩]).wellFormed = false := by decide
theorem test_refused_setAlerts : (Instr.setAlerts o ⟨2 ^ 64, 1, 0, 0⟩).wellFormed = false := by decide
theorem test_refused_setPod : (Instr.setPod o ⟨0, 0, 2 ^ 63, 0, 0, 0, 1, 1, 0, 1⟩).wellFormed = false ∧
    (Instr.setPod o ⟨2 ^ 64, 0, 0, 0, 0, 0, 1, 1, 0, 1⟩).wellFormed = false := by decide
theorem test_refused_powerPod : (Instr.powerPod o ⟨0, 0, 2 ^ 64⟩).wellFormed = false := by decide
theorem test_refused_clearPod : (Instr.clearPod o ⟨2 ^ 64⟩).wellFormed = false := by decide
theorem test_refused_setStimulus : (Instr.setStimulus o ⟨0, 0, 0, 0, 0, 0, 0, 0, 0, 0, 2 ^ 64⟩).wellFormed = false := by decide
theorem test_refused_runStimulus : (Instr.runStimulus o ⟨2 ^ 64, 0⟩).wellFormed = false ∧ (Instr.runStimulus o ⟨0, 2 ^ 64⟩).wellFormed = false := by
  decide
theorem test_refused_arm : (Instr.arm o ⟨2 ^ 64, 0, 2, 0, 0, 0, 0⟩).wellFormed = false := by decide
theorem test_refused_takeId : (Instr.takeStatus o ⟨2 ^ 64⟩).wellFormed = false ∧ (Instr.releaseTake o ⟨2 ^ 64⟩).wellFormed = false := by decide

def term : TermP := ⟨1, 0, 0, 0, 1, 1⟩
def noTerm : TermP := ⟨0, 0, 0, 0, 0, 0⟩
def stageP : StageP := ⟨[term, noTerm, noTerm, noTerm], 0, 3, 0, 0, 0, 0, 0, 0, 1, 0, 0, 0, 0, 0, 0⟩

theorem test_wellFormed_stage : stageP.wellFormed = true ∧ (Instr.setSequence o ⟨1, List.replicate 16 stageP⟩).wellFormed = true := by decide
theorem test_refused_term : ({ term with rest := 2 ^ 40 } : TermP).wellFormed = false ∧ ({ term with mask := 2 ^ 32 } : TermP).wellFormed = false ∧
    ({ term with kind := 256 } : TermP).wellFormed = false := by decide
theorem test_refused_stage : ({ stageP with terms := [term] } : StageP).wellFormed = false ∧ ({ stageP with mark := 2 } : StageP).wellFormed = false ∧
    ({ stageP with count := 2 ^ 16 } : StageP).wellFormed = false ∧ ({ stageP with winMax := 2 ^ 32 } : StageP).wellFormed = false ∧
    ({ stageP with combine := 256 } : StageP).wellFormed = false ∧ ({ stageP with terms := List.replicate 4 { term with sel := 256 } } : StageP).wellFormed = false := by
  decide
theorem test_refused_setSequence : (Instr.setSequence o ⟨1, [stageP]⟩).wellFormed = false ∧
    (Instr.setSequence o ⟨2 ^ 64, List.replicate 16 stageP⟩).wellFormed = false := by decide
theorem test_refused_setLane : (Instr.setLane o ⟨0, 0, 0, 0, 0, 0, [], 0, 0, 0, 0, 0⟩).wellFormed = false ∧
    (Instr.setLane o ⟨2 ^ 64, 0, 0, 0, 0, 0, List.replicate 6 0, 0, 0, 0, 0, 0⟩).wellFormed = false ∧
    (Instr.setLane o ⟨0, 0, 0, 0, 0, 0, List.replicate 6 (2 ^ 64), 0, 0, 0, 0, 0⟩).wellFormed = false := by decide
theorem test_refused_lane_orders : (Instr.snapshotLane o ⟨2 ^ 64⟩).wellFormed = false ∧ (Instr.resumeLane o ⟨2 ^ 64, 0, 0⟩).wellFormed = false ∧
    (Instr.resumeLane o ⟨0, 2 ^ 64, 0⟩).wellFormed = false ∧ (Instr.resumeLane o ⟨0, 0, 2 ^ 64⟩).wellFormed = false := by decide
theorem test_refused_setMatch : (Instr.setMatch o ⟨0, 0, 0, 0, 2 ^ 64, 0, 0⟩).wellFormed = false := by decide
theorem test_refused_replay : (Instr.replay o ⟨1, 0, 2 ^ 64, 0, 0, 0⟩).wellFormed = false := by decide
theorem test_refused_export : (Instr.exportOrder o ⟨1, 0, 1, 2 ^ 64, 8⟩).wellFormed = false := by decide
theorem test_refused_render : (Instr.render o ⟨0, 0, 1, 16, 1, [0], 8, 16⟩).wellFormed = false ∧
    (Instr.render o ⟨2 ^ 64, 0, 1, 16, 1, List.replicate 32 0, 8, 16⟩).wellFormed = false ∧
    (Instr.render o ⟨0, 0, 1, 16, 1, List.replicate 32 (2 ^ 64), 8, 16⟩).wellFormed = false := by decide
theorem test_refused_show : (Instr.showTable o ⟨2 ^ 64⟩).wellFormed = false := by decide
theorem test_refused_setPanel : (Instr.setPanel o ⟨0, 8, 1600, 0, 800, 0, [], [0, 0]⟩).wellFormed = false ∧
    (Instr.setPanel o ⟨0, 8, 1600, 0, 800, 0, List.replicate 32 0, [0]⟩).wellFormed = false ∧
    (Instr.setPanel o ⟨0, 8, 1600, 0, 800, 0, List.replicate 32 (2 ^ 64), [0, 0]⟩).wellFormed = false ∧
    (Instr.setPanel o ⟨0, 2 ^ 64, 1600, 0, 800, 0, List.replicate 32 0, [0, 0]⟩).wellFormed = false := by decide
theorem test_refused_events : (Instr.monitorPeriodExpiry [0]).wellFormed = false ∧ (Instr.blockFreed 0).wellFormed = false ∧
    (Instr.blockFreed 256).wellFormed = false ∧ (Instr.sharedMemoryAccessFailure .orderHeader 0 (.note ⟨0, false⟩)).wellFormed = false := by decide

/-! ## Small states -/

/-- The part with three free blocks and every pod ON, in HALTED. -/
def part : State := { State.reset with pool := { Pool.reset with free := [100, 101, 102] }, pods := Four.all { Pod.reset with power := .on } }

/-- The dispatcher IDLE with its page at 0x3000 and the record at 0x5000 first. -/
def running : Dispatcher := { Dispatcher.reset with state := .idle, linkBase := 0x7000, firstOrder := 0x5000, pageAddr := 0x3000 }

/-- The same with one order owed. -/
def owing : Dispatcher := { running with state := .following, posted := 1 }

/-- A NOTE at 0x5000 whose link names 0x6000, a NOTE there, a control block at 0x7000. -/
def memory : Mem :=
  Mem.hostStores [] [⟨0x5000, 1⟩, ⟨0x5010, 0x6000⟩, ⟨0x6000, 1⟩, ⟨0x7000, 0x5000⟩, ⟨0x7008, 0x3000⟩]

/-- A take of channels 0..7. -/
def take5 (st : TakeState) : Take := { Take.reset with id := 5, state := st, channels := 0xFF, depth := 4, share := 1, mode := .forceOnly, acquired := 1 }

/-- A filling block of that take with its ANCHOR, and a sealed one. -/
def filling : Block := ⟨false, 5, 0, 0, 0, Four.all 0, 0, false, [⟨0, .anchor 0⟩]⟩
def sealedBlock : Block := ⟨true, 5, 0, 0, 200, Four.all 0, 0, false, [⟨0, .anchor 0⟩, ⟨100, .change 1⟩, ⟨100, .change 0⟩]⟩

/-- The part while it captures in state `st`. -/
def capturing (st : TakeState) : State :=
  { part with
    tick := 200
    takes := { TakeTable.reset with entries := [take5 st] }
    pool := { part.pool with blocks := [(7, filling)] }
    writer := ⟨some 7, 0⟩
    sampler := { Sampler.reset with state := .sampling, channels := 0xFF } }

/-- The part with an ENDED take 5 of one sealed block. -/
def stored : State :=
  { part with
    takes := { TakeTable.reset with entries := [{ take5 .ended with sealedCount := 1 }] }
    pool := { part.pool with blocks := [(7, sealedBlock)] } }

/-! ## Single steps -/

/-- R7, R4: the example of spec/01: POWER POD ON with warm span 50 warms for 500 µs. -/
theorem test_warm_span : (match exec (.powerPod o ⟨3, 1, 50⟩) State.reset with
    | .next t => decide ((t.pods.get 3).power = .warming ∧ (t.pods.get 3).warmTimer = some 500000)
    | _ => false) = true := by decide
/-- R27: the carrier of spec/02: a third of 7 ticks rounds down to 2. -/
theorem test_carrier_third : carrierOn .third 7 = 2 := by decide
/-- R184: a nudge of 0 from HALTED leaves the dispatcher IDLE and writes the page. -/
theorem test_nudge_leaves_halted : (match exec (.nudge 0 []) { part with disp := { Dispatcher.reset with linkBase := 0x7000 }, shared := memory } with
    | .next t => decide (t.disp.state = .idle ∧ t.disp.pageAddr = 0x3000 ∧ (t.shared.getUnit 0x3000).toNat = 1)
    | _ => false) = true := by decide +kernel
/-- R185: the take of a NOTE writes DONE with OK in its state unit. -/
theorem test_take_note : (match exec (.orderTake []) { part with disp := owing, shared := memory } with
    | .next t => decide (t.shared.getUnit 0x5008 = 0x0102 ∧ t.disp.state = .idle ∧ t.disp.cursor = some 0x5000)
    | _ => false) = true := by decide +kernel
/-- One step takes the command in front. -/
theorem test_step_of_queue : step (State.reset.withCommand (.tick 3)) = .next { State.reset with tick := 3 } := rfl

/-! ## The hypotheses of the statements can be met -/

/-- Two blocks: one filling, the others FREE. -/
def oneTaken : Pool := { Pool.reset with blocks := [(0, filling)], free := (List.range 4096).tail }

theorem test_witness_StepRunsFrontCommand : State.reset.pending = [] := rfl
theorem test_witness_EveryCommandGoesOn : movesTick .linkReset = false ∧ movesTick (.partReset 2) = false := by decide
theorem test_witness_MemoryStaysCanonical : memory.wf = true ∧
    ∃ t, step { State.reset with shared := memory, pending := [.linkBaseWrite 8] } = .next t := ⟨by decide, _, rfl⟩
theorem test_witness_BlocksStayPartitioned : oneTaken.partitioned ∧ ∃ t, step { State.reset with pool := oneTaken, pending := [.linkReset] } = .next t := by
  refine ⟨?_, _, rfl⟩
  have h : List.range 4096 = 0 :: (List.range 4095).map Nat.succ := List.range_succ_eq_map
  unfold Pool.partitioned Pool.owned oneTaken Config.blockCount
  simp only [h, List.map_cons, List.map_nil, List.tail_cons, List.cons_append, List.nil_append]
  exact List.Perm.refl _

/-- The same with the take that fills the block, in a table of eight. -/
def placed : State :=
  { State.reset with
    pool := oneTaken
    writer := ⟨some 0, 0⟩
    takes := { TakeTable.reset with entries := take5 .pretrig :: List.replicate 7 Take.reset } }

theorem placed_takeAt (i : Nat) : placed.takeAt i = if i = 0 then take5 .pretrig else Take.reset := by
  rcases i with _ | i
  · rfl
  · rw [if_neg (Nat.succ_ne_zero i)]
    change (List.replicate 7 Take.reset).getD i Take.reset = Take.reset
    rw [List.getD_eq_getElem?_getD, List.getElem?_replicate]
    split <;> rfl
theorem placed_block (b : Nat) : placed.pool.block b = if b = 0 then some filling else none := by
  rcases b with _ | b
  · rfl
  · rw [if_neg (Nat.succ_ne_zero b)]
    rfl
theorem placed_blocksPlaced : placed.blocksPlaced := by
  refine ⟨test_witness_BlocksStayPartitioned.1, ⟨rfl, ?_, ?_, ?_⟩, ?_, ?_, ?_, ?_, ?_⟩
  · intro i
    rw [placed_takeAt]
    split <;> decide
  · intro i j h h0
    have named : ∀ k, (placed.takeAt k).id ≠ 0 → k = 0 := fun k hk => by
      by_contra hne
      rw [placed_takeAt, if_neg hne] at hk
      exact hk rfl
    rw [named i h0, named j (h ▸ h0)]
  · intro i j h h'
    have caught : ∀ k, (placed.takeAt k).capturing = true → k = 0 := fun k hk => by
      by_contra hne
      rw [placed_takeAt, if_neg hne] at hk
      exact absurd hk (by decide)
    rw [caught i h, caught j h']
  · intro b e h
    rw [placed_block] at h
    split at h
    · cases h
      subst b
      decide
    · cases h
  · intro b h
    cases h
    exact ⟨filling, 0, rfl, rfl, rfl, rfl, rfl⟩
  · intro b e h hs
    rw [placed_block] at h
    split at h <;> cases h
    exact absurd hs (by decide)
  · intro i j h
    rw [placed_takeAt] at h
    split at h <;> exact absurd h (Nat.not_lt_zero j)
  · intro i _ _ h
    cases h
theorem test_witness_BlocksStayPartitioned_placed : placed.blocksPlaced ∧ ∃ t, step { placed with pending := [.linkReset] } = .next t :=
  ⟨placed_blocksPlaced, _, rfl⟩
theorem test_witness_TablesKeepTheirSizes : { State.reset with alerts := ⟨3, 1⟩ }.tablesSized ∧
    ∃ t, step { State.reset with alerts := ⟨3, 1⟩, pending := [.alertCauseWrite 1] } = .next t := ⟨⟨rfl, rfl, rfl, rfl⟩, _, rfl⟩

/-- The part is ready in the small states. -/
theorem test_witness_ready : part.ready ∧ stored.ready ∧ (capturing .pretrig).ready ∧ { part with disp := owing, shared := memory }.ready := by
  unfold State.ready State.settled
  decide

theorem test_witness_TickCount : { State.reset with tick := (2 ^ 56 - 1) }.ready ∧ ({ State.reset with tick := (2 ^ 56 - 1) } : State).tick.toNat = 2 ^ 56 - 1 ∧
    ({ State.reset with tick := (2 ^ 56 - 2) } : State).tick.toNat < 2 ^ 56 - 1 := ⟨⟨rfl, rfl⟩, by decide, by decide⟩
theorem test_witness_ResetReturnsEveryField : part.ready ∧ (2 : BitVec 32) ≠ 1 := ⟨test_witness_ready.1, by decide⟩
theorem test_witness_LinkResetForgetsOrders : { part with disp := owing, shared := memory }.ready := test_witness_ready.2.2.2
theorem test_witness_RegisterWrites : part.ready := test_witness_ready.1

theorem test_witness_NudgeInHalted : part.quiet ∧ part.disp.state = .halted ∧ usableAddr part.disp.linkBase.toNat = false ∧
    (let s : State := { part with disp := { Dispatcher.reset with linkBase := 0x7000 }, shared := memory }
     s.quiet ∧ usableAddr s.disp.linkBase.toNat = true ∧ (4097 : BitVec 32).toNat > 4096 ∧ (4096 : BitVec 32).toNat ≤ 4096 ∧ usableAddr s.blockPage = true ∧
       s.replay.running = false) ∧
    (let s : State := { part with disp := { Dispatcher.reset with linkBase := 0x7000 } }
     usableAddr s.disp.linkBase.toNat = true ∧ usableAddr s.blockPage = false) := by
  unfold State.quiet
  decide +kernel
theorem test_witness_NudgeTakesCount :
    let s : State := { part with disp := running, shared := memory }
    s.quiet ∧ s.disp.state = .idle ∧ s.replay.running = false ∧ (4096 - s.disp.consumed).toNat ≤ 4096 ∧ 4096 < ((4097 : BitVec 32) - s.disp.consumed).toNat := by
  unfold State.quiet
  decide +kernel
theorem test_witness_OrderTakeFirst :
    let s : State := { part with disp := owing, shared := memory }
    s.quiet ∧ s.disp.state = .following ∧ s.disp.owed ≠ 0 ∧ s.disp.cursor = none ∧ s.recordClear (s.shared.orderRef s.disp.firstOrder) .note 0 ∧
      noteAt s s.disp.firstOrder := by
  unfold State.quiet State.recordClear noteAt
  decide +kernel
theorem test_witness_OrderTakeFirst_broken :
    let s : State := { part with disp := { owing with firstOrder := 0 }, shared := memory }
    s.quiet ∧ s.disp.state = .following ∧ s.disp.owed ≠ 0 ∧ usableAddr s.nextRecord = false := by
  unfold State.quiet
  decide +kernel
theorem test_witness_OrderTakeFirst_nothing : part.disp.state ≠ .following ∧ { running with state := .following }.owed = 0 := by decide
theorem test_witness_OrderTakeNext :
    let s : State := { part with disp := { owing with cursor := some 0x5000, cursorOutcome := some .ok }, shared := memory }
    s.quiet ∧ s.disp.state = .following ∧ s.disp.owed ≠ 0 ∧ s.disp.cursor = some 0x5000 ∧ s.disp.cursorOutcome = some .ok ∧
      s.disp.found.getD (s.shared.getUnit (linkAddr 0x5000)).toNat = 0x6000 ∧
      ({ s.disp with found := some 0x6000 } : Dispatcher).found.getD 0 = 0x6000 ∧ s.recordClear (s.shared.orderRef 0x6000) .note 0 ∧ headersApart s 0x5000 0x6000 ∧ noteAt s 0x6000 := by
  unfold State.quiet State.recordClear noteAt headersApart
  decide +kernel
theorem test_witness_WaitEndsHandsOrder :
    let s : State := { part with disp := { owing with state := .stalled, held := some 0x5000 }, shared := memory }
    s.quiet ∧ s.disp.state = .stalled ∧ s.disp.held = some 0x5000 ∧ s.noneInFlight = true ∧ s.shared.orderKind 0x5000 = some .note ∧
      s.recordClear (s.shared.orderRef 0x5000) .note 0 := by
  unfold State.quiet State.recordClear
  decide +kernel
theorem test_witness_NoteAndHalt :
    let s : State := { part with disp := { running with cursor := some 0x1000 } }
    s.recordClear o .note 0 ∧ s.recordClear o .halt 0 ∧ s.disp.cursor = some o.addr := by
  unfold State.recordClear
  decide +kernel

/-- Every kind's record at 0x1000 is clear of the page. -/
theorem test_witness_recordClear : ∀ kind n, n ≤ 71 → { part with disp := running }.recordClear o kind n := by
  intro kind n hn
  refine ⟨by decide, ?_, Or.inr ⟨by decide, Or.inl ?_⟩⟩ <;> cases kind <;> simp [resultAddr, o, running, OrderKind.paramUnits] <;> omega

theorem test_witness_SetAlertsWritesLevels : (⟨2, 0, 0, 0⟩ : SetAlertsP).valid = false ∧ (⟨1, 0, 0, 0⟩ : SetAlertsP).valid = false ∧
    (⟨1, 4097, 0, 0⟩ : SetAlertsP).valid = false ∧ (⟨1, 4096, 1, 4096⟩ : SetAlertsP).valid = true ∧ (⟨0, 9999, 0, 9999⟩ : SetAlertsP).valid = true := by decide
theorem test_witness_BadFieldChangesNothing :
    part.quiet ∧ part.replay.running = false ∧ (⟨0, 1, 0⟩ : PowerPodP).valid = false ∧ (4 > 3) ∧ (⟨4, 0, 0⟩ : ResumeLaneP).valid = false ∧
      (⟨0, 1, 601, 0, 0, 0, 0, 0, 0, 0⟩ : SetPodP).valid = false ∧ (⟨0, 1, 16, 0, 0, 0, 0, 0, 0, 0, 0⟩ : SetStimulusP).valid = false ∧
      (⟨4, 0⟩ : RunStimulusP).valid = false ∧ (⟨0, 0, 1600, 0, 800, 0, [], []⟩ : SetPanelP).valid = false ∧
      (⟨0, []⟩ : SetSequenceP).valid = false ∧ (⟨0, 5, 0, 0, 0, 0, [], 0, 0, 0, 0, 0⟩ : SetLaneP).valid = false ∧
      (⟨8, 0, 0, 0, 0, 0, 0⟩ : SetMatchP).valid = false ∧ (⟨0, 0, 1, 8, 8⟩ : ExportP).valid = false ∧ part.exporter.queue.length < 4 ∧
      usableAddr 0 = false ∧ (⟨0, 0, 2, 0, 0, 0, 0⟩ : ArmP).valid = false ∧ (⟨0, 0, 0, 1, 0, 0⟩ : ReplayP).valid = false ∧
      (⟨0, 0, 0, 16, 1, [0], 8, 16⟩ : RenderP).valid = false := by
  unfold State.quiet
  decide
theorem test_witness_SetPodWrites : (⟨3, 63, 600, 25, 300, 300, 15, 255, 0x0303030303, 255⟩ : SetPodP).valid = true := by decide
theorem test_witness_PowerPodSwitches :
    part.quiet ∧ (⟨3, 1, 255⟩ : PowerPodP).valid = true ∧ (⟨0, 0, 0⟩ : PowerPodP).valid = true ∧
      (let x := State.reset.pods.get 3
       x.power = .off ∧ x.probeAbsent = false ∧ x.hotSense = false ∧ x.sources.lost.active = false ∧ x.sources.hot.active = false) ∧
      (part.pods.get 3).power ≠ .off ∧ (capturing .pretrig).listed 0 = true ∧ part.listed 0 = false ∧ (part.pods.get 0).power ≠ .off ∧
      State.reset.listed 0 = false ∧ State.reset.capIndex = none ∧ (State.reset.pods.get 0).power = .off ∧ part.chained 0 = false ∧ part.recordingIndex = none := by
  unfold State.quiet
  decide +kernel

theorem test_witness_PowerPodSwitches_capture :
    let s : State := { capturing .pretrig with pods := { part.pods with n3 := { Pod.reset with probeAbsent := true, hotSense := true } } }
    s.quiet ∧ (s.pods.get 3).power = .off ∧ s.listed 3 = false ∧ s.seq.state ≠ .running ∧ s.recordingIndex = some 0 := by
  unfold State.quiet
  decide +kernel

/-- A pod with a source in force at ISOLATE, one with the latch alone. -/
def isolated : Pod := { Pod.reset with power := .on, latch := true, sources := { Pod.reset.sources with hot := ⟨true, 0xFF, .isolate, none, true⟩ } }
def latched : Pod := { Pod.reset with power := .on, latch := true }

theorem test_witness_ClearPodClearsLatch :
    ({ part with pods := Four.all isolated }.pods.get 3).actionLevel = 4 ∧ (part.pods.get 3).actionLevel ≠ 4 ∧ (part.pods.get 3).latch = false ∧
      ({ part with pods := Four.all latched }.pods.get 3).actionLevel ≠ 4 ∧ ({ part with pods := Four.all latched }.pods.get 3).latch = true ∧
      { part with pods := Four.all latched }.recordingIndex = none := by decide +kernel
theorem test_witness_PodTimersEnd :
    part.capIndex = none ∧ timerDue (part.pods.get 0).warmTimer part.tick = false ∧ timerDue (part.pods.get 0).wakeTimer part.tick = false ∧
      timerDue (some 200) 200 = true ∧ timerDue (some 201) 200 = false := by decide +kernel
theorem test_witness_MonitorMeasures :
    let s : State := { part with tick := 10000000, monitor := Monitor.reset }
    atOrBefore s.monitor.expiry s.tick = true ∧ s.capIndex = none ∧ s.seq.state ≠ .running ∧ (s.pods.get (podOf 31)).power = .on ∧ 31 < s.monitor.channels.length ∧
      (State.reset.pods.get (podOf 0)).power = .off := by decide +kernel
/-- R11, R19: a channel above its high limit activates OVER at ISOLATE: the latch sets and the generator is silenced. -/
theorem test_over_isolates : (match exec (.monitorPeriodExpiry [1501]) { part with tick := 10000000, monitor := Monitor.reset } with
    | .next t => decide ((t.pods.get 0).sources.overLimit = ⟨true, 1, .isolate, none, true⟩ ∧ (t.pods.get 0).latch = true ∧
        (t.gens.get 0).state = .silenced ∧ (t.pods.get 1).latch = false)
    | _ => false) = true := by decide +kernel

/-- Every pod ON with `a` for the action of LOST. -/
def losing (a : FaultAction) : Four Pod := Four.all { Pod.reset with power := .on, actions := ⟨.ignore, .ignore, .mark, a, .isolate⟩ }

theorem test_witness_ProbeLossActivates :
    part.ready ∧ part.seq.state ≠ .running ∧ (State.reset.pods.get 3).power = .off ∧
      (∀ a, (((losing a).get 3).power ≠ .off ∧ ((losing a).get 3).sources.lost.active = false ∧ ((losing a).get 3).sources.hot.active = false ∧
        ((losing a).get 3).actions.lost = a ∧ ((losing a).get 3).latch = false)) ∧
      { part with pods := losing .mark }.capIndex = none ∧ part.chained 3 = false ∧ { part with chain23 := true }.chained 3 = true := by
  refine ⟨test_witness_ready.1, by decide, by decide, fun a => ?_, by decide +kernel, by decide, by decide⟩
  cases a <;> decide
theorem test_witness_ProbeLossActivates_recording :
    let s : State := { capturing .pretrig with pods := losing .markAndEnd }
    s.seq.state ≠ .running ∧ s.recordingIndex = some 0 ∧ s.staging.overflow = false ∧ s.staging.fill + 2 ≤ 4096 ∧
      podIn 0 (s.takeAt 0).channels = true ∧ (∀ k : Fin 4, (s.lanes.get k).attached = 0) ∧ s.placesLeft ≠ 0 := by decide +kernel
theorem test_witness_UnknownChannels : (7 : Nat) < 8 := by decide

/-- A running generator at the end of its last unit, and within its period. -/
def runningGen : Gen := { Gen.reset with state := .running, counter := 3, applied := { GenSettings.reset with period := 4, duty := 2 } }

theorem test_witness_SetStimulusWrites :
    (⟨3, 1, 15, 65535, 65535, 1, 1, 3, 65535, 65535, 0⟩ : SetStimulusP).valid = true ∧ (⟨3, 0, 0, 0, 0, 0, 0, 0, 0, 0, 2⟩ : SetStimulusP).valid = true ∧
      part.chained 3 = false ∧ (part.gens.get 3).state ≠ .running ∧ part.pairBusy 3 = false ∧
      (let s : State := { part with gens := Four.all runningGen }
       s.chained 3 = false ∧ (s.gens.get 3).state = .running ∧ s.genIdle 3 = false ∧ s.pairBusy 3 = true) := by decide +kernel
theorem test_witness_RunStimulusStartsAndStops :
    (⟨3, 0⟩ : RunStimulusP).valid = true ∧ (⟨3, 1⟩ : RunStimulusP).valid = true ∧ (⟨3, 2⟩ : RunStimulusP).valid = true ∧ part.chained 3 = false ∧
      (part.pods.get 3).power ≠ .off ∧ (part.gens.get 3).state = .stopped ∧ (runningGen).state = .running ∧ (State.reset.pods.get 3).power = .off := by
  decide +kernel
/-- Generators 2 and 3 chained, the pair running short of its joined period, and stopped. -/
def pairRunning : State := { part with tick := 1, chain23 := true, gens := Four.all runningGen }
def pairStopped : State := { part with chain23 := true }

theorem test_witness_SetStimulusWrites_idle :
    let s : State := { part with gens := Four.all { Gen.reset with state := .running } }
    (⟨3, 1, 0, 0, 0, 0, 0, 0, 2, 0, 0⟩ : SetStimulusP).valid = true ∧ (⟨3, 0, 9, 9, 9, 9, 9, 9, 9, 9, 0⟩ : SetStimulusP).write = 0 ∧ s.chained 3 = false ∧
      (s.gens.get 3).state = .running ∧ (s.gens.get 3).applied.period = 0 := by decide +kernel
theorem test_witness_RunStimulus_silenced :
    let s : State := { part with gens := Four.all { Gen.reset with state := .silenced } }
    (s.pods.get 3).power ≠ .off ∧ (s.gens.get 3).state = .silenced ∧ (s.pods.get 3).latch = false ∧ latched.latch = true ∧ latched.power ≠ .off := by
  decide +kernel
theorem test_witness_RunStimulus_pair :
    pairStopped.chained 2 = true ∧ (2 : Fin 4) = evenOf 2 ∧ (3 : Fin 4) = oddOf 3 ∧ pairStopped.chained 3 = true ∧
      (pairStopped.pods.get (evenOf 3)).power ≠ .off ∧ (pairStopped.pods.get 3).power ≠ .off ∧ (pairStopped.gens.get 3).state = .stopped := by decide +kernel
theorem test_witness_GeneratorUnitsEnd_pair :
    pairRunning.chained 2 = true ∧ (2 : Fin 4) = evenOf 2 ∧ pairRunning.chained 3 = true ∧ pairRunning.unitDue 3 = true ∧
      (pairRunning.gens.get 3).applied.alignment = .edge ∧ (pairRunning.gens.get 3).down = false ∧
      (pairRunning.gens.get 3).counter + 1 < (pairRunning.gens.get (evenOf 3)).applied.period * 65536 + (pairRunning.gens.get 3).applied.period := by decide +kernel
theorem test_witness_GeneratorUnitsEnd :
    part.chained 3 = false ∧ part.unitDue 3 = false ∧
      (let s : State := { part with tick := 1, gens := Four.all runningGen }
       s.unitDue 3 = true ∧ s.lastUnit 3 = true) ∧
      (let s : State := { part with tick := 1, gens := Four.all { runningGen with counter := 2 } }
       s.unitDue 3 = true ∧ s.lastUnit 3 = false) := by decide +kernel
theorem test_witness_SetSequenceLoads :
    (⟨16, List.replicate 16 stageP⟩ : SetSequenceP).valid = true ∧ (⟨1, [stageP]⟩ : SetSequenceP).valid = true ∧ part.seq.state = .unloaded ∧
      { Sequencer.reset with state := .done }.state = .done := by decide +kernel
theorem test_witness_PatternTermHolds : Term.holds ⟨1, 1, 0, 0, SeqEvents.none⟩ (.pattern 1 1) = true ∧
    Term.holds ⟨1, 0, 0, 0, SeqEvents.none⟩ (.pattern 1 1) = false := by decide

/-- A capture run whose stage has its maximum in the present interval. -/
def windowed : State :=
  { capturing .pretrig with
    seq := { Sequencer.reset with
      state := .running, serving := .capture, servingTake := 5, startTime := 190,
      stages := [⟨[.pattern 1 1], false, 1, 0, 10, .next, 0, 0, .next, 0, .next, 0, false, none⟩],
      evaluated := some ⟨200, 0, 0, 0, 0, false, SeqEvents.none, false⟩ } }

theorem test_witness_WindowMaximumTakesLatePath :
    windowed.ready ∧ windowed.quiet ∧ windowed.captureRuns = true ∧ windowed.seqPassed = true ∧ windowed.seq.cur.winMax ≠ 0 ∧
      windowed.seq.cur.lateAction = .next ∧ atOrBefore windowed.seq.startTime windowed.intervalTime = true ∧
      windowed.seq.judgeTime windowed.sampler.intervalExp = windowed.intervalTime ∧ windowed.sampler.intervalExp ≤ 20 ∧
      (∀ st ∈ windowed.seq.stages, st.winMax < 2 ^ 32) := by
  unfold State.ready State.settled State.quiet
  decide +kernel
/-- A capture run at its one stage, which waits for channel 0 high, and then fires. -/
def sequenced : State :=
  { windowed with
    takes := { TakeTable.reset with entries := [{ take5 .pretrig with mode := .sequence }] }
    seq := { windowed.seq with stages := [⟨[.pattern 1 1], false, 1, 0, 0, .fire, 0, 0, .restart, 0, .restart, 0, false, none⟩] } }

theorem test_witness_SequencerMeetsStage :
    sequenced.ready ∧ sequenced.quiet ∧ sequenced.sampler.state = .sampling ∧ sequenced.captureRuns = true ∧ sequenced.capIndex = some 0 ∧
      sequenced.takeIndex sequenced.seq.servingTake = some 0 ∧ (sequenced.takeAt 0).state = .pretrig ∧ (sequenced.takeAt 0).endReason = none ∧
      (sequenced.takeAt 0).mode = .sequence ∧ (∀ k : Fin 4, (sequenced.lanes.get k).state ≠ .attached) ∧
      sequenced.seq.ahead sequenced.sampler.intervalExp sequenced.intervalTime = false ∧
      sequenced.seq.maxDue sequenced.sampler.intervalExp (intervalBefore sequenced.sampler.intervalExp sequenced.intervalTime) = false ∧
      sequenced.staging.overflow = false ∧ sequenced.staging.fill + 8 ≤ 4096 ∧
      (sequenced.seq.evaluate 0 false sequenced.intervalTime (sequenced.presented 0) (~~~sequenced.unknownNow)).outs = [] ∧
      (sequenced.seq.evaluate 0 false sequenced.intervalTime (sequenced.presented 1) (~~~sequenced.unknownNow)).outs = [.fire sequenced.seq.stage] := by
  unfold State.ready State.settled State.quiet
  decide +kernel
/-- R99, spec/05, 5.12: ENTER on a full stack discards the oldest entry; RETURN on an empty one enters stage 0. -/
theorem test_stack_at_its_ends :
    ({ Sequencer.reset with stack := [13, 12, 11] } : Sequencer).push 14 = { Sequencer.reset with stack := [14, 13, 12], stackLost := true } ∧
      ((Sequencer.reset.act 0 false 10 .ret 5 0).seq.stackEmpty = true ∧ (Sequencer.reset.act 0 false 10 .ret 5 0).seq.stage = 0) := by decide
/-- R96: a count reached at exactly the minimum is met, one tick before it is early. -/
theorem test_window_minimum :
    let q : Sequencer := { Sequencer.reset with stages := [⟨[.pattern 1 1], false, 1, 100, 400, .fire, 0, 0, .next, 0, .next, 0, false, none⟩] }
    q.early 99 = true ∧ q.early 100 = false := by decide
theorem test_witness_SetMatchWrites :
    (⟨7, 1, 3, 7, 2 ^ 32 - 1, 2 ^ 32 - 1, 1⟩ : SetMatchP).valid = true ∧ (⟨7, 0, 9, 9, 0, 0, 9⟩ : SetMatchP).valid = true ∧ part.slots.length = 8 ∧
      (part.lanes.get 3).atWork = false ∧ (part.slots.getD 7 MatchSlot.reset).enabled = false ∧ { Lane.reset with state := .held }.atWork = true := by decide +kernel
theorem test_witness_SlotRelation : ∃ f : Field, [f][({ MatchSlot.reset with index := 0 } : MatchSlot).index]? = some f ∧ f.tag = .complete :=
  ⟨⟨.complete, 8, 5, false, false, false, 0⟩, rfl, rfl⟩

/-- SET LANE of an ASYNC lane at the ends of its ranges. -/
def asyncP : SetLaneP := ⟨3, 1, 0, 31, 0, 0, [1, 16777216, 9, 2, 2, 255], 127, 0x2000, 65536, 2 ^ 32 - 1, 65536⟩

theorem test_witness_SetLaneConfigures : asyncP.valid = true ∧ ({ asyncP with kind := 0 } : SetLaneP).valid = true ∧ (part.lanes.get 3).atWork = false ∧
    { Lane.reset with state := .attached }.atWork = true := by decide +kernel

/-- A lane held in live work with no open frame, and one attached with a ring. -/
def heldLane : Lane := { Lane.reset with state := .held, attached := 5, capacity := 64, ringAddr := 0x2000 }
def liveLane : Lane :=
  { heldLane with
    state := .attached
    config := ⟨.async true 8 8 .none 1 1, true, 0, 0, none⟩
    dec := { Decoder.reset with inFrame := true, measure := some 200 } }

theorem test_witness_SnapshotAndResume :
    (part.lanes.get 3).dec.stack.length ≤ 8 ∧ (⟨3, 127, 127⟩ : ResumeLaneP).valid = true ∧ part.replay.running = false ∧ part.quiet ∧
      (part.lanes.get 3).state = .off ∧ liveLane.state ≠ .off ∧ liveLane.state ≠ .held ∧ heldLane.state = .held ∧ heldLane.heldReplay = false ∧
      heldLane.dec.inFrame = false := by
  unfold State.quiet
  decide +kernel
theorem test_witness_RecordGoesToRing :
    liveLane.suspended = false ∧ liveLane.pendingRecs = [] ∧ (List.replicate 64 (0 : Word64)).length ≤ liveLane.freeUnits ∧ 0 < liveLane.capacity ∧
      liveLane.written.toNat + 64 < 2 ^ 32 ∧ liveLane.ringAddr + 8 * liveLane.capacity ≤ 2 ^ 64 ∧
      liveLane.freeUnits < (List.replicate 65 (0 : Word64)).length ∧ liveLane.lost < 2 ^ 32 := by decide +kernel
theorem test_witness_FrameIdleClosesFrame :
    let s : State := { capturing .pretrig with lanes := { part.lanes with n3 := liveLane } }
    s.ready ∧ s.quiet ∧ (s.lanes.get 3).state = .attached ∧ s.laneIdles 3 = true ∧ s.seq.state ≠ .running := by
  unfold State.ready State.settled State.quiet
  decide +kernel

/-- ARM of channels 0..7, at the ends of its ranges. -/
def armP : ArmP := ⟨0xFF, 20, 4096, 4095, 2, 1, 65535⟩

theorem test_witness_ArmRefusals :
    armP.valid = true ∧ ({ armP with mode := 0 } : ArmP).valid = true ∧ (capturing .waiting).capIndex.isSome = true ∧ part.capIndex.isSome = false ∧
      part.seq.serving ≠ .search ∧ (∀ e ∈ stored.takes.entries, e.state ≠ .empty) ∧ stored.capIndex.isSome = false ∧
      ¬ (∀ e ∈ part.takes.entries, e.state ≠ .empty) ∧ ({ part.pool with free := [1] } : Pool).freeCount < 2 ∧ 2 ≤ part.pool.freeCount ∧
      podIn 0 (BitVec.ofNat 32 armP.channels) = true ∧ (State.reset.pods.get 0).power = .off ∧ part.seq.state = .unloaded ∧
      (∀ q : Fin 4, (part.pods.get q).power ≠ .off ∧ (part.pods.get q).latch = false) := by decide +kernel
theorem test_witness_Arm_tables : part.tablesSized := ⟨rfl, rfl, rfl, rfl⟩
theorem test_witness_ArmWaitsForPods :
    armAccepted { part with pods := Four.all { Pod.reset with power := .watch } } armP 0 ∧
      (∃ q : Fin 4, podIn q (BitVec.ofNat 32 armP.channels) = true ∧ (({ part with pods := Four.all { Pod.reset with power := .watch } } : State).pods.get q).power = .watch) := by
  unfold armAccepted
  decide +kernel
theorem test_witness_ArmStartsCapture :
    armAccepted part armP 0 ∧ armAccepted { part with seq := { Sequencer.reset with state := .loaded } } { armP with mode := 0 } 0 ∧ podsHealthy part ∧
      (∀ q : Fin 4, podIn q (BitVec.ofNat 32 armP.channels) = true → (part.pods.get q).power = .on) ∧ part.pool.free = [100, 101, 102] := by
  refine ⟨by unfold armAccepted; decide +kernel, by unfold armAccepted; decide +kernel, ?_, by decide +kernel, rfl⟩
  intro p
  refine ⟨?_, fun src => ?_⟩
  · match p with | 0 => rfl | 1 => rfl | 2 => rfl | 3 => rfl
  · match p with | 0 => cases src <;> rfl | 1 => cases src <;> rfl | 2 => cases src <;> rfl | 3 => cases src <;> rfl

/-- A staged record of take 5. -/
def staged : Staged := ⟨⟨10, .change 1⟩, 10, 5⟩

theorem test_witness_StopEndsTake :
    part.capIndex = none ∧
      (let s : State := { capturing .pretrig with staging := { Staging.reset with records := [staged] } }
       s.capIndex = some 0 ∧ (s.takeAt 0).sampling = true ∧ (s.takeAt 0).endReason = none ∧ (∀ k : Fin 4, (s.lanes.get k).attached = 0) ∧
         s.staging.records ≠ [] ∧ s.placesLeft ≠ 0) := by decide +kernel
theorem test_witness_ForceTriggers :
    part.capIndex = none ∧ (capturing .waiting).capIndex = some 0 ∧ ((capturing .waiting).takeAt 0).state = .waiting ∧
      ((capturing .posttrig).takeAt 0).state = .posttrig ∧ ({ take5 .pretrig with endReason := some .stopped } : Take).endReason.isSome = true ∧
      (capturing .pretrig).capIndex = some 0 ∧ ((capturing .pretrig).takeAt 0).state = .pretrig ∧ ((capturing .pretrig).takeAt 0).endReason = none := by
  decide +kernel
theorem test_witness_TakeStatusAndRelease :
    part.capIndex = none ∧ part.takeIndex 255 = none ∧ (capturing .pretrig).capIndex = some 0 ∧ stored.takeIndex 5 = some 0 ∧
      ((capturing .pretrig).takeAt 0).capturing = true ∧ (take5 .releasing).state = .releasing ∧ (stored.takeAt 0).state = .ended ∧
      stored.replay.running = false ∧ stored.exporter.queue = [] ∧ stored.render.order = none := by decide +kernel

/-- The stored take RELEASING with one block, and with two. -/
def releasing1 : State := { stored with takes := { TakeTable.reset with entries := [{ take5 .releasing with sealedCount := 1 }] } }
def releasing2 : State := { stored with takes := { TakeTable.reset with entries := [{ take5 .releasing with sealedCount := 2 }] } }

theorem test_witness_BlockFreedGoesToTail :
    releasing1.takeIndex 5 = some 0 ∧ releasing1.freeable 0 = some 7 ∧ 0 < releasing1.takes.entries.length ∧ (releasing1.takeAt 0).sealedCount = 1 ∧
      releasing2.takeIndex 5 = some 0 ∧ releasing2.freeable 0 = some 7 ∧ 1 < (releasing2.takeAt 0).sealedCount := by decide +kernel
theorem test_witness_SampleIntervalFormsChange :
    part.sampler.state = .idle ∧
      (let s := capturing .pretrig
       s.quiet ∧ s.sampler.state = .sampling ∧ recordsOnly s ∧ s.recordingIndex = some 0 ∧ (s.takeAt 0).mode ≠ .immediate ∧ s.staging.overflow = false ∧
         s.staging.fill + 2 ≤ 4096) := by
  unfold State.quiet recordsOnly
  decide +kernel

theorem test_witness_SampleIntervalFormsChange_discards :
    let s : State := { capturing .pretrig with staging := { Staging.reset with overflow := true } }
    s.quiet ∧ s.sampler.state = .sampling ∧ recordsOnly s ∧ s.recordingIndex = some 0 ∧ (s.takeAt 0).mode ≠ .immediate ∧ s.staging.overflow = true := by
  unfold State.quiet recordsOnly
  decide +kernel
theorem test_witness_SampleIntervalFormsChange_resumes :
    let s : State := { capturing .pretrig with sampler := { (capturing .pretrig).sampler with state := .waking } }
    s.quiet ∧ s.sampler.state = .waking ∧ s.resumes = true ∧ podsHealthy s ∧ recordsOnly s ∧ s.recordingIndex = some 0 ∧
      (s.takeAt 0).mode ≠ .immediate ∧ s.staging.overflow = false ∧ s.staging.fill + 4 ≤ 4096 := by
  refine ⟨by unfold State.quiet; decide +kernel, by decide +kernel, by decide +kernel, ?_, by unfold recordsOnly; decide +kernel, by decide +kernel⟩
  exact test_witness_ArmStartsCapture.2.2.1

/-- The sampler of a capture as its idle timer runs out, and in WATCH. -/
def idleOut : State := { capturing .pretrig with sampler := { (capturing .pretrig).sampler with idleTimer := some 200 } }
def watching : State := { capturing .pretrig with sampler := { (capturing .pretrig).sampler with state := .watch } }

theorem test_witness_WatchAndWake :
    part.idleExpired = false ∧ idleOut.recordingIndex = some 0 ∧ idleOut.staging.overflow = false ∧ idleOut.staging.fill + 2 ≤ 4096 ∧
      idleOut.idleExpired = true ∧ watching.recordingIndex = some 0 ∧ watching.quiet ∧ watching.sampler.state = .watch ∧ watching.wakeChange 0x80 = true ∧
      recordsOnly watching := by
  unfold State.quiet recordsOnly
  decide +kernel

/-- The port grants the writer, and one record waits. -/
def draining : State :=
  { capturing .pretrig with
    staging := { Staging.reset with records := [staged] }
    pool := { (capturing .pretrig).pool with inFlight := some ⟨.writer, false, none, none⟩ } }

/-- The same with entry `t`, block `e` filling, block 6 sealed before it, and the free list `free`. -/
def drainingIn (t : Take) (e : Block) (free : List Nat) : State :=
  { draining with
    takes := { TakeTable.reset with entries := [t] }
    pool := { draining.pool with blocks := [(6, sealedBlock), (7, e)], free := free } }

/-- The filling block with one place left. -/
def nearlyFull : Block := { filling with seqNo := 1, records := ⟨0, .anchor 0⟩ :: List.replicate 16382 ⟨1, .change 1⟩ }

theorem test_witness_nearlyFull : nearlyFull.records.length + 1 = 16384 := by
  change (List.replicate 16382 _).length + 1 + 1 = 16384
  rw [List.length_replicate]
theorem test_witness_WriterDrainsOldest :
    writerGranted draining 0 7 filling staged [] ∧ (draining.takeAt 0).endReason = none ∧ draining.staging.overflow = false ∧
      filling.records.length + 2 < 16384 ∧ filling.records ≠ [] ∧
      writerGranted (drainingIn (take5 .pretrig) { filling with records := [] } []) 0 7 { filling with records := [] } staged [] ∧
      staged.record.body.isAnchor = false := by
  unfold writerGranted
  decide +kernel
/-- In POSTTRIG: at depth, with no free block, and with one to acquire. -/
theorem test_witness_WriterDrainsOldest_posttrig :
    let s : State := drainingIn { take5 .posttrig with sealedCount := 3 } nearlyFull []
    let u : State := drainingIn { take5 .posttrig with sealedCount := 1 } nearlyFull [100, 101]
    writerGranted s 0 7 nearlyFull staged [] ∧ (s.takeAt 0).endReason = none ∧ s.staging.overflow = false ∧ s.render.order = none ∧
      (s.takeAt 0).state = .posttrig ∧ (∀ k : Fin 4, (s.lanes.get k).attached = 0) ∧ (s.takeAt 0).depth ≤ (s.takeAt 0).sealedCount + 1 ∧ s.pool.free = [] ∧
      writerGranted u 0 7 nearlyFull staged [] ∧ (u.takeAt 0).sealedCount + 1 < (u.takeAt 0).depth ∧ u.pool.free = 100 :: [101] ∧
      u.pool.block 100 = none := by
  refine ⟨⟨rfl, by decide +kernel, by decide +kernel, rfl, rfl, rfl⟩, by decide +kernel, by decide +kernel, by decide +kernel, by decide +kernel,
    by decide +kernel, by decide +kernel, rfl, ⟨rfl, by decide +kernel, by decide +kernel, rfl, rfl, rfl⟩, by decide +kernel, rfl, rfl⟩
/-- In PRETRIG: within the share, past it, and with no free block. -/
theorem test_witness_WriterDrainsOldest_pretrig :
    let s : State := drainingIn { take5 .pretrig with sealedCount := 1, share := 2 } nearlyFull [100]
    let u : State := drainingIn { take5 .pretrig with sealedCount := 1 } nearlyFull [100]
    let v : State := drainingIn { take5 .pretrig with sealedCount := 1, share := 2 } nearlyFull []
    writerGranted s 0 7 nearlyFull staged [] ∧ (s.takeAt 0).state = .pretrig ∧ (s.takeAt 0).sealedCount + 1 ≤ (s.takeAt 0).share ∧
      s.pool.free = 100 :: [] ∧ s.pool.block 100 = none ∧
      writerGranted u 0 7 nearlyFull staged [] ∧ (u.takeAt 0).share < (u.takeAt 0).sealedCount + 1 ∧ u.frontBlock 0 = some 6 ∧
      u.pool.block 6 = some sealedBlock ∧ sealedBlock.revocable = false ∧ u.pool.free ++ [6] = 100 :: [6] ∧ u.pool.block 100 = none ∧
      writerGranted v 0 7 nearlyFull staged [] ∧ v.pool.free = [] ∧ v.frontBlock 0 = some 6 ∧ v.pool.free ++ [6] = 6 :: [] := by
  refine ⟨⟨rfl, by decide +kernel, by decide +kernel, rfl, rfl, rfl⟩, by decide +kernel, by decide +kernel, rfl, rfl,
    ⟨rfl, by decide +kernel, by decide +kernel, rfl, rfl, rfl⟩, by decide +kernel, by decide +kernel, rfl, rfl, rfl, rfl,
    ⟨rfl, by decide +kernel, by decide +kernel, rfl, rfl, rfl⟩, rfl, by decide +kernel, rfl⟩
theorem test_witness_WriterDrainsOldest_recovers :
    let s : State := { draining with staging := { draining.staging with overflow := true, lost := 9, triggerInLoss := true, changedPods := 3 } }
    writerGranted s 0 7 filling staged [] ∧ (s.takeAt 0).endReason = none ∧ s.staging.overflow = true ∧ ([] : List Staged).length ≤ 2047 ∧
      podsHealthy s ∧ filling.records ≠ [] := by
  refine ⟨by unfold writerGranted; decide +kernel, by decide +kernel, by decide +kernel, by decide, test_witness_ArmStartsCapture.2.2.1, by decide⟩
theorem test_witness_WriterDrainsOldest_ending :
    let s : State := drainingIn { take5 .posttrig with endReason := some .stopped } filling []
    writerGranted s 0 7 filling staged [] ∧ (s.takeAt 0).endReason.isSome = true ∧ s.staging.overflow = false ∧ (s.takeAt 0).state = .posttrig ∧
      s.render.order = none ∧ filling.records.length + 1 < 16384 := by
  unfold writerGranted
  decide +kernel

/-- A take that is ending with nothing left to drain or settle. -/
def settledEnd : State :=
  { capturing .posttrig with
    takes := { TakeTable.reset with entries := [{ take5 .posttrig with endReason := some .filled, armOrder := some o }] }
    writer := ⟨none, 0⟩ }

theorem test_witness_TakeEndsCompletesArm :
    settledEnd.capIndex = some 0 ∧ 0 < settledEnd.takes.entries.length ∧ settledEnd.readyToEnd 0 = true ∧ (settledEnd.takeAt 0).armOrder = some o ∧
      (settledEnd.takeAt 0).stops = [] ∧ settledEnd.render.order = none ∧ settledEnd.recordClear o .arm 6 := by
  unfold State.recordClear
  decide +kernel

/-- REPLAY of the stored take over its whole span for lane 0. -/
def replayP : ReplayP := ⟨5, 0, 2 ^ 56 - 1, 1, 0, 0⟩
def replayable : State := { stored with lanes := { part.lanes with n0 := { Lane.reset with state := .idle } } }

theorem test_witness_ReplayStarts_laneBusy : stored.replay.running = false ∧
    ∃ k : Fin 4, (BitVec.ofNat 4 replayP.lanes).getLsbD k.val = true ∧ (stored.lanes.get k).state ≠ .idle := ⟨rfl, 0, by decide +kernel⟩
theorem test_witness_ReplayStarts :
    replayP.valid = true ∧ (∀ i, part.takeIndex 5 = some i → (part.takeAt i).state ≠ .ended) ∧ replayable.takeIndex 5 = some 0 ∧
      (replayable.takeAt 0).state = .ended ∧ ({ Replay.reset with running := true } : Replay).running = true ∧ replayable.replay.running = false ∧
      (∀ k : Fin 4, (BitVec.ofNat 4 replayP.lanes).getLsbD k.val = true → (replayable.lanes.get k).state = .idle) ∧
      replayable.recordedSpan (replayable.takeAt 0) = some (0, 200) ∧ ({ replayP with rangeStart := 201 } : ReplayP).valid = true ∧
      min ({ replayP with rangeStart := 201 } : ReplayP).rangeEnd 200 < 201 ∧ max replayP.rangeStart 0 ≤ min replayP.rangeEnd 200 := by
  refine ⟨by decide, ?_, by decide +kernel⟩
  have h : part.takeIndex 5 = none := by decide +kernel
  rw [h]
  intro i hi
  cases hi

/-- The engine within its range, everything read. -/
def feeding : State :=
  { replayable with replay := { Replay.reset with running := true, phase := .feeding, order := some o, takeId := 5, last := 200, lanes := 1, readCount := 3 } }

theorem test_witness_ReplayIntervalHandsNext :
    feeding.ready ∧ feeding.replayReady = true ∧ feeding.dueNotice = none ∧ feeding.searchRuns = false ∧
      feeding.replay.nextInterval + 2 ^ feeding.replayTake.intervalExp ≤ feeding.replayLastInterval := by
  unfold State.ready State.settled
  decide +kernel

/-- EXPORT of one block, with one order running, and with four. -/
def job : ExportJob := ⟨o, 5, 0, 1, 0x8000, 8⟩
def exporting (n : Nat) : State := { stored with exporter := { Exporter.reset with queue := List.replicate n job, held := some 7 } }

theorem test_witness_ExportJoinsQueue :
    4 ≤ (exporting 4).exporter.queue.length ∧ (exporting 3).exporter.queue.length < 4 ∧
      (⟨5, 0, 4096, 0x8000, 2 ^ 40⟩ : ExportP).valid = true ∧ (exporting 3).takeIndex 5 = some 0 ∧ ((exporting 3).takeAt 0).state = .ended ∧
      ((exporting 3).takeAt 0).blockOffset 0 < ((exporting 3).takeAt 0).sealedCount ∧ (exporting 3).exporter.queue ≠ [] ∧
      (exporting 3).exporter.held.isSome = true := by decide +kernel
theorem test_witness_ExportJoinsQueue_empty :
    stored.exporter.queue = [] ∧ stored.staleAccess .exporter = false ∧ stored.pool.find 5 0 = some 7 ∧ stored.pool.blockOf 5 0 = some sealedBlock ∧
      stored.pool.block 7 = some sealedBlock ∧ 32 + 8 * sealedBlock.records.length ≤ 2 ^ 40 ∧ burstClear stored 0x8000 4 := by
  unfold burstClear
  decide +kernel

/-- A sealed block of 65 records, read by the export engine. -/
def longBlock : Block := { sealedBlock with records := List.replicate 65 ⟨1, .change 1⟩, holdCount := 1 }
def bursting : State :=
  { exporting 1 with pool := { stored.pool with blocks := [(7, longBlock)], inFlight := some ⟨.exporter, false, none, none⟩ } }

theorem test_witness_ReaderAccessCompletes :
    bursting.pool.block 7 = some longBlock ∧ bursting.granted .exporter = true ∧ bursting.staleAccess .exporter = false ∧
      (∀ g, bursting.pool.inFlight = some g → g.drops = none ∧ g.frees = none) ∧ bursting.exporter.queue = [job] ∧ bursting.exporter.held = some 7 ∧
      bursting.exporter.index + 64 < longBlock.records.length ∧ burstClear bursting 0x8020 64 := by
  refine ⟨by decide +kernel, by decide +kernel, by decide +kernel, ?_, rfl, rfl, by decide +kernel, by unfold burstClear; decide +kernel⟩
  intro g hg
  cases hg
  exact ⟨rfl, rfl⟩
theorem test_witness_ReaderAccessCompletes_stale :
    let s : State := { stored with pool := { stored.pool with inFlight := some ⟨.replay, true, some 7, none⟩ } }
    s.pool.block 7 = some sealedBlock ∧ s.pool.inFlight = some ⟨.replay, true, some 7, none⟩ ∧ s.replay.running = false := by decide +kernel

/-- The last burst of the run's last block, at the last record of a burst; and with a block behind it. -/
def lastBurst : State := { bursting with exporter := { bursting.exporter with index := 1, queue := [{ job with count := 1 }] } }
def moreToCopy : State :=
  { lastBurst with
    exporter := { lastBurst.exporter with queue := [{ job with count := 2, capacity := 1024 }] }
    pool := { bursting.pool with blocks := [(7, longBlock), (8, { sealedBlock with seqNo := 1 })] } }

theorem test_witness_ReaderAccessCompletes_lastBurst :
    lastBurst.pool.inFlight = some ⟨.exporter, false, none, none⟩ ∧ lastBurst.exporter.queue = [{ job with count := 1 }] ∧ lastBurst.exporter.held = some 7 ∧
      lastBurst.exporter.index ≤ longBlock.records.length ∧ longBlock.records.length ≤ lastBurst.exporter.index + 64 ∧ burstClear lastBurst 0x8028 64 ∧
      lastBurst.exporter.copied + 1 = ({ job with count := 1 } : ExportJob).count ∧ lastBurst.exporter.nextSeq < 2 ^ 32 ∧
      lastBurst.recordClear o .exportOrder 3 ∧ resultAddr o.addr .exportOrder + 24 ≤ 0x8028 := by
  unfold burstClear State.recordClear
  decide +kernel
theorem test_witness_ReaderAccessCompletes_nextBlock :
    let j : ExportJob := { job with count := 2, capacity := 1024 }
    moreToCopy.exporter.queue = [j] ∧ moreToCopy.exporter.copied + 1 < j.count ∧ moreToCopy.pool.find j.takeId 1 = some 8 ∧
      moreToCopy.pool.blockOf j.takeId 1 = some { sealedBlock with seqNo := 1 } ∧ moreToCopy.pool.block 8 = some { sealedBlock with seqNo := 1 } ∧
      (32 + 8 * longBlock.records.length) + 32 + 8 * sealedBlock.records.length ≤ j.capacity ∧ burstClear moreToCopy (0x8000 + (32 + 8 * 65)) 4 := by
  unfold burstClear
  decide +kernel
theorem test_witness_ReaderAccessCompletes_replay :
    let s : State := { feeding with
      replay := { feeding.replay with readCount := 0, held := some 7 }
      pool := { feeding.pool with blocks := [(7, longBlock)], inFlight := some ⟨.replay, false, none, none⟩ } }
    s.pool.block 7 = some longBlock ∧ s.replay.held = some 7 ∧ s.replay.phase = .feeding ∧
      s.replay.readCount + 64 < recordsBefore (s.sealedBlocks s.replayTake) longBlock.seqNo + longBlock.records.length := by decide +kernel

/-- The renderer in the midst of a block, with a window beyond it. -/
def reading (scans : Bool) : State :=
  { stored with
    pool := { stored.pool with blocks := [(7, longBlock)], inFlight := some ⟨.renderer, false, none, none⟩ }
    render := { Renderer.reset with order := some o, state := .building, takeId := 5, held := some 7, scanning := scans, cols := 16, width := 1000 } }

theorem test_witness_ReaderAccessCompletes_renderer :
    (reading true).pool.block 7 = some longBlock ∧ (reading true).render.order.isSome = true ∧ (reading true).render.state = .building ∧
      (reading true).render.held = some 7 ∧ (reading true).render.index + 64 < longBlock.records.length ∧ (reading true).render.scanning = true ∧
      (scanNotes .plain noNotes ((longBlock.timed 0).take 64)).full = false ∧ (reading false).render.scanning = false ∧
      ({ (reading false).render.cur with records := (longBlock.timed 0).take 64 } : RenderPart).limit 0 ≤ (reading false).render.winLast := by decide +kernel

/-- RENDER of the capturing take, which has a sealed block. -/
def renderP : RenderP := ⟨0, 0, 1, 16, 1, [0], 0x4000, 0x5000⟩
def rendering : State :=
  { capturing .pretrig with
    takes := { TakeTable.reset with entries := [{ take5 .pretrig with sealedCount := 1 }] }
    pool := { part.pool with blocks := [(7, sealedBlock)] }
    writer := ⟨none, 0⟩ }

theorem test_witness_RenderStartsGeneration :
    renderP.valid = true ∧ rendering.capIndex = some 0 ∧ rendering.takeIndex (rendering.takeAt 0).id = some 0 ∧ rendering.render.order = none ∧
      ({ rendering with panel := { Panel.reset with shown := some 0x4000 } } : State).panelHas 0x4000 = true ∧ rendering.panelHas 0x4000 = false ∧
      rendering.panelHas 0x5000 = false ∧ rendering.render.held = none ∧ rendering.pool.inFlight = none ∧ rendering.frontBlock 0 = some 7 ∧
      rendering.pool.block 7 = some sealedBlock ∧ 1 ≤ (rendering.takeAt 0).sealedCount ∧ (rendering.takeAt 0).firstSeq + (rendering.takeAt 0).sealedCount ≤ 2 ^ 32 := by
  decide +kernel

/-- The panel SCANNING. -/
def scanning : State := { part with panel := { Panel.reset with scanning := true } }

theorem test_witness_ShowMakesTablePending :
    usableAddr (2 ^ 64 - 8) = true ∧ part.panel.scanning = false ∧ scanning.panel.scanning = true ∧
      (let s : State := { scanning with render := { Renderer.reset with order := some o, live := true } }
       s.panel.scanning = true ∧ s.render.order.isSome = true ∧ s.render.live = true) ∧
      scanning.render.order = none ∧ scanning.panel.waitingShow = none := by decide +kernel
theorem test_witness_SetPanelStagesOrSwitches :
    (⟨1, 8, 65536, 799, 1, 0, [], []⟩ : SetPanelP).valid = true ∧ (⟨0, 8, 1600, 0, 800, 0, [], []⟩ : SetPanelP).valid = true ∧
      scanning.panel.scanning = true ∧ scanning.panel.waitingShow = none ∧ scanning.render.state ≠ .waitingFrame ∧ part.panel.scanning = false ∧
      part.panel.staged = none ∧ part.panel.pendingTable = none := by decide +kernel
theorem test_witness_FrameStartShowsPending :
    part.render.state ≠ .waitingFrame ∧ part.frameDue = false ∧ scanning.frameDue = true ∧ scanning.panel.waitingShow = none ∧
      (let s : State := { scanning with panel := { scanning.panel with waitingShow := some o, pendingTable := some (0x4000, true) } }
       s.frameDue = true ∧ s.panel.waitingShow = some o ∧ s.panel.pendingTable = some (0x4000, true)) := by decide +kernel
theorem test_witness_StageReportCatchesUp :
    let s : State := { part with tick := 10000, report := { Report.reset with stageWritten := some 0 } }
    s.ready ∧ s.report.stageWritten = some 0 ∧ 10000 ≤ ticksFrom 0 s.tick := by
  unfold State.ready State.settled
  decide +kernel
theorem test_witness_FailedAccesses :
    let s : State := { stored with disp := running }
    s.quiet ∧ s.disp.state = .idle ∧ (4096 - s.disp.consumed).toNat ≤ 4096 ∧ s.takeIndex 5 = some 0 := by
  unfold State.quiet
  decide +kernel

/-! ## Gap spans, watch spans and lanes of a stream with losses (R154, R165, R167, R168) -/

/-- An older watch with its WAKE, a CHANGE after it, then a loss with the present watch's WATCH in it. -/
def lostWatch : List TimedRec :=
  [⟨10, .change 1⟩, ⟨20, .watch⟩, ⟨30, .wake 1⟩, ⟨40, .gap 0 true false 0⟩, ⟨40, .anchor 40⟩, ⟨40, .change 1⟩, ⟨60, .gap 5 false false 0⟩]

/-- The present watch's MARK FIRE, not the older WAKE, begins the span; with the trigger flag set, or with no MARK, the last record before the GAP does. -/
theorem test_span_of_a_watch_whose_WATCH_is_lost :
    (gapSpans 0 0 (lostWatch ++ [⟨70, .mark 0 false⟩, ⟨80, .gap 0 true false 0⟩])).getLast? = some ⟨71, 80, true⟩ ∧
      (gapSpans 0 0 (lostWatch ++ [⟨70, .mark 0 false⟩, ⟨80, .gap 0 true true 0⟩])).getLast? = some ⟨70, 80, true⟩ ∧
      (gapSpans 0 0 (lostWatch ++ [⟨80, .gap 0 true false 0⟩])).getLast? = some ⟨60, 80, true⟩ := by decide +kernel
/-- Nor does the WAKE before the loss begin the span where no CHANGE follows it: the watch that the MARK FIRE ended had none (R55). -/
theorem test_span_behind_a_fire_and_an_older_wake :
    (gapSpans 0 0 [⟨10, .change 1⟩, ⟨20, .watch⟩, ⟨30, .wake 1⟩, ⟨60, .gap 5 false false 0⟩, ⟨70, .mark 0 false⟩, ⟨80, .gap 0 true false 0⟩]).getLast? =
      some ⟨71, 80, true⟩ := by decide +kernel
/-- A MARK FIRE behind a loss keeps the columns after it back until the GAP of reason WAKE is read; one behind a CHANGE does not. -/
theorem test_limit_behind_a_fire :
    (RenderPart.mk 0 false noFaults (lostWatch ++ [⟨70, .mark 0 false⟩, ⟨75, .frameOpen 0⟩])).limit 0 = 71 ∧
      (RenderPart.mk 0 false noFaults [⟨10, .change 1⟩, ⟨20, .mark 0 false⟩, ⟨75, .frameOpen 0⟩]).limit 0 = 75 := by decide +kernel
/-- A watch ended by a trigger whose MARK FIRE was lost ends at the GAP that carries the trigger flag; without the flag it goes on. -/
theorem test_watch_ends_at_the_gap_of_its_trigger :
    WatchPhase.watching.next (.gap 5 false true 0) = .off ∧ WatchPhase.watching.next (.gap 5 false false 0) = .watching := by decide +kernel
/-- A lane that inserts a record is no longer silent in the take, and the other lanes are. -/
theorem test_a_frame_record_ends_the_silence :
    let s : State := { part with takes := { part.takes with entries := [{ Take.reset with id := 5, state := .pretrig }] } }
    (((s.insertFrame 2 0 (.frameOpen 2)).takeAt 0).silentLanes = 0b1011) := by decide +kernel


/-! ## Start edges, cleared flags, page writes, revoked ticks, the last interval of a search (R116, R132, R193, R169, R97) -/

/-- One interval of one tick of an ASYNC lane of idle level HIGH, bit time 4 and no parity. -/
def asyncTick (t : Tick) (level : Bool) (d : Decoder) : DecStep := asyncInterval true 4 8 .none 1 2 ⟨0, t, level, false, false, false⟩ d
/-- The decoder past a start edge at tick 10. -/
def edged : DecStep := asyncTick 10 false { Decoder.reset with armed := true }

/-- The start edge opens the frame in its own interval; a start bit that reads idle leaves none, and one that reads active goes on in it. -/
theorem test_frame_opens_at_its_start_edge :
    (edged.outs = [.opened] ∧ edged.dec.inFrame = true ∧ edged.dec.frameStart = 10) ∧
      ((asyncTick 12 true edged.dec).outs = [] ∧ (asyncTick 12 true edged.dec).dec.inFrame = false) ∧
      ((asyncTick 12 false edged.dec).outs = [] ∧ (asyncTick 12 false edged.dec).dec.inFrame = true) := by decide +kernel
/-- An accepted SET LANE of kind NONE clears the sticky flags. -/
theorem test_set_lane_none_clears_flags : (({ Lane.reset with sticky := 5 } : Lane).configured { asyncP with kind := 0 }).sticky = 0 := by decide +kernel

/-- The dispatcher in IDLE, the page in memory as it should be. -/
def paged : State := { part with disp := running, pods := Four.all Pod.reset }.imaged

/-- An accepted nudge writes the posted count seen though it is as before, so that the write can fail; a step that hands nothing over writes nothing. -/
theorem test_nudge_writes_the_posted_count :
    (match exec (.sharedMemoryAccessFailure .reportPage 0 (.nudge 0 [])) paged with | .next t => t.disp.state == .halted | _ => false) = true ∧
      (match exec (.sharedMemoryAccessFailure .reportPage 0 (.frameStart [])) paged with | .next t => t.disp.state == .idle | _ => false) = true := by
  decide +kernel

/-- The capture run in its gap span, with a POD FAULT event of the present interval; `formed` is the interval formed last. -/
def inGapSpan (formed : Option Tick) (evaluated : Tick) : State :=
  { windowed with
    sampler := { windowed.sampler with state := .waking, formedAt := formed }
    seq := { windowed.seq with
      inGap := true
      events := ⟨[], 1⟩
      evaluated := some ⟨evaluated, 0, 0, 0, 0, false, SeqEvents.none, false⟩
      stages := [⟨[.podFault 0], false, 1, 0, 10, .next, 3, 0, .next, 0, .next, 5, false, none⟩] } }

/-- Ahead of its SAMPLE_INTERVAL an interval of WAKING keeps its event and judges no maximum, for sampling may resume in it; once it is formed the event is
dropped and the maximum is late; in the interval of the wake sample the event meets the stage (R53, R54, R92, R93, R97, R98). -/
theorem test_events_and_maxima_of_waking :
    ((inGapSpan none 190).seqFlush.seq.events = ⟨[], 1⟩ ∧ (inGapSpan none 190).seqPassed = false ∧ (inGapSpan none 190).seqMaximum.seq.stage = 0) ∧
      ((inGapSpan (some 200) 190).seqFlush.seq.events = SeqEvents.none ∧ (inGapSpan (some 200) 190).seqMaximum.seq.stage = 5) ∧
      (inGapSpan none 200).seqFlush.seq.stage = 3 := by decide +kernel

/-- A fill that becomes 0 or 4,096 is handed over though the page shows it already; so is a difference of 256, and nothing else (R56). -/
theorem test_fill_is_handed_at_its_ends :
    (Report.reset.handFill 1 0).handed = [unitCapture] ∧ (Report.reset.handFill 0 1).handed = [] ∧ (Report.reset.handFill 0 0).handed = [] ∧
      (Report.reset.handFill 255 256).fill = 256 ∧ (({ Report.reset with fill := 4096 } : Report).handFill 4095 4096).handed = [unitCapture] := by
  decide +kernel

/-- A ring seal leaves the sealed count and the free count as they were, and hands over both (R58, R60, R84). -/
theorem test_a_ring_seal_hands_the_counts :
    let s := drainingIn { take5 .pretrig with sealedCount := 1 } filling [100]
    let u := s.sealFull 0 7
    (u.takeAt 0).sealedCount = (s.takeAt 0).sealedCount ∧ u.pool.freeCount = s.pool.freeCount ∧ u.report.handed = [unitCapture, unitFree, unitFree] := by
  decide +kernel

/-- A generation that reads the front block, of ticks 100 to 200, of a live take whose next block starts at tick 300. -/
def frontHeld : State :=
  let block (seq first last : Nat) : Block :=
    { sealedBlock with seqNo := seq, firstTick := BitVec.ofNat 56 first, lastTick := BitVec.ofNat 56 last, holdCount := 1 - seq, revocable := seq == 0 }
  { capturing .pretrig with
    takes := { TakeTable.reset with entries := [{ take5 .pretrig with sealedCount := 2 }] }
    pool := { part.pool with blocks := [(6, block 0 100 200), (7, block 1 300 400)] }
    render := { Renderer.reset with
      order := some o, state := .building, takeId := 5, held := some 6, reached := 100, span := some (100, 400), spanLastSeq := 1 } }

/-- The drop of the block loses its own ticks; those before the new front's first tick are unknown and not lost (R169). -/
theorem test_a_revocation_loses_the_ticks_of_its_block :
    let u := ((frontHeld.revoke 6).freeFront 0 6).renderPosition
    u.render.revoked = [(100, 200)] ∧ u.render.held = some 7 ∧ u.render.cur.start = 300 ∧ u.render.parts.map (fun p => p.start) = [0, 201] := by
  decide +kernel

/-- A search run in the last interval of its range, where its stage's maximum falls, with the relation of a frame that closed at the range end. -/
def searching (events : SeqEvents) : State :=
  { feeding with
    replay := { feeding.replay with search := true, capacity := 4, lastHanded := some 200, nextInterval := 201 }
    seq := { windowed.seq with
      serving := .search
      events := events
      stages := [⟨[.relation 0 0xF], false, 1, 0, 10, .fire, 0, 0, .next, 0, .next, 0, false, none⟩] } }

/-- The relation meets the stage there; without it the stage is late. -/
theorem test_the_range_end_meets_before_it_is_late :
    ((searching ⟨[(0, .equal)], 0⟩).searchFlush.searchSpan 0 200).replay.hits = [(200, 0)] ∧
      (((searching SeqEvents.none).searchFlush.searchSpan 0 200).replay.hits = [] ∧
        ((searching SeqEvents.none).searchFlush.searchSpan 0 200).seq.startTime = 201) := by decide +kernel

/-! ## A pause at a gap notice, a wake timer within an interval, a header over a state unit (R155, R54, R185) -/

/-- A gap span that passes the range's end is noticed with its maximum still to come, which the end of the range judges. -/
theorem test_the_notice_judges_no_maximum :
    let s := State.replayNotice { searching SeqEvents.none with replay := { (searching SeqEvents.none).replay with lastHanded := some 195, nextInterval := 196 } }
      ⟨196, 300, false⟩
    s.seq.startTime = 190 ∧ (s.searchSpan 0 200).seq.startTime = 201 := by decide +kernel

/-- A wake timer that runs out at tick 203, within the interval of 16 ticks that begins at 192. -/
def wokenAt (now : Tick) : State :=
  State.wakeOver
    { capturing .pretrig with
      tick := now
      pods := (part.pods).set 0 { Pod.reset with power := .watch, wakeTimer := some 203 }
      sampler := { (capturing .pretrig).sampler with state := .waking, intervalExp := 4 } } 0

/-- Sampling does not resume in that interval, and does in the next one. -/
theorem test_resumes_in_the_interval_after_the_expiry :
    (wokenAt 205).resumes = false ∧ ({ wokenAt 205 with tick := 208 } : State).resumes = true ∧ (wokenAt 209).resumes = true := by decide +kernel

/-- The kind of a record is read before the cursor is written RETIRED, here over that record's header: DONE reads as HALT, and RETIRED as SET ALERTS. -/
theorem test_header_is_read_before_the_cursor_retires :
    let m : Mem := Mem.hostStores [] [⟨0x5008, stateUnit stDone Outcome.ok.code⟩, ⟨0x5010, 0x5008⟩]
    let d : Dispatcher := { owing with posted := 2, consumed := 1, cursor := some 0x5000, cursorOutcome := some .ok }
    (match exec (.orderTake []) { part with disp := d, shared := m } with
      | .next t => t.disp.state == .halted && t.disp.consumed == 2
      | _ => false) = true := by decide +kernel

end Sys2Proof.Tests
end

section
/-! PROOFS. Scope (spec/00, R1): the part at power-on reset meets the invariants (O6), the tick count (O7), what the resets return (O8). -/

namespace Sys2Proof.Machine

/-! ## The part at power-on reset -/

/-- Every entry of the take table is EMPTY at reset, and so is what a look-up past its end answers (R66). -/
theorem reset_takeAt (i : Nat) : State.reset.takeAt i = Take.reset := by
  change (List.replicate 8 Take.reset).getD i Take.reset = Take.reset
  rw [List.getD_eq_getElem?_getD, List.getElem?_replicate]
  split <;> rfl

/-- No block has an entry at reset: all are FREE (R58). -/
theorem reset_block (b : Nat) : State.reset.pool.block b = none := rfl

theorem reset_ready : State.reset.ready := ⟨rfl, rfl⟩

/-- No block is owned at reset, and every one is on the free list (R58). -/
theorem reset_partitioned : State.reset.pool.partitioned := by
  have noneOwned : State.reset.pool.owned = [] := rfl
  have allFree : State.reset.pool.free = List.range Config.blockCount := by simp only [State.reset, Pool.reset]
  unfold Pool.partitioned
  rw [noneOwned, allFree, List.nil_append]

theorem reset_takesNamed : State.reset.takesNamed := by
  have notCapturing (i : Nat) : (State.reset.takeAt i).capturing ≠ true := by
    rw [reset_takeAt]
    decide
  refine ⟨rfl, fun i => ?_, fun i _ _ named => ?_, fun i _ captures _ => absurd captures (notCapturing i)⟩
  · rw [reset_takeAt]
    decide
  · rw [reset_takeAt] at named
    exact absurd rfl named

/-- Nothing is filling and nothing is sealed at reset, so that the clauses on owned blocks and on places of takes speak of none. -/
theorem reset_blocksPlaced : State.reset.blocksPlaced := by
  have noBlock {b : Nat} {e : Block} : State.reset.pool.block b ≠ some e := by simp [reset_block]
  have noPlace {i j : Nat} : ¬ j < (State.reset.takeAt i).sealedCount := by
    rw [reset_takeAt]
    exact Nat.not_lt_zero j
  have notFilling {b : Nat} : State.reset.writer.filling ≠ some b := nofun
  have notSampling {i : Nat} : (State.reset.takeAt i).sampling ≠ true := by
    rw [reset_takeAt]
    decide
  exact ⟨reset_partitioned, reset_takesNamed,
    fun _ _ owned => absurd owned noBlock,
    fun _ filling => absurd filling notFilling,
    fun _ _ owned => absurd owned noBlock,
    fun _ _ place => absurd place noPlace,
    fun _ samples => absurd samples notSampling⟩

theorem reset_tablesSized : State.reset.tablesSized := ⟨rfl, List.length_replicate, List.length_replicate, List.length_replicate⟩

/-- Settles O6: nothing is owned, named or in store at reset. -/
theorem invariantsAtReset : Obligations.InvariantsAtReset :=
  ⟨reset_ready, reset_partitioned, reset_blocksPlaced, reset_tablesSized, rfl⟩

/-! ## The commands of R1 -/

theorem exec_powerOnReset (s : State) : exec .powerOnReset s = .next s.powerReset := rfl

theorem exec_partReset_one (s : State) : exec (.partReset 1) s = .next s.powerReset := rfl

/-- A value other than 1 written to PART STATE: the step closes, and that is all (R179). -/
theorem exec_partReset_ignored (s : State) {v : BitVec 32} (h : v ≠ 1) : exec (.partReset v) s = .next s.finish := by
  change Host.Outcome.next (if v = 1 then s.powerReset else s.finish) = _
  rw [if_neg h]

/-- With no failure in store TICK changes the tick count and the count of its wraps, and nothing else. -/
theorem exec_tick_of_settled {s : State} (h : s.settled) (n : Nat) :
    exec (.tick n) s =
      .next { s with tick := s.tick + BitVec.ofNat 56 n, wraps := s.wraps + (s.tick.toNat + n) / 2 ^ 56 } := by
  change Host.Outcome.next { s with tick := _, wraps := _, failPlan := [] } = _
  unfold State.settled at h
  rw [h]
  rfl

theorem exec_linkReset_tick (s : State) : ∃ t, exec .linkReset s = .next t ∧ t.tick = s.tick := by
  obtain ⟨t, next, kept, -⟩ := exec_goesOn .linkReset s rfl
  exact ⟨t, next, kept.tick⟩

/-! ## One tick -/

/-- The tick after the last one of the count's run is 0 (R1). -/
theorem tick_succ_of_last {t : Tick} (h : t.toNat = 2 ^ 56 - 1) : t + 1 = 0 := by
  apply BitVec.eq_of_toNat_eq
  rw [BitVec.toNat_add, h]
  rfl

/-- Before the last tick of the run the count goes up by one (R1). -/
theorem toNat_tick_succ {t : Tick} (h : t.toNat < 2 ^ 56 - 1) : (t + 1).toNat = t.toNat + 1 := by
  rw [BitVec.toNat_add, show (1 : Tick).toNat = 1 from rfl]
  exact Nat.mod_eq_of_lt (by omega)

/-- Settles O7: TICK by its equation, one tick by whether it is the last of the run. -/
theorem tickCount : Obligations.TickCount := by
  intro s hs
  refine ⟨⟨_, exec_tick_of_settled hs.1 1, rfl, fun last => ⟨tick_succ_of_last last, ?_⟩, fun before => ⟨toNat_tick_succ before, ?_⟩⟩,
    exec_tick_of_settled hs.1, ⟨_, exec_powerOnReset s, rfl⟩, ⟨_, exec_partReset_one s, rfl⟩, exec_linkReset_tick s⟩
  · simp [last]
  · simpa using Nat.lt_sub_iff_add_lt.mp before

/-! ## What a full reset returns -/

/-- Each pod is at its reset value but for its two sense inputs (R2, log 8). -/
@[simp] theorem powerReset_pod (s : State) (p : Fin 4) :
    s.powerReset.pods.get p = { Pod.reset with probeAbsent := (s.pods.get p).probeAbsent, hotSense := (s.pods.get p).hotSense } :=
  match p with
  | 0 | 1 | 2 | 3 => rfl

/-- Settles O8: the full resets by their equation and pod by pod, any other value by the closing of the step. -/
theorem resetReturnsEveryField : Obligations.ResetReturnsEveryField := fun s hs =>
  ⟨exec_powerOnReset s, exec_partReset_one s, rfl, powerReset_pod s, rfl,
    fun _ other => ⟨_, exec_partReset_ignored s other, finish_closedFrom hs.1 hs.2⟩⟩

end Sys2Proof.Machine
end

section
/-! PROOFS. Pods (spec/01): the values at reset (O9), SET POD (O20), CLEAR POD (O22), the warm and the wake timer (O23), unknown channels (O26). -/

namespace Sys2Proof.Machine

/-! ## Members of four and of five -/

theorem Four.get_set {α : Type} (f : Four α) (i j : Fin 4) (x : α) : (f.set i x).get j = if j = i then x else f.get j := by
  fin_cases i <;> fin_cases j <;> rfl

@[simp] theorem Four.get_set_same {α : Type} (f : Four α) (i : Fin 4) (x : α) : (f.set i x).get i = x := by
  rw [Four.get_set, if_pos rfl]

theorem Four.get_set_ne {α : Type} (f : Four α) {i j : Fin 4} (x : α) (h : j ≠ i) : (f.set i x).get j = f.get j := by
  rw [Four.get_set, if_neg h]

@[simp] theorem Four.set_set {α : Type} (f : Four α) (i : Fin 4) (x y : α) : (f.set i x).set i y = f.set i y := by
  fin_cases i <;> rfl

@[simp] theorem Four.set_get {α : Type} (f : Four α) (i : Fin 4) : f.set i (f.get i) = f := by
  fin_cases i <;> rfl

theorem Five.get_set {α : Type} (f : Five α) (i j : FaultSource) (x : α) : (f.set i x).get j = if j = i then x else f.get j := by
  cases i <;> cases j <;> rfl

@[simp] theorem Five.get_set_same {α : Type} (f : Five α) (i : FaultSource) (x : α) : (f.set i x).get i = x := by
  rw [Five.get_set, if_pos rfl]

theorem Five.get_set_ne {α : Type} (f : Five α) {i j : FaultSource} (x : α) (h : j ≠ i) : (f.set i x).get j = f.get j := by
  rw [Five.get_set, if_neg h]

@[simp] theorem Five.set_set {α : Type} (f : Five α) (i : FaultSource) (x y : α) : (f.set i x).set i y = f.set i y := by
  cases i <;> rfl

/-! ## Orders answered at once, and steps without a capture run -/

/-- An order its unit answers at once leaves the unit's state completed and closed. -/
theorem orderResult_completed {u : State} {o : OrderRef} {kind : OrderKind} (oc : Outcome) (ready : u.ready) (clear : u.recordClear o kind 0) :
    ∃ t, orderResult ⟨u, some oc, []⟩ o kind = .next t ∧ completedFrom u t o kind oc [] :=
  ⟨_, rfl, complete_finish ready.1 ready.2 clear⟩

/-- A step that leaves the part in state `u` closes it. -/
theorem finish_closes {u : State} (ready : u.ready) : closedFrom u u.finish := finish_closedFrom ready.1 ready.2

/-- With no take capturing none is being recorded. -/
theorem recordingIndex_of_capIndex_none {s : State} (h : s.capIndex = none) : s.recordingIndex = none := by
  unfold State.recordingIndex
  rw [h]

/-! ## Values at reset -/

/-- Settles O9: the reset values, pod by pod, generator by generator and lane by lane. -/
theorem valuesAtReset : Obligations.ValuesAtReset := by
  refine ⟨by decide +kernel, rfl, by decide, rfl, rfl, rfl, rfl, ?_, rfl, rfl, by decide, rfl, by decide, by decide, rfl, rfl, rfl, rfl, rfl, rfl⟩
  simp only [State.reset, Pool.reset]
  rfl

/-! ## SET POD (R22) -/

/-- The pod SET POD writes, field by field: a comparator set reaches the applied set, with a new generation, where no take captures (R8, R9). -/
theorem Pod.written_eq (x : Pod) (p : SetPodP) (idle : Bool) :
    x.written p idle = { x with
      applied := if p.changes 0 && idle then ⟨p.threshold, p.hysteresis⟩ else x.applied
      staged := if p.changes 0 then ⟨p.threshold, p.hysteresis⟩ else x.staged
      stagedPending := if p.changes 0 then !idle else x.stagedPending
      generation := if p.changes 0 && idle then x.generation + 1 else x.generation
      highLimit := if p.changes 1 then p.highLimit else x.highLimit
      lowLimit := if p.changes 1 then p.lowLimit else x.lowLimit
      middleCount := if p.changes 2 then p.middleCount else x.middleCount
      wakeSpan := if p.changes 3 then p.wakeSpan else x.wakeSpan
      actions := if p.changes 4 then p.actionTable else x.actions } := by
  unfold Pod.written Pod.applyStaged
  cases p.changes 0 with
  | false => simp
  | true => cases idle <;> simp

theorem setPodOrder_of_valid {p : SetPodP} (h : p.valid = true) (s : State) :
    setPodOrder p s = accept { s with
      pods := s.pods.set (fin4 p.pod) ((s.pods.get (fin4 p.pod)).written p s.capIndex.isNone)
      monitor := { s.monitor with period := if p.changes 5 then p.period else s.monitor.period } } := by
  simp [setPodOrder, h]

/-- Settles O20: the order is accepted, and the pod written is `Pod.written`. -/
theorem setPodWrites : Obligations.SetPodWrites := by
  intro s o p ready clear valid
  obtain ⟨t, next, done⟩ := orderResult_completed .ok (u := (setPodOrder p s).state) (o := o) (kind := .setPod)
    (by rw [setPodOrder_of_valid valid]; exact ready) (by rw [setPodOrder_of_valid valid]; exact clear)
  rw [setPodOrder_of_valid valid] at next done
  refine ⟨t, ?_, by rw [done.pods, done.monitor]; exact done, fun q other => ?_, done.monitor, ?_⟩
  · change orderResult (setPodOrder p s) o .setPod = _
    rw [setPodOrder_of_valid valid]
    exact next
  · rw [done.pods]
    exact Four.get_set_ne _ _ other
  · dsimp only
    rw [done.pods]
    dsimp only [accept]
    rw [Four.get_set_same, Pod.written_eq]
    simp

/-! ## CLEAR POD (R21) -/

theorem clearPodOrder_isolate {p : ClearPodP} {s : State} (named : p.pod ≤ 3) (level : (s.pods.get (fin4 p.pod)).actionLevel = 4) :
    clearPodOrder p s = refuse s .wrongState := by
  simp [clearPodOrder, inRange, named, level, levelIsolate]

theorem clearPodOrder_unlatched {p : ClearPodP} {s : State} (named : p.pod ≤ 3) (level : (s.pods.get (fin4 p.pod)).actionLevel ≠ 4)
    (latch : (s.pods.get (fin4 p.pod)).latch = false) : clearPodOrder p s = accept s := by
  simp [clearPodOrder, inRange, named, level, latch, levelIsolate]

/-- With no take being recorded no FAULT record is closed. -/
theorem faultEnd_unrecorded {s : State} (h : s.recordingIndex = none) (t : Tick) (p : Fin 4) (src : FaultSource) (act : FaultAction) (m : BitVec 8) :
    s.faultEnd t p src act m = s := by
  unfold State.faultEnd
  rw [h]

theorem closeIsolates_unrecorded {s : State} (h : s.recordingIndex = none) (p : Fin 4) : s.closeIsolates p = s := by
  simp [State.closeIsolates, FaultSource.order, faultEnd_unrecorded h]

theorem clearPodOrder_latched {p : ClearPodP} {s : State} (named : p.pod ≤ 3) (level : (s.pods.get (fin4 p.pod)).actionLevel ≠ 4)
    (latch : (s.pods.get (fin4 p.pod)).latch = true) (unrecorded : s.recordingIndex = none) :
    clearPodOrder p s = accept ((s.setPodAt (fin4 p.pod) (s.pods.get (fin4 p.pod)).cleared).noteWaking (fin4 p.pod)) := by
  simp [clearPodOrder, inRange, named, level, latch, levelIsolate, closeIsolates_unrecorded unrecorded]

@[simp] theorem Pod.cleared_holdsLatch (x : Pod) (src : FaultSource) : (x.cleared.sources.get src).holdsLatch = false := by
  cases src <;> rfl

/-- Settles O22: by the action level, then by the latch. -/
theorem clearPodClearsLatch : Obligations.ClearPodClearsLatch := by
  intro s o p ready clear named
  have answered : exec (.clearPod o p) s = orderResult (clearPodOrder p s) o .clearPod := rfl
  refine ⟨fun level => ?_, fun level latch => ?_, fun level latch unrecorded => ?_⟩
  · rw [answered, clearPodOrder_isolate named level]
    exact orderResult_completed .wrongState ready clear
  · rw [answered, clearPodOrder_unlatched named level latch]
    exact orderResult_completed .ok ready clear
  · rw [answered, clearPodOrder_latched named level latch unrecorded]
    obtain ⟨t, next, done⟩ := orderResult_completed .ok
      (u := (s.setPodAt (fin4 p.pod) (s.pods.get (fin4 p.pod)).cleared).noteWaking (fin4 p.pod)) (o := o) (kind := .clearPod) ready clear
    have pods : t.pods = s.pods.set (fin4 p.pod) (s.pods.get (fin4 p.pod)).cleared := done.pods
    refine ⟨t, next, by rw [done.pods, done.sampler]; exact done, ?_, fun src => ?_, fun q other => ?_⟩
    · rw [pods, Four.get_set_same]
      rfl
    · rw [pods, Four.get_set_same, Pod.cleared_holdsLatch]
    · rw [pods, Four.get_set_ne _ _ other]

/-! ## The warm and the wake timer (R4, R5) -/

/-- No take waits for a pod to be ON where none is capturing. -/
theorem podIsOn_of_capIndex_none {s : State} (h : s.capIndex = none) : s.podIsOn = s := by
  unfold State.podIsOn
  rw [h]

theorem warmOver_idle {s : State} (h : s.capIndex = none) (p : Fin 4) :
    s.warmOver p = { s with
      pods := s.pods.set p { s.pods.get p with power := .on, warmTimer := none }
      monitor := { s.monitor with channels := resetChannels p s.monitor.channels 0 } } :=
  podIsOn_of_capIndex_none h

theorem wakeOver_idle {s : State} (h : s.capIndex = none) (p : Fin 4) :
    s.wakeOver p = { s with pods := s.pods.set p { s.pods.get p with power := .on, wakeTimer := none } } := by
  have notAwaited : s.wakingFor p = false := by simp [State.wakingFor, h]
  unfold State.wakeOver
  rw [notAwaited]
  exact podIsOn_of_capIndex_none h

theorem Monitor.channel_eq (m : Monitor) (ch : Nat) : m.channel ch = (m.channels[ch]?).getD ChannelMon.reset := List.getD_eq_getElem?_getD

theorem resetChannels_getElem? (p : Fin 4) (l : List ChannelMon) (i ch : Nat) :
    (resetChannels p l i)[ch]? = l[ch]?.map (fun c => if podOf (i + ch) = p then ChannelMon.reset else c) := by
  induction l generalizing i ch with
  | nil => rfl
  | cons c rest ih =>
    cases ch with
    | zero => rfl
    | succ ch =>
      rw [resetChannels, List.getElem?_cons_succ, List.getElem?_cons_succ, ih, Nat.add_right_comm, Nat.add_assoc]

/-- A channel of the pod that entered ON has its values of that entry, any other those it had (R10). -/
theorem channel_resetChannels {m : Monitor} {ch : Nat} (h : ch < m.channels.length) (p : Fin 4) :
    ({ m with channels := resetChannels p m.channels 0 } : Monitor).channel ch = if podOf ch = p then ⟨0, 3, 3, 0⟩ else m.channel ch := by
  rw [Monitor.channel_eq, Monitor.channel_eq, resetChannels_getElem?, List.getElem?_eq_getElem h, Nat.zero_add]
  rfl

theorem exec_warmTimerExpiry_due {s : State} {p : Fin 4} (warming : (s.pods.get p).power = .warming)
    (due : timerDue (s.pods.get p).warmTimer s.tick = true) : exec (.warmTimerExpiry p) s = .next (s.warmOver p).finish :=
  congrArg (fun u : State => Host.Outcome.next u.finish) (if_pos ⟨warming, due⟩)

theorem exec_warmTimerExpiry_early {s : State} {p : Fin 4} (early : timerDue (s.pods.get p).warmTimer s.tick = false) :
    exec (.warmTimerExpiry p) s = .next s.finish :=
  congrArg (fun u : State => Host.Outcome.next u.finish) (if_neg (fun due => by simp [early] at due))

theorem exec_wakeTimerExpiry_due {s : State} {p : Fin 4} (watch : (s.pods.get p).power = .watch)
    (due : timerDue (s.pods.get p).wakeTimer s.tick = true) : exec (.wakeTimerExpiry p) s = .next (s.wakeOver p).finish :=
  congrArg (fun u : State => Host.Outcome.next u.finish) (if_pos ⟨watch, due⟩)

theorem exec_wakeTimerExpiry_early {s : State} {p : Fin 4} (early : timerDue (s.pods.get p).wakeTimer s.tick = false) :
    exec (.wakeTimerExpiry p) s = .next s.finish :=
  congrArg (fun u : State => Host.Outcome.next u.finish) (if_neg (fun due => by simp [early] at due))

/-- Settles O23: each timer not due and due. -/
theorem podTimersEnd : Obligations.PodTimersEnd := by
  intro s p ready idle
  refine ⟨fun early => ⟨_, exec_warmTimerExpiry_early early, finish_closes ready⟩,
    fun early => ⟨_, exec_wakeTimerExpiry_early early, finish_closes ready⟩,
    fun warming due => ?_, fun watch due => ?_⟩
  · rw [exec_warmTimerExpiry_due warming due, warmOver_idle idle]
    have closed : closedFrom
      { s with
        pods := s.pods.set p { s.pods.get p with power := .on, warmTimer := none }
        monitor := { s.monitor with channels := resetChannels p s.monitor.channels 0 } } _ := finish_closes ready
    refine ⟨_, rfl, by rw [closed.monitor]; exact closed, fun ch listed => ?_⟩
    rw [closed.monitor]
    exact channel_resetChannels listed p
  · rw [exec_wakeTimerExpiry_due watch due, wakeOver_idle idle]
    exact ⟨_, rfl, finish_closes ready⟩

/-! ## Unknown channels (R16) -/

/-- A source makes a channel unknown by its mask while it is in force at MARK or MARK AND END. -/
theorem SourceRec.unknown_iff (r : SourceRec) (i : Nat) :
    r.unknown.getLsbD i = true ↔ r.active = true ∧ (r.action = .mark ∨ r.action = .markAndEnd) ∧ r.mask.getLsbD i = true := by
  unfold SourceRec.unknown FaultAction.masks
  split <;> simp_all

/-- A quantifier over the five sources, written out. -/
theorem FaultSource.exists_iff (f : FaultSource → Prop) : (∃ src, f src) ↔ f .overLimit ∨ f .under ∨ f .middle ∨ f .lost ∨ f .hot := by
  refine ⟨fun ⟨src, h⟩ => by cases src <;> simp [h], ?_⟩
  rintro (h | h | h | h | h) <;> exact ⟨_, h⟩

/-- Every one of a pod's eight channels is in the full mask. -/
theorem getLsbD_fullMask {i : Nat} (h : i < 8) : (255#8).getLsbD i = true := by
  change (BitVec.allOnes 8).getLsbD i = true
  rw [BitVec.getLsbD_allOnes]
  exact decide_eq_true h

/-- Settles O26: by the latch; without it, source by source. -/
theorem unknownChannels : Obligations.UnknownChannels := by
  intro x i named
  simp only [← SourceRec.unknown_iff]
  cases latch : x.latch with
  | true => simp [Pod.unknown, latch, getLsbD_fullMask named]
  | false => simp [Pod.unknown, latch, FaultSource.exists_iff, Five.get, or_assoc]

end Sys2Proof.Machine
end

section
/-! PROOFS. Pods (spec/01): what the work of the pod controllers touches and what it leaves alone. -/

namespace Sys2Proof.Machine

/-! ## No capture run -/

theorem captureRuns_of_not_running {s : State} (h : s.seq.state ≠ .running) : s.captureRuns = false := by
  simp [State.captureRuns, h]

theorem lateEvents_idle {s : State} (h : s.captureRuns = false) : s.lateEvents = none := by
  simp [State.lateEvents, h]

/-- With no capture run no event is judged and none is dropped. -/
theorem seqFlush_idle {s : State} (h : s.captureRuns = false) : s.seqFlush = s := by
  simp [State.seqFlush, lateEvents_idle h, State.dropGapEvents, h]

theorem seqFlushEnding_idle {s : State} (h : s.captureRuns = false) : s.seqFlushEnding = s := by
  simp [State.seqFlushEnding, lateEvents_idle h]

theorem finishEvents_idle {s : State} (h : s.captureRuns = false) : s.finishEvents = s.finish := by
  unfold State.finishEvents
  rw [seqFlush_idle h]

/-- Without a capture run a POD FAULT event goes nowhere (R93). -/
theorem podEvent_idle {s : State} (h : s.captureRuns = false) (p : Fin 4) : s.podEvent p = s := by
  unfold State.podEvent
  rw [h]
  rfl

/-! ## The take table where a record is offered -/

theorem getD_putAt {α : Type} (l : List α) (i j : Nat) (x d : α) :
    (putAt l i x).getD j d = if j = i ∧ j < l.length then x else l.getD j d := by
  induction l generalizing i j with
  | nil => cases i <;> simp [putAt]
  | cons y rest ih =>
    cases i with
    | zero => cases j <;> simp [putAt]
    | succ i =>
      cases j with
      | zero => simp [putAt]
      | succ j => simpa [putAt] using ih i j

theorem setTake_takeAt (s : State) (i j : Nat) (t : Take) :
    (s.setTake i t).takeAt j = if j = i ∧ j < s.takes.entries.length then t else s.takeAt j :=
  getD_putAt _ _ _ _ _

/-- A search does not see a replaced entry that answers the question as the old one did. -/
theorem findIdxFrom_putAt {α : Type} (f : α → Bool) (l : List α) (i n : Nat) (x d : α) (h : f x = f (l.getD i d)) :
    findIdxFrom f (putAt l i x) n = findIdxFrom f l n := by
  induction l generalizing i n with
  | nil => rfl
  | cons y rest ih =>
    cases i with
    | zero => simp_all [putAt, findIdxFrom]
    | succ i => simp only [putAt, findIdxFrom, ih i (n + 1) h]

/-- An offer changes no entry of the take table but for its lost records (R45). -/
theorem offer_takeAt (s : State) (i : Nat) (t : Tick) (b : RecBody) (j : Nat) :
    ∃ n, (s.offer i t b).takeAt j = { s.takeAt j with lost := n } := by
  unfold State.offer
  extract_lets t b ok lost f
  cases ok with
  | true => exact ⟨_, rfl⟩
  | false =>
    have entry := getD_putAt s.takes.entries i j { s.takeAt i with lost := lost } Take.reset
    split at entry
    · next same =>
      obtain ⟨rfl, -⟩ := same
      exact ⟨lost, entry⟩
    · exact ⟨_, entry⟩

/-- An offer leaves it to the same take to be capturing. -/
@[simp] theorem offer_capIndex (s : State) (i : Nat) (t : Tick) (b : RecBody) : (s.offer i t b).capIndex = s.capIndex := by
  unfold State.offer
  extract_lets t b ok lost f
  cases ok with
  | true => rfl
  | false => exact findIdxFrom_putAt _ _ _ _ _ Take.reset rfl

@[simp] theorem offer_recordingIndex (s : State) (i : Nat) (t : Tick) (b : RecBody) : (s.offer i t b).recordingIndex = s.recordingIndex := by
  unfold State.recordingIndex
  rw [offer_capIndex]
  cases s.capIndex with
  | none => rfl
  | some k =>
    obtain ⟨n, same⟩ := offer_takeAt s i t b k
    simp only [same]
    rfl

@[simp] theorem offer_listed (s : State) (i : Nat) (t : Tick) (b : RecBody) (p : Fin 4) : (s.offer i t b).listed p = s.listed p := by
  unfold State.listed State.capTake
  rw [offer_capIndex]
  cases s.capIndex with
  | none => rfl
  | some k =>
    obtain ⟨n, same⟩ := offer_takeAt s i t b k
    simp only [Option.map_some, same]

theorem listed_of_capIndex_none {s : State} (h : s.capIndex = none) (p : Fin 4) : s.listed p = false := by
  simp [State.listed, State.capTake, h]

/-- A MARK AND END source of a pod that the capturing take does not list ends no take (R18). -/
theorem markEnds_unlisted {s : State} {p : Fin 4} (h : s.listed p = false) (m : BitVec 8) : s.markEnds p m = s := by
  unfold State.markEnds
  unfold State.listed State.capTake at h
  cases capturing : s.capIndex with
  | none => rfl
  | some i =>
    have none : podBits p (s.takeAt i).channels = 0 := by simpa [capturing, podIn] using h
    simp [none]

/-! ## What the pod controllers touch -/

/-- `u` comes from `s` by work of the pod controllers that ends no take: sources and latches, FAULT records and what they do to a take being recorded, alerts,
silenced generators. -/
structure PodWork (s u : State) : Prop where
  frame : u = { s with
    pods := u.pods, gens := u.gens, sampler := u.sampler, staging := u.staging, takes := u.takes, alerts := u.alerts, report := u.report }
  recording : u.recordingIndex = s.recordingIndex
  listed : ∀ p, u.listed p = s.listed p
  unrecorded : s.recordingIndex = none → u = { s with
    pods := u.pods
    gens := u.gens
    alerts := u.alerts
    sampler := { s.sampler with givenLatched := u.sampler.givenLatched, wakingPods := u.sampler.wakingPods } }

/-- Work that leaves staging, the take table and the page alone, and of the sampler all but what it notes of pods. -/
theorem PodWork.of_frame {s u : State} (h : u = { s with
    pods := u.pods
    gens := u.gens
    alerts := u.alerts
    sampler := { s.sampler with givenLatched := u.sampler.givenLatched, wakingPods := u.sampler.wakingPods } }) : PodWork s u where
  frame := by rw [h]
  recording := by rw [h]; rfl
  listed p := by rw [h]; rfl
  unrecorded _ := h

theorem PodWork.refl (s : State) : PodWork s s := .of_frame rfl

theorem PodWork.trans {s u v : State} (h : PodWork s u) (g : PodWork u v) : PodWork s v where
  frame := g.frame.trans (by rw [h.frame])
  recording := g.recording.trans h.recording
  listed p := (g.listed p).trans (h.listed p)
  unrecorded none := (g.unrecorded (h.recording.trans none)).trans (by rw [h.unrecorded none])

section
variable {s u : State} (h : PodWork s u)
include h

theorem PodWork.tick : u.tick = s.tick := by rw [h.frame]
theorem PodWork.disp : u.disp = s.disp := by rw [h.frame]
theorem PodWork.monitor : u.monitor = s.monitor := by rw [h.frame]
theorem PodWork.writer : u.writer = s.writer := by rw [h.frame]
theorem PodWork.pool : u.pool = s.pool := by rw [h.frame]
theorem PodWork.seq : u.seq = s.seq := by rw [h.frame]
theorem PodWork.lanes : u.lanes = s.lanes := by rw [h.frame]
theorem PodWork.slots : u.slots = s.slots := by rw [h.frame]
theorem PodWork.panel : u.panel = s.panel := by rw [h.frame]
theorem PodWork.shared : u.shared = s.shared := by rw [h.frame]
theorem PodWork.chained (g : Fin 4) : u.chained g = s.chained g := by rw [h.frame]; rfl
theorem PodWork.control (g : Fin 4) : u.control g = s.control g := by rw [h.frame]; rfl
theorem PodWork.captureRuns : u.captureRuns = s.captureRuns := by rw [h.frame]; rfl
theorem PodWork.staging (none : s.recordingIndex = none) : u.staging = s.staging := by rw [h.unrecorded none]
theorem PodWork.takes (none : s.recordingIndex = none) : u.takes = s.takes := by rw [h.unrecorded none]

theorem PodWork.ready (r : s.ready) : u.ready := by
  rw [h.frame]
  exact r

end

/-- A record offered with a pod's source changed, while a take is being recorded. -/
theorem podWork_offer {s u : State} {i : Nat} (recorded : s.recordingIndex = some i) (h : PodWork s u) (j : Nat) (t : Tick) (b : RecBody) :
    PodWork s (u.offer j t b) :=
  h.trans
    { frame := rfl
      recording := offer_recordingIndex u j t b
      listed := offer_listed u j t b
      unrecorded := fun none => by simp [h.recording, recorded] at none }

theorem podWork_setSource (s : State) (p : Fin 4) (src : FaultSource) (r : SourceRec) : PodWork s (s.setSource p src r) := .of_frame rfl

theorem podWork_noteWaking (s : State) (p : Fin 4) : PodWork s (s.noteWaking p) := .of_frame rfl

theorem podWork_faultBegin (s : State) (t : Tick) (p : Fin 4) (src : FaultSource) (what : FaultAction × BitVec 8) :
    PodWork s (s.faultBegin t p src what) := by
  unfold State.faultBegin
  cases recorded : s.recordingIndex with
  | none => exact .refl s
  | some i => exact podWork_offer recorded (podWork_setSource _ _ _ _) _ _ _

theorem podWork_faultEnd (s : State) (t : Tick) (p : Fin 4) (src : FaultSource) (act : FaultAction) (m : BitVec 8) :
    PodWork s (s.faultEnd t p src act m) := by
  unfold State.faultEnd
  cases recorded : s.recordingIndex with
  | none => exact .refl s
  | some i => exact podWork_offer recorded (podWork_setSource _ _ _ _) _ _ _

theorem podWork_isolate (s : State) (p : Fin 4) (src : FaultSource) : PodWork s (s.isolate p src) := by
  unfold State.isolate
  dsimp only
  split
  · exact .of_frame rfl
  · exact .of_frame rfl

/-- Without a capture run an announcement is a FAULT begin, the POD alert and the sampler's note (R17, R20, R54). -/
theorem announce_idle {s : State} (idle : s.captureRuns = false) (p : Fin 4) (src : FaultSource) :
    s.announce p src = ((s.faultBegin s.intervalTime p src ((s.pods.get p).sources.get src).begins).raise .pod).noteWaking p := by
  unfold State.announce
  dsimp only
  rw [podEvent_idle]
  exact (podWork_faultBegin s _ _ _ _).captureRuns.trans idle

theorem podWork_announce {s : State} (idle : s.captureRuns = false) (p : Fin 4) (src : FaultSource) : PodWork s (s.announce p src) := by
  rw [announce_idle idle]
  exact (podWork_faultBegin s _ _ _ _).trans (.of_frame rfl)

/-- At IGNORE an activation or growth does nothing further (R16 to R20). -/
theorem actSource_ignore {s : State} {p : Fin 4} {src : FaultSource} (h : ((s.pods.get p).sources.get src).action = .ignore) :
    s.actSource p src = s := by
  unfold State.actSource
  rw [h]

/-- At MARK and MARK AND END it is announced, where no take can end by it (R16 to R18). -/
theorem actSource_masks {s : State} {p : Fin 4} {src : FaultSource} (idle : s.captureRuns = false)
    (goesOn : ((s.pods.get p).sources.get src).action = .markAndEnd → s.listed p = false)
    (h : ((s.pods.get p).sources.get src).action.masks = true) : s.actSource p src = s.announce p src := by
  unfold State.actSource
  cases act : ((s.pods.get p).sources.get src).action with
  | ignore => simp [act, FaultAction.masks] at h
  | mark => rfl
  | markAndEnd => exact markEnds_unlisted (((podWork_announce idle p src).listed p).trans (goesOn act)) _
  | isolate => simp [act, FaultAction.masks] at h

/-- At ISOLATE the pod is isolated, then it is announced (R19). -/
theorem actSource_isolate {s : State} {p : Fin 4} {src : FaultSource} (h : ((s.pods.get p).sources.get src).action = .isolate) :
    s.actSource p src = (s.isolate p src).announce p src := by
  unfold State.actSource
  rw [h]

/-- Every action is IGNORE, ISOLATE, or one that masks. -/
theorem FaultAction.cases3 (a : FaultAction) : a = .ignore ∨ a.masks = true ∨ a = .isolate := by
  cases a <;> simp [FaultAction.masks]

end Sys2Proof.Machine
end

section
/-! PROOFS. Pods (spec/01): what driving one source leaves of its pod, of the latch and of the generators. -/

namespace Sys2Proof.Machine

/-! ## Generators that a latch silences (R33) -/

/-- The generator is silent: SILENCED, its output inactive. -/
def Gen.silent (g : Gen) : Prop := g.state = .silenced ∧ g.output = false

/-- The generator that controls a unit takes what it is given; the even member of a pair mirrors its state (R31). -/
theorem setUnit_gen (s : State) (u g : Fin 4) (x : Gen) :
    (s.setUnit u x).gens.get g =
      if g = u then x else if s.chained u = true ∧ g = evenOf u then { s.gens.get (evenOf u) with state := x.state } else s.gens.get g := by
  unfold State.setUnit
  cases chained : s.chained u <;> simp [Four.get_set]

/-- Applying pending settings concerns the generators' settings alone (R30). -/
theorem unitApply_gen (s : State) (u g : Fin 4) :
    (s.unitApply u).gens.get g = s.gens.get g ∨ (s.unitApply u).gens.get g = (s.gens.get g).applyPending := by
  unfold State.unitApply
  cases s.chained u with
  | false =>
    by_cases same : g = u
    · subst same
      simp
    · simp [Four.get_set, same]
  | true =>
    by_cases odd : g = oddOf u
    · subst odd
      simp
    · by_cases even : g = evenOf u
      · subst even
        simp [Four.get_set, odd]
      · simp [Four.get_set, odd, even]

theorem unitApply_silent {s : State} {g : Fin 4} (h : (s.gens.get g).silent) (u : Fin 4) : ((s.unitApply u).gens.get g).silent := by
  rcases unitApply_gen s u g with same | pending
  · rwa [same]
  · rw [pending]
    exact h

/-- A silenced unit is silent. -/
theorem silenceUnit_silent (s : State) (u : Fin 4) : ((s.silenceUnit u).gens.get u).silent := by
  unfold State.silenceUnit
  rw [setUnit_gen, if_pos rfl]
  exact ⟨rfl, rfl⟩

/-- Silencing a unit leaves a silent generator silent. -/
theorem silenceUnit_keeps_silent {s : State} {g : Fin 4} (h : (s.gens.get g).silent) (u : Fin 4) : ((s.silenceUnit u).gens.get g).silent := by
  unfold State.silenceUnit
  rw [setUnit_gen]
  split
  · exact ⟨rfl, rfl⟩
  · split
    · next even =>
      obtain ⟨-, rfl⟩ := even
      exact ⟨rfl, (unitApply_silent h u).2⟩
    · exact unitApply_silent h u

/-! ## A pod whose sources are driven -/

@[simp] theorem Five.set_get {α : Type} (f : Five α) (i : FaultSource) : f.set i (f.get i) = f := by
  cases i <;> rfl

/-- The pod with the record of source `src` replaced. -/
def Pod.withSource (x : Pod) (src : FaultSource) (r : SourceRec) : Pod := { x with sources := x.sources.set src r }

@[simp] theorem Pod.withSource_latch (x : Pod) (src : FaultSource) (r : SourceRec) : (x.withSource src r).latch = x.latch := rfl

@[simp] theorem Pod.withSource_sources (x : Pod) (src : FaultSource) (r : SourceRec) : (x.withSource src r).sources = x.sources.set src r := rfl

@[simp] theorem Pod.withSource_withSource (x : Pod) (src : FaultSource) (r r' : SourceRec) :
    (x.withSource src r).withSource src r' = x.withSource src r' := by
  simp [Pod.withSource]

@[simp] theorem Pod.withSource_self (x : Pod) (src : FaultSource) : x.withSource src (x.sources.get src) = x := by
  simp [Pod.withSource]

/-- What a FAULT begin leaves of the source: while a take is recorded the record of its action in force is open (R17). -/
def SourceRec.opened (r : SourceRec) (recording : Bool) : SourceRec := { r with openRec := if recording then some r.action else r.openRec }

/-- What carrying out its action makes of a source in force (R17, R19): above IGNORE it is announced, and at ISOLATE it holds the latch. -/
def SourceRec.acted (r : SourceRec) (recording : Bool) : SourceRec :=
  { r.opened (recording && r.action != .ignore) with holdsLatch := r.holdsLatch || r.action == .isolate }

@[simp] theorem SourceRec.acted_active (r : SourceRec) (recording : Bool) : (r.acted recording).active = r.active := rfl
@[simp] theorem SourceRec.acted_mask (r : SourceRec) (recording : Bool) : (r.acted recording).mask = r.mask := rfl
@[simp] theorem SourceRec.acted_action (r : SourceRec) (recording : Bool) : (r.acted recording).action = r.action := rfl

/-- The pod once source `src` is in force as `r` and its action carried out. -/
def Pod.acted (x : Pod) (src : FaultSource) (r : SourceRec) (recording : Bool) : Pod :=
  { x.withSource src (r.acted recording) with latch := x.latch || r.action == .isolate }

theorem Pod.acted_ignore {r : SourceRec} (h : r.action = .ignore) (x : Pod) (src : FaultSource) (recording : Bool) :
    x.acted src r recording = x.withSource src r := by
  have same : r.acted recording = r := by
    cases r
    simp_all [SourceRec.acted, SourceRec.opened]
  simp [Pod.acted, same, h, Pod.withSource]

theorem Pod.acted_masks {r : SourceRec} (h : r.action.masks = true) (x : Pod) (src : FaultSource) (recording : Bool) :
    x.acted src r recording = x.withSource src (r.opened recording) := by
  have above : r.action ≠ .ignore ∧ r.action ≠ .isolate := by
    constructor <;> intro same <;> simp [same, FaultAction.masks] at h
  simp [Pod.acted, SourceRec.acted, SourceRec.opened, above.1, beq_false_of_ne above.2, Pod.withSource]

theorem Pod.acted_isolate {r : SourceRec} (h : r.action = .isolate) (x : Pod) (src : FaultSource) (recording : Bool) :
    x.acted src r recording =
      ((x.withSource src r).isolatedBy src).withSource src ((((x.withSource src r).isolatedBy src).sources.get src).opened recording) := by
  simp [Pod.acted, SourceRec.acted, SourceRec.opened, Pod.isolatedBy, Pod.withSource, h]

/-- The source with an open MARK or MARK AND END record closed, while a take is recorded (R17). -/
def SourceRec.closed (r : SourceRec) (recording : Bool) : SourceRec :=
  { r with openRec := if recording && r.openRec.any FaultAction.masks then none else r.openRec }

theorem SourceRec.closed_of_none_masks {r : SourceRec} (h : r.openRec.any FaultAction.masks = false) (recording : Bool) : r.closed recording = r := by
  simp [SourceRec.closed, h]

/-- A source that has ended (R14, R17). -/
def SourceRec.ended (r : SourceRec) (recording : Bool) : SourceRec := { r.closed recording with active := false, mask := 0 }

/-- What was done in the step leaves pod `p` as `y`: the other pods stand, only sources and latch of `p` can differ, the latch does not clear, and one that sets
silences the generator on the connector. -/
structure Drives (s : State) (p : Fin 4) (y : Pod) (u : State) : Prop extends PodWork s u where
  pods : u.pods = s.pods.set p y
  kept : y = { s.pods.get p with sources := y.sources, latch := y.latch }
  latched : (s.pods.get p).latch = true → y.latch = true
  gens : u.gens = if (s.pods.get p).latch = false ∧ y.latch = true then (s.podSilences p).gens else s.gens

/-- The pod `p` that work left. -/
theorem Drives.pod {s u : State} {p : Fin 4} {y : Pod} (h : Drives s p y u) : u.pods.get p = y := by
  rw [h.pods, Four.get_set_same]

/-- Work that leaves the generators alone leaves alone what silencing one of them does. -/
theorem PodWork.podSilences_gens {s u : State} (h : PodWork s u) (same : u.gens = s.gens) (p : Fin 4) :
    (u.podSilences p).gens = (s.podSilences p).gens := by
  rw [h.frame, same]
  rfl

theorem drives_nothing (s : State) (p : Fin 4) : Drives s p (s.pods.get p) s where
  toPodWork := .refl s
  pods := by simp
  kept := rfl
  latched := id
  gens := by rw [if_neg (by simp_all)]

theorem Drives.trans {s u v : State} {p : Fin 4} {y z : Pod} (h : Drives s p y u) (g : Drives u p z v) : Drives s p z v where
  toPodWork := h.toPodWork.trans g.toPodWork
  pods := by rw [g.pods, h.pods, Four.set_set]
  kept := by
    have second := g.kept
    rw [h.pod] at second
    exact second.trans (by rw [h.kept])
  latched set := g.latched (h.pod ▸ h.latched set)
  gens := by
    have first := h.gens
    have second := g.gens
    have sets := h.latched
    have stays := g.latched
    rw [h.pod] at second stays
    have silences := fun same : u.gens = s.gens => h.podSilences_gens same p
    cases before : (s.pods.get p).latch <;> cases between : y.latch <;> cases after : z.latch <;> simp_all

/-- A change of a source record by itself. -/
theorem drives_setSource (s : State) (p : Fin 4) (src : FaultSource) (r : SourceRec) :
    Drives s p ((s.pods.get p).withSource src r) (s.setSource p src r) where
  toPodWork := podWork_setSource s p src r
  pods := rfl
  kept := rfl
  latched := id
  gens := by rw [if_neg (by simp_all)]; rfl

theorem drives_noteWaking (s : State) (p : Fin 4) : Drives s p (s.pods.get p) (s.noteWaking p) :=
  { drives_nothing s p with toPodWork := podWork_noteWaking s p }

/-- A FAULT begin opens the source's record while a take is recorded (R17). -/
theorem drives_faultBegin (s : State) (t : Tick) (p : Fin 4) (src : FaultSource) (what : FaultAction × BitVec 8)
    (act : what.1 = ((s.pods.get p).sources.get src).action) :
    Drives s p ((s.pods.get p).withSource src (((s.pods.get p).sources.get src).opened s.recordingIndex.isSome)) (s.faultBegin t p src what) := by
  have work := podWork_faultBegin s t p src what
  unfold State.faultBegin at work ⊢
  cases recorded : s.recordingIndex with
  | none =>
    have nothing := drives_nothing s p
    rw [← Pod.withSource_self (s.pods.get p) src] at nothing
    exact nothing
  | some i =>
    rw [recorded] at work
    have set := drives_setSource s p src { (s.pods.get p).sources.get src with openRec := some what.1 }
    rw [act] at set work ⊢
    exact { set with toPodWork := work }

/-- A FAULT end closes the source's record while a take is recorded (R17). -/
theorem drives_faultEnd (s : State) (t : Tick) (p : Fin 4) (src : FaultSource) (act : FaultAction) (m : BitVec 8) :
    Drives s p
      ((s.pods.get p).withSource src { (s.pods.get p).sources.get src with
        openRec := if s.recordingIndex.isSome then none else ((s.pods.get p).sources.get src).openRec })
      (s.faultEnd t p src act m) := by
  have work := podWork_faultEnd s t p src act m
  unfold State.faultEnd at work ⊢
  cases recorded : s.recordingIndex with
  | none =>
    have nothing := drives_nothing s p
    rw [← Pod.withSource_self (s.pods.get p) src] at nothing
    exact nothing
  | some i =>
    rw [recorded] at work
    exact { drives_setSource s p src { (s.pods.get p).sources.get src with openRec := none } with toPodWork := work }

/-- An announcement opens the source's record while a take is recorded (R17). -/
theorem drives_announce {s : State} (idle : s.captureRuns = false) (p : Fin 4) (src : FaultSource) :
    Drives s p ((s.pods.get p).withSource src (((s.pods.get p).sources.get src).opened s.recordingIndex.isSome)) (s.announce p src) := by
  have begins := drives_faultBegin s s.intervalTime p src ((s.pods.get p).sources.get src).begins rfl
  have work := podWork_announce idle p src
  rw [announce_idle idle] at work ⊢
  exact { begins with toPodWork := work }

/-- Isolation sets the latch, held by the source; only a latch that was clear silences the generator on the connector (R19). -/
theorem drives_isolate (s : State) (p : Fin 4) (src : FaultSource) : Drives s p ((s.pods.get p).isolatedBy src) (s.isolate p src) where
  toPodWork := podWork_isolate s p src
  pods := by
    unfold State.isolate
    dsimp only
    split <;> rfl
  kept := rfl
  latched _ := rfl
  gens := by
    unfold State.isolate
    dsimp only
    split
    · next set => rw [if_neg (by simp [set])]; rfl
    · next clear => rw [if_pos ⟨by simpa using clear, rfl⟩]; rfl

/-- A source is put in force as `r` and its action carried out, where no take can end by it. -/
theorem drives_act {s : State} {p : Fin 4} (idle : s.captureRuns = false) (src : FaultSource) {r : SourceRec}
    (goesOn : r.action = .markAndEnd → s.listed p = false) :
    Drives s p ((s.pods.get p).acted src r s.recordingIndex.isSome) ((s.setSource p src r).actSource p src) := by
  have set := drives_setSource s p src r
  have inForce : ((s.setSource p src r).pods.get p).sources.get src = r := by rw [set.pod]; simp
  have idle' := set.captureRuns.trans idle
  rcases r.action.cases3 with act | act | act
  · rw [actSource_ignore (by rw [inForce]; exact act), Pod.acted_ignore act]
    exact set
  · rw [actSource_masks idle' (by rw [inForce]; exact fun ends => (set.listed p).trans (goesOn ends)) (by rw [inForce]; exact act), Pod.acted_masks act]
    have announced := drives_announce idle' p src
    rw [inForce, set.recording, set.pod, Pod.withSource_withSource] at announced
    exact set.trans announced
  · rw [actSource_isolate (by rw [inForce]; exact act), Pod.acted_isolate act]
    have isolated := drives_isolate (s.setSource p src r) p src
    have announced := drives_announce (isolated.captureRuns.trans idle') p src
    rw [isolated.pod, isolated.recording, set.recording, set.pod] at announced
    exact (set.trans isolated).trans announced

/-- The FAULT end of a source that ends: only a MARK or MARK AND END record is closed (R17). -/
def State.closeEnding (s : State) (p : Fin 4) (src : FaultSource) : State :=
  match ((s.pods.get p).sources.get src).openRec with
  | none => s
  | some a => if a.masks then s.faultEnd s.intervalTime p src a ((s.pods.get p).sources.get src).mask else s

theorem drives_closeEnding (s : State) (p : Fin 4) (src : FaultSource) :
    Drives s p ((s.pods.get p).withSource src (((s.pods.get p).sources.get src).closed s.recordingIndex.isSome)) (s.closeEnding p src) := by
  cases opened : ((s.pods.get p).sources.get src).openRec with
  | none =>
    rw [SourceRec.closed_of_none_masks (by simp [opened]), Pod.withSource_self, State.closeEnding, opened]
    exact drives_nothing s p
  | some a =>
    cases masks : a.masks with
    | false =>
      rw [SourceRec.closed_of_none_masks (by simp [opened, masks]), Pod.withSource_self, State.closeEnding, opened]
      simpa [masks] using drives_nothing s p
    | true =>
      have ends := drives_faultEnd s s.intervalTime p src a ((s.pods.get p).sources.get src).mask
      simpa [State.closeEnding, SourceRec.closed, masks, opened] using ends

/-- A source ends: what is open of it is closed, then it is inactive (R14). -/
theorem drives_end (s : State) (p : Fin 4) (src : FaultSource) :
    Drives s p ((s.pods.get p).withSource src (((s.pods.get p).sources.get src).ended s.recordingIndex.isSome)) (s.endSource p src) := by
  have closes := drives_closeEnding s p src
  have source : ((s.closeEnding p src).pods.get p).sources.get src = ((s.pods.get p).sources.get src).closed s.recordingIndex.isSome := by
    rw [closes.pod, Pod.withSource_sources, Five.get_set_same]
  have inactive := closes.trans (drives_setSource _ p src (((s.pods.get p).sources.get src).ended s.recordingIndex.isSome))
  rw [closes.pod, Pod.withSource_withSource] at inactive
  have equation : s.endSource p src =
      if ((s.pods.get p).sources.get src).action = .ignore then
        (s.closeEnding p src).setSource p src { ((s.closeEnding p src).pods.get p).sources.get src with active := false, mask := 0 }
      else
        State.noteWaking
          ((s.closeEnding p src).setSource p src { ((s.closeEnding p src).pods.get p).sources.get src with active := false, mask := 0 }) p :=
    rfl
  rw [equation, source]
  split
  · exact inactive
  · have noted := drives_noteWaking ((s.closeEnding p src).setSource p src (((s.pods.get p).sources.get src).ended s.recordingIndex.isSome)) p
    rw [inactive.pod] at noted
    exact inactive.trans noted

/-! ## Sources driven by the monitor (R11, R12) and by a sense (R13) -/

/-- The pod once source `src` has been evaluated for the channels `hits` that bring it about; `recovered` tells whether all of its mask have recovered (R14). -/
def Pod.evaluated (x : Pod) (src : FaultSource) (hits : BitVec 8) (recovered recording : Bool) : Pod :=
  let r := x.sources.get src
  if !r.active then
    (if hits != 0 then x.acted src { r with active := true, mask := hits, action := x.actions.get src } recording else x)
  else if hits &&& ~~~r.mask != 0 then x.acted src { r with mask := r.mask ||| hits } recording
  else if recovered then x.withSource src (r.ended recording)
  else x

theorem drives_evalSource {s : State} {p : Fin 4} (idle : s.captureRuns = false) (unlisted : s.listed p = false) (src : FaultSource) (hits : BitVec 8)
    (recovered : Bool) :
    Drives s p ((s.pods.get p).evaluated src hits recovered s.recordingIndex.isSome) (s.evalSource p src hits recovered) := by
  unfold Pod.evaluated State.evalSource
  dsimp only
  split
  · split
    · exact drives_act idle src (fun _ => unlisted)
    · exact drives_nothing s p
  · split
    · exact drives_act idle src (fun _ => unlisted)
    · split
      · exact drives_end s p src
      · exact drives_nothing s p

/-- The pod once source `src` has been evaluated for its sense (R13). -/
def Pod.sensed (x : Pod) (src : FaultSource) (sense recording : Bool) : Pod :=
  let r := x.sources.get src
  if sense && !r.active then x.acted src { r with active := true, mask := 0xFF, action := x.actions.get src } recording
  else if !sense && r.active then x.withSource src (r.ended recording)
  else x

theorem drives_evalSense {s : State} {p : Fin 4} (idle : s.captureRuns = false) (unlisted : s.listed p = false) (src : FaultSource) (sense : Bool) :
    Drives s p ((s.pods.get p).sensed src sense s.recordingIndex.isSome) (s.evalSense p src sense) := by
  unfold Pod.sensed State.evalSense
  dsimp only
  split
  · exact drives_act idle src (fun _ => unlisted)
  · split
    · exact drives_end s p src
    · exact drives_nothing s p

end Sys2Proof.Machine
end

section
/-! PROOFS. Pods (spec/01): several pods driven in turn, and one evaluation of a source bit by bit. -/

namespace Sys2Proof.Machine

/-! ## Several pods driven, one after another -/

/-- What was done in the step, to whichever pods: only sources and latches differ, no latch clears, and a latch that sets silences the generator on its connector. -/
structure PodsDriven (s u : State) : Prop extends PodWork s u where
  kept : ∀ p, u.pods.get p = { s.pods.get p with sources := (u.pods.get p).sources, latch := (u.pods.get p).latch }
  latched : ∀ p, (s.pods.get p).latch = true → (u.pods.get p).latch = true
  gens : (∀ p, (u.pods.get p).latch = (s.pods.get p).latch) → u.gens = s.gens
  silent : ∀ g, (s.gens.get g).silent → (u.gens.get g).silent
  silenced : ∀ p, (s.pods.get p).latch = false → (u.pods.get p).latch = true → (u.gens.get (s.control p)).silent

theorem podsDriven_nothing (s : State) : PodsDriven s s where
  toPodWork := .refl s
  kept _ := rfl
  latched _ := id
  gens _ := rfl
  silent _ := id
  silenced p clear set := by simp [clear] at set

theorem PodsDriven.trans {s u v : State} (h : PodsDriven s u) (g : PodsDriven u v) : PodsDriven s v where
  toPodWork := h.toPodWork.trans g.toPodWork
  kept p := (g.kept p).trans (by rw [h.kept p])
  latched p set := g.latched p (h.latched p set)
  gens same := by
    have between (p : Fin 4) : (u.pods.get p).latch = (s.pods.get p).latch := by
      have first := h.latched p
      have second := g.latched p
      rw [same p] at second
      cases before : (s.pods.get p).latch <;> simp_all
    exact (g.gens (fun p => (same p).trans (between p).symm)).trans (h.gens between)
  silent k quiet := g.silent k (h.silent k quiet)
  silenced p clear set := by
    cases between : (u.pods.get p).latch with
    | true => exact g.silent _ (h.silenced p clear between)
    | false => exact h.control p ▸ g.silenced p between set

theorem Drives.others {s u : State} {p q : Fin 4} {y : Pod} (h : Drives s p y u) (other : q ≠ p) : u.pods.get q = s.pods.get q := by
  rw [h.pods, Four.get_set_ne _ _ other]

theorem Drives.driven {s u : State} {p : Fin 4} {y : Pod} (h : Drives s p y u) : PodsDriven s u where
  toPodWork := h.toPodWork
  kept q := by
    by_cases same : q = p
    · subst same
      rw [h.pod]
      exact h.kept
    · rw [h.others same]
  latched q set := by
    by_cases same : q = p
    · subst same
      rw [h.pod]
      exact h.latched set
    · rwa [h.others same]
  gens same := by
    have clear := same p
    rw [h.pod] at clear
    rw [h.gens, if_neg (by simp_all)]
  silent g quiet := by
    rw [h.gens]
    split
    · exact silenceUnit_keeps_silent quiet _
    · exact quiet
  silenced q clear set := by
    by_cases same : q = p
    · subst same
      rw [h.pod] at set
      rw [h.gens, if_pos ⟨clear, set⟩]
      exact silenceUnit_silent s _
    · rw [h.others same, clear] at set
      exact absurd set Bool.false_ne_true

/-! ## Bits of a pod's mask -/

theorem mask_ne_zero_iff (v : BitVec 8) : v ≠ 0 ↔ ∃ i, i < 8 ∧ v.getLsbD i = true := by
  refine ⟨fun nonzero => ?_, ?_⟩
  · by_contra none
    refine nonzero (BitVec.eq_of_getLsbD_eq fun i named => ?_)
    rw [show (0 : BitVec 8).getLsbD i = false from BitVec.getLsbD_zero]
    exact Bool.eq_false_iff.mpr fun set => none ⟨i, named, set⟩
  · rintro ⟨i, -, set⟩ rfl
    simp at set

theorem getLsbD_without {v m : BitVec 8} {i : Nat} (named : i < 8) : (v &&& ~~~m).getLsbD i = (v.getLsbD i && !m.getLsbD i) := by
  rw [BitVec.getLsbD_and, BitVec.getLsbD_not, decide_eq_true named, Bool.true_and]

/-- Eight flags placed as the bits of a mask. -/
theorem getLsbD_flags (b0 b1 b2 b3 b4 b5 b6 b7 : Bool) :
    ∀ i : Fin 8, (BitVec.ofNat 8 (bnat b0 + place (bnat b1) 1 + place (bnat b2) 2 + place (bnat b3) 3 + place (bnat b4) 4 + place (bnat b5) 5 +
      place (bnat b6) 6 + place (bnat b7) 7)).getLsbD i = [b0, b1, b2, b3, b4, b5, b6, b7].get i := by
  revert b0 b1 b2 b3 b4 b5 b6 b7
  decide +kernel

/-- A channel of pod `p` is in the mask exactly if it satisfies the condition. -/
theorem getLsbD_podMask {i : Nat} (named : i < 8) (m : Monitor) (p : Fin 4) (f : ChannelMon → Bool) :
    (m.podMask p f).getLsbD i = f (m.channel (8 * p.val + i)) := by
  unfold Monitor.podMask
  rw [getLsbD_flags _ _ _ _ _ _ _ _ ⟨i, named⟩]
  interval_cases i <;> rfl

/-- Some bit of `v` lies outside `m`. -/
theorem without_ne_zero_iff (v m : BitVec 8) : v &&& ~~~m ≠ 0 ↔ ∃ i, i < 8 ∧ v.getLsbD i = true ∧ m.getLsbD i = false := by
  rw [mask_ne_zero_iff]
  refine exists_congr fun i => and_congr_right fun named => ?_
  rw [getLsbD_without named, Bool.and_eq_true, Bool.not_eq_true']

/-! ## One evaluation of a source (R14) -/

section
variable {x : Pod} {src : FaultSource} {hits : BitVec 8} {recovered recording : Bool}

theorem Pod.evaluated_activates (inactive : (x.sources.get src).active = false) (hit : hits ≠ 0) :
    x.evaluated src hits recovered recording =
      x.acted src { x.sources.get src with active := true, mask := hits, action := x.actions.get src } recording := by
  simp only [Pod.evaluated, inactive, bne_iff_ne.mpr hit, Bool.not_false, if_true]

theorem Pod.evaluated_inactive (inactive : (x.sources.get src).active = false) : x.evaluated src 0 recovered recording = x := by
  simp [Pod.evaluated, inactive]

theorem Pod.evaluated_grows (active : (x.sources.get src).active = true) (hit : hits &&& ~~~(x.sources.get src).mask ≠ 0) :
    x.evaluated src hits recovered recording =
      x.acted src { x.sources.get src with mask := (x.sources.get src).mask ||| hits } recording := by
  simp only [Pod.evaluated, active, bne_iff_ne.mpr hit, Bool.not_true, Bool.false_eq_true, if_false, if_true]

theorem Pod.evaluated_ends (active : (x.sources.get src).active = true) (none : hits &&& ~~~(x.sources.get src).mask = 0) :
    x.evaluated src hits true recording = x.withSource src ((x.sources.get src).ended recording) := by
  simp [Pod.evaluated, active, none]

theorem Pod.evaluated_stays (active : (x.sources.get src).active = true) (none : hits &&& ~~~(x.sources.get src).mask = 0) :
    x.evaluated src hits false recording = x := by
  simp [Pod.evaluated, active, none]

theorem Pod.acted_source (r : SourceRec) : (x.acted src r recording).sources.get src = r.acted recording := Five.get_set_same _ _ _

end

/-- While no take is recorded an evaluated source follows the channels that bring it about and those recovered. -/
theorem Pod.evaluated_follows (x : Pod) (src : FaultSource) {hits wells : BitVec 8} {hit well : Nat → Prop}
    (hitsAre : ∀ i, i < 8 → (hits.getLsbD i = true ↔ hit i)) (wellsAre : ∀ i, i < 8 → (wells.getLsbD i = true ↔ well i)) :
    sourceFollows (x.sources.get src) ((x.evaluated src hits ((x.sources.get src).mask &&& ~~~wells == 0) false).sources.get src)
      (x.actions.get src) hit well := by
  have someHit : hits ≠ 0 ↔ ∃ i, i < 8 ∧ hit i := by
    rw [mask_ne_zero_iff]
    exact exists_congr fun i => and_congr_right fun named => hitsAre i named
  have newHit : hits &&& ~~~(x.sources.get src).mask ≠ 0 ↔ ∃ i, i < 8 ∧ hit i ∧ (x.sources.get src).mask.getLsbD i = false := by
    rw [without_ne_zero_iff]
    exact exists_congr fun i => and_congr_right fun named => and_congr_left' (hitsAre i named)
  have notWell : (x.sources.get src).mask &&& ~~~wells ≠ 0 ↔ ∃ i, i < 8 ∧ (x.sources.get src).mask.getLsbD i = true ∧ ¬ well i := by
    rw [without_ne_zero_iff]
    refine exists_congr fun i => and_congr_right fun named => and_congr_right fun _ => ?_
    rw [← wellsAre i named, Bool.not_eq_true]
  cases active : (x.sources.get src).active with
  | false =>
    refine ⟨fun _ none => ?_, fun _ some => ?_, fun set => ?_, fun set => ?_⟩
    · have zero : hits = 0 := by
        by_contra nonzero
        obtain ⟨i, named, is⟩ := someHit.mp nonzero
        exact none i named is
      rw [zero, Pod.evaluated_inactive active]
    · rw [Pod.evaluated_activates active (someHit.mpr some), Pod.acted_source]
      exact ⟨rfl, rfl, hitsAre⟩
    · simp [active] at set
    · simp [active] at set
  | true =>
    refine ⟨fun clear => ?_, fun clear => ?_, fun _ some => ?_, fun _ none => ?_⟩
    · simp [active] at clear
    · simp [active] at clear
    · rw [Pod.evaluated_grows active (newHit.mpr some), Pod.acted_source]
      refine ⟨active, rfl, fun i named => ?_⟩
      rw [SourceRec.acted_mask, BitVec.getLsbD_or, Bool.or_eq_true, hitsAre i named]
    · have within : hits &&& ~~~(x.sources.get src).mask = 0 := by
        by_contra new
        obtain ⟨i, named, is, out⟩ := newHit.mp new
        simp [none i named is] at out
      refine ⟨fun allWell => ?_, fun some => ?_⟩
      · have all : ((x.sources.get src).mask &&& ~~~wells == 0) = true := by
          by_contra not
          obtain ⟨i, named, set, ill⟩ := notWell.mp (by simpa using not)
          exact ill (allWell i named set)
        rw [all, Pod.evaluated_ends active within, Pod.withSource_sources, Five.get_set_same]
        exact ⟨rfl, rfl⟩
      · rw [beq_false_of_ne (notWell.mpr some), Pod.evaluated_stays active within]

/-- The latch is set after an evaluation exactly if it was before or the source isolated its pod (R19). -/
theorem Pod.evaluated_latch (x : Pod) (src : FaultSource) (hits : BitVec 8) (recovered recording : Bool) :
    (x.evaluated src hits recovered recording).latch = true ↔
      (x.latch = true ∨ isolates (x.sources.get src) ((x.evaluated src hits recovered recording).sources.get src)) := by
  have acted (r : SourceRec) : (x.acted src r recording).latch = true ↔ (x.latch = true ∨ r.action = .isolate) := by
    simp [Pod.acted]
  cases active : (x.sources.get src).active with
  | false =>
    by_cases zero : hits = 0
    · rw [zero, Pod.evaluated_inactive active]
      simp [isolates, active]
    · rw [Pod.evaluated_activates active zero, acted, Pod.acted_source]
      simp [isolates, active]
  | true =>
    by_cases within : hits &&& ~~~(x.sources.get src).mask = 0
    · cases recovered with
      | false =>
        rw [Pod.evaluated_stays active within]
        simp [isolates, active]
      | true =>
        rw [Pod.evaluated_ends active within, Pod.withSource_latch, Pod.withSource_sources, Five.get_set_same]
        simp [isolates, SourceRec.ended]
    · have grown : (x.sources.get src).mask ||| hits ≠ (x.sources.get src).mask := by
        intro same
        obtain ⟨i, -, hit, out⟩ := (without_ne_zero_iff _ _).mp within
        rw [← same, BitVec.getLsbD_or, hit, Bool.or_true] at out
        exact absurd out.symm Bool.false_ne_true
      rw [Pod.evaluated_grows active within, acted, Pod.acted_source]
      simp [isolates, active, grown]

theorem Pod.evaluated_other (x : Pod) {src other : FaultSource} (h : other ≠ src) (hits : BitVec 8) (recovered recording : Bool) :
    (x.evaluated src hits recovered recording).sources.get other = x.sources.get other := by
  have withSource (r : SourceRec) : (x.withSource src r).sources.get other = x.sources.get other := Five.get_set_ne _ _ h
  have acted (r : SourceRec) : (x.acted src r recording).sources.get other = x.sources.get other := Five.get_set_ne _ _ h
  unfold Pod.evaluated
  dsimp only
  split_ifs <;> simp only [withSource, acted]

end Sys2Proof.Machine
end

section
/-! PROOFS. The pod monitor (spec/01): measurements and the sources they drive (O24). -/

namespace Sys2Proof.Machine

/-! ## Measurements (R10) -/

theorem satSucc_eq_min (n m : Nat) : satSucc n m = min (n + 1) m := by
  unfold satSucc
  split <;> omega

theorem measureFrom_getElem? (pods : Four Pod) (analog : List Int) (l : List ChannelMon) (i ch : Nat) :
    (measureFrom pods analog l i)[ch]? = l[ch]?.map (fun c =>
      if (pods.get (podOf (i + ch))).measured then c.measured (pods.get (podOf (i + ch))) (analog.getD (i + ch) 0) else c) := by
  induction l generalizing i ch with
  | nil => rfl
  | cons c rest ih =>
    cases ch with
    | zero => rfl
    | succ ch =>
      rw [measureFrom, List.getElem?_cons_succ, List.getElem?_cons_succ, ih, show i + 1 + ch = i + (ch + 1) by omega]

/-- The monitor after a period's measurements. -/
def State.measures (s : State) (analog : List Int) : Monitor :=
  { s.monitor with
    channels := measureFrom s.pods analog s.monitor.channels 0
    expiry := tickAdd s.monitor.expiry (s.monitor.period * Config.ticksPerMs) }

/-- New channels and a new expiry leave the period. (Said for any expiry, which the kernel would otherwise compute where it compares the two monitors.) -/
theorem Monitor.period_kept (m : Monitor) (channels : List ChannelMon) (expiry : Tick) :
    ({ m with channels := channels, expiry := expiry } : Monitor).period = m.period := rfl

theorem channel_measures {s : State} {ch : Nat} (listed : ch < s.monitor.channels.length) (analog : List Int) :
    (s.measures analog).channel ch =
      if (s.pods.get (podOf ch)).measured then (s.monitor.channel ch).measured (s.pods.get (podOf ch)) (analog.getD ch 0)
      else s.monitor.channel ch := by
  rw [Monitor.channel_eq, Monitor.channel_eq, State.measures, measureFrom_getElem?, List.getElem?_eq_getElem listed, Nat.zero_add]
  rfl

theorem Pod.measured_iff (x : Pod) : x.measured = true ↔ (x.power = .on ∨ x.power = .watch) := by
  simp [Pod.measured]

theorem Pod.not_measured_iff (x : Pod) : x.measured = false ↔ (x.power = .off ∨ x.power = .warming) := by
  cases power : x.power <;> simp [Pod.measured, power]

/-! ## Sources of the monitor (R11, R12, R14) -/

/-- Pod `x` became `y` by the evaluation of source `src`, which channel conditions `hit` bring about and `well` let recover. -/
def Pod.monitored (x y : Pod) (src : FaultSource) (hit well : Nat → Prop) : Prop :=
  sourceFollows (x.sources.get src) (y.sources.get src) (x.actions.get src) hit well ∧
  (∀ other, other ≠ src → y.sources.get other = x.sources.get other) ∧
  (y.latch = true ↔ (x.latch = true ∨ isolates (x.sources.get src) (y.sources.get src)))

/-- A source of pod `p` evaluated on the monitor's fields, while no take is recorded. -/
theorem evalSource_monitored {s : State} {p : Fin 4} (idle : s.captureRuns = false) (unlisted : s.listed p = false) (unrecorded : s.recordingIndex = none)
    (src : FaultSource) {f g : ChannelMon → Bool} {hit well : Nat → Prop}
    (hits : ∀ i, f (s.monitor.channel (8 * p.val + i)) = true ↔ hit i) (wells : ∀ i, g (s.monitor.channel (8 * p.val + i)) = true ↔ well i) :
    ∃ y, Drives s p y (s.evalSource p src (s.monitor.podMask p f) (((s.pods.get p).sources.get src).mask &&& ~~~s.monitor.podMask p g == 0)) ∧
      (s.pods.get p).monitored y src hit well := by
  have drives := drives_evalSource idle unlisted src (s.monitor.podMask p f)
    (((s.pods.get p).sources.get src).mask &&& ~~~s.monitor.podMask p g == 0)
  rw [unrecorded] at drives
  refine ⟨_, drives, Pod.evaluated_follows _ _ (fun i named => ?_) (fun i named => ?_), fun _ other => Pod.evaluated_other _ other _ _ _,
    Pod.evaluated_latch _ _ _ _ _⟩
  · rw [getLsbD_podMask named, hits]
  · rw [getLsbD_podMask named, wells]

/-- Pod `p` measured by the monitor `m`: `x` before its sources are evaluated and `y` after. -/
def Monitor.drives (m : Monitor) (p : Fin 4) (x y : Pod) : Prop :=
  sourceFollows x.sources.overLimit y.sources.overLimit x.actions.overLimit (fun i => x.highLimit * 10 < (m.channel (8 * p.val + i)).last)
    (fun i => (m.channel (8 * p.val + i)).overRun = 3) ∧
  sourceFollows x.sources.under y.sources.under x.actions.under (fun i => (m.channel (8 * p.val + i)).last < x.lowLimit * 10)
    (fun i => (m.channel (8 * p.val + i)).underRun = 3) ∧
  sourceFollows x.sources.middle y.sources.middle x.actions.middle (fun i => x.middleCount ≤ (m.channel (8 * p.val + i)).middleRun)
    (fun i => (m.channel (8 * p.val + i)).middleRun = 0) ∧
  (y.latch = true ↔
    (x.latch = true ∨ isolates x.sources.overLimit y.sources.overLimit ∨ isolates x.sources.under y.sources.under ∨
      isolates x.sources.middle y.sources.middle))

/-- What one pod's evaluation makes of it: LOST and HOT stand, a pod the monitor does not measure stands, and a measured one follows its fields. -/
def Monitor.evaluates (m : Monitor) (p : Fin 4) (x y : Pod) : Prop :=
  y.sources.lost = x.sources.lost ∧ y.sources.hot = x.sources.hot ∧ (x.measured = false → y = x) ∧ (x.measured = true → m.drives p x y)

theorem evalPod_evaluates {s : State} {p : Fin 4} (idle : s.captureRuns = false) (unlisted : s.listed p = false) (unrecorded : s.recordingIndex = none) :
    ∃ y, Drives s p y (s.evalPod p) ∧ s.monitor.evaluates p (s.pods.get p) y := by
  cases measured : (s.pods.get p).measured with
  | false =>
    refine ⟨s.pods.get p, ?_, rfl, rfl, fun _ => rfl, fun yes => ?_⟩
    · simpa [State.evalPod, measured] using drives_nothing s p
    · simp [measured] at yes
  | true =>
    obtain ⟨y1, first, overFollows, overOthers, overLatch⟩ := evalSource_monitored idle unlisted unrecorded .overLimit
      (f := fun c => decide ((s.pods.get p).highLimit * 10 < c.last)) (g := fun c => c.overRun == 3)
      (fun i => decide_eq_true_iff) (fun i => beq_iff_eq)
    change Drives s p y1 (s.evalOver p) at first
    obtain ⟨y2, second, underFollows, underOthers, underLatch⟩ := evalSource_monitored (s := s.evalOver p) (first.captureRuns.trans idle)
      ((first.listed p).trans unlisted) (first.recording.trans unrecorded) .under
      (f := fun c => decide (c.last < ((s.evalOver p).pods.get p).lowLimit * 10)) (g := fun c => c.underRun == 3)
      (fun i => decide_eq_true_iff) (fun i => beq_iff_eq)
    change Drives _ p y2 ((s.evalOver p).evalUnder p) at second
    have both := first.trans second
    obtain ⟨y3, third, middleFollows, middleOthers, middleLatch⟩ := evalSource_monitored (s := (s.evalOver p).evalUnder p)
      (both.captureRuns.trans idle) ((both.listed p).trans unlisted) (both.recording.trans unrecorded) .middle
      (f := fun c => decide ((((s.evalOver p).evalUnder p).pods.get p).middleCount ≤ c.middleRun)) (g := fun c => c.middleRun == 0)
      (fun i => decide_eq_true_iff) (fun i => beq_iff_eq)
    change Drives _ p y3 (((s.evalOver p).evalUnder p).evalMiddle p) at third
    rw [first.monitor, first.pod] at underFollows
    rw [first.pod] at underOthers underLatch
    rw [both.monitor, both.pod] at middleFollows
    rw [both.pod] at middleOthers middleLatch
    have limits : y1.lowLimit = (s.pods.get p).lowLimit ∧ y1.actions = (s.pods.get p).actions := by rw [first.kept]; exact ⟨rfl, rfl⟩
    have counts : y2.middleCount = (s.pods.get p).middleCount ∧ y2.actions = (s.pods.get p).actions := by rw [both.kept]; exact ⟨rfl, rfl⟩
    rw [limits.1, limits.2] at underFollows
    rw [counts.1, counts.2] at middleFollows
    have overStays : y3.sources.get .overLimit = y1.sources.get .overLimit :=
      (middleOthers _ (by decide)).trans (underOthers _ (by decide))
    have underStays : y3.sources.get .under = y2.sources.get .under := middleOthers _ (by decide)
    have underBefore : y1.sources.get .under = (s.pods.get p).sources.get .under := overOthers _ (by decide)
    have middleBefore : y2.sources.get .middle = (s.pods.get p).sources.get .middle :=
      (underOthers _ (by decide)).trans (overOthers _ (by decide))
    have stays (src : FaultSource) (h : src ≠ .overLimit) (h' : src ≠ .under) (h'' : src ≠ .middle) :
        y3.sources.get src = (s.pods.get p).sources.get src :=
      (middleOthers _ h'').trans ((underOthers _ h').trans (overOthers _ h))
    have evaluated : s.evalPod p = ((s.evalOver p).evalUnder p).evalMiddle p := by simp [State.evalPod, measured]
    refine ⟨y3, evaluated ▸ both.trans third, stays .lost (by decide) (by decide) (by decide), stays .hot (by decide) (by decide) (by decide),
      fun no => by simp [measured] at no, fun _ => ⟨?_, ?_, ?_, ?_⟩⟩
    · rw [← overStays] at overFollows
      exact overFollows
    · rw [← underStays, underBefore] at underFollows
      exact underFollows
    · rw [middleBefore] at middleFollows
      exact middleFollows
    · rw [middleLatch, underLatch, overLatch, middleBefore, underBefore, ← underStays, ← overStays, or_assoc, or_assoc]
      rfl

/-- The pods of a list evaluated in turn: each is driven by its own fields, and a pod not in the list stands. -/
theorem evalPods_evaluates (l : List (Fin 4)) (once : l.Nodup) {s : State} (idle : s.captureRuns = false) (unlisted : ∀ p, s.listed p = false)
    (unrecorded : s.recordingIndex = none) :
    PodsDriven s (l.foldl (fun s p => s.evalPod p) s) ∧
      (∀ p, p ∉ l → (l.foldl (fun s p => s.evalPod p) s).pods.get p = s.pods.get p) ∧
      ∀ p, p ∈ l → s.monitor.evaluates p (s.pods.get p) ((l.foldl (fun s p => s.evalPod p) s).pods.get p) := by
  induction l generalizing s with
  | nil => exact ⟨podsDriven_nothing s, fun _ _ => rfl, fun _ none => absurd none List.not_mem_nil⟩
  | cons p rest ih =>
    obtain ⟨new, onceRest⟩ := List.nodup_cons.mp once
    obtain ⟨y, drives, evaluates⟩ := evalPod_evaluates idle (unlisted p) unrecorded
    obtain ⟨driven, outside, inside⟩ := ih onceRest (drives.captureRuns.trans idle) (fun q => (drives.listed q).trans (unlisted q))
      (drives.recording.trans unrecorded)
    rw [List.foldl_cons]
    refine ⟨drives.driven.trans driven, fun q out => ?_, fun q listed => ?_⟩
    · obtain ⟨other, outRest⟩ := not_or.mp (fun listed => out (List.mem_cons.mpr listed))
      rw [outside q outRest, drives.others other]
    · rcases List.mem_cons.mp listed with rfl | later
      · rw [outside q new, drives.pod]
        exact evaluates
      · have other : q ≠ p := fun same => new (same ▸ later)
        have follows := inside q later
        rw [drives.others other, drives.monitor] at follows
        exact follows

/-! ## The period's end -/

/-- Every byte that a step closing `u` keeps is kept from a state that differs from `u` neither in shared memory nor in the dispatcher. -/
theorem bytesKept_of_same {s u t : State} {written : Nat → Prop} (shared : u.shared = s.shared) (disp : u.disp = s.disp) (h : bytesKept u t written) :
    bytesKept s t written := by
  intro a range out outside
  rw [← shared]
  refine h a range out ?_
  unfold State.inPage at outside ⊢
  rwa [disp]

theorem exec_monitorPeriodExpiry_due {s : State} (due : atOrBefore s.monitor.expiry s.tick = true) (analog : List Int) :
    exec (.monitorPeriodExpiry analog) s = .next (s.monitorExpiry analog).finishEvents :=
  congrArg (fun u : State => Host.Outcome.next u.finishEvents) (if_pos due)

/-- The four pods evaluated, in their order. -/
def State.evalPods (s : State) : State := fourOrder.foldl (fun s p => s.evalPod p) s

theorem monitorExpiry_eq (s : State) (analog : List Int) : s.monitorExpiry analog = State.evalPods { s with monitor := s.measures analog } := by
  unfold State.monitorExpiry State.measures
  rfl

/-- With no take capturing and no capture run the four pods are evaluated, each on the fields of the monitor `m`. -/
theorem evalPods_withMonitor {s : State} (idle : s.captureRuns = false) (none : s.capIndex = none) (m : Monitor) :
    PodsDriven { s with monitor := m } (State.evalPods { s with monitor := m }) ∧
      ∀ p, m.evaluates p (s.pods.get p) ((State.evalPods { s with monitor := m }).pods.get p) := by
  obtain ⟨driven, -, evaluates⟩ := evalPods_evaluates fourOrder (by decide) (s := { s with monitor := m }) idle
    (listed_of_capIndex_none none) (recordingIndex_of_capIndex_none none)
  exact ⟨driven, fun p => evaluates p (by fin_cases p <;> decide)⟩

/-- A state to which nothing was done but that the monitor has become `m` and pods were driven. -/
theorem PodsDriven.unrecorded_monitor {s u : State} {m : Monitor} (none : s.capIndex = none) (h : PodsDriven { s with monitor := m } u) :
    u = { s with
      monitor := m
      pods := u.pods
      gens := u.gens
      alerts := u.alerts
      sampler := { s.sampler with givenLatched := u.sampler.givenLatched, wakingPods := u.sampler.wakingPods } } :=
  h.unrecorded (recordingIndex_of_capIndex_none none)

/-- What driving pods under a new monitor does, said of the state before. (Said for a monitor that stands as a variable, since the kernel, in comparing the states
before and after, would compare the two monitors by computing the next expiry.) -/
theorem PodsDriven.from_monitor {s u : State} {m : Monitor} (h : PodsDriven { s with monitor := m } u) :
    (∀ p, u.pods.get p = { s.pods.get p with sources := (u.pods.get p).sources, latch := (u.pods.get p).latch }) ∧
      ((∀ p, (u.pods.get p).latch = (s.pods.get p).latch) → u.gens = s.gens) ∧
      ∀ p, (s.pods.get p).latch = false → (u.pods.get p).latch = true → (u.gens.get (s.control p)).silent :=
  ⟨h.kept, h.gens, h.silenced⟩

/-- Settles O24: the measurements channel by channel, then the evaluation pod by pod. -/
theorem monitorMeasures : Obligations.MonitorMeasures := by
  intro s analog ready due none still
  have idle := captureRuns_of_not_running still
  obtain ⟨driven, evaluates⟩ := evalPods_withMonitor idle none (s.measures analog)
  rw [← monitorExpiry_eq] at driven evaluates
  have unrecorded := driven.unrecorded_monitor none
  obtain ⟨kept, gens, silenced⟩ := driven.from_monitor
  have closed : closedFrom (s.monitorExpiry analog) (s.monitorExpiry analog).finish := by
    refine finish_closes ?_
    have keeps := monitorExpiry_keeps s analog (Keeps.refl s)
    exact ⟨keeps.plan ready.1, keeps.shared ready.2⟩
  refine ⟨(s.monitorExpiry analog).finish, ?_, ?_, ?_, fun ch listed => ⟨fun off => ?_, fun on => ?_⟩, fun p => ?_, fun p => ?_, fun same => ?_, ?_, ?_, ?_,
    ?_, ?_, ?_, ?_, ?_, ?_⟩
  · rw [exec_monitorPeriodExpiry_due due, finishEvents_idle]
    rw [unrecorded]
    exact idle
  · rw [closed.monitor, unrecorded]
    exact Monitor.period_kept _ _ _
  · rw [closed.monitor, unrecorded, State.measures, Config.ticksPerMs]
  · rw [closed.monitor, unrecorded, channel_measures listed, (Pod.not_measured_iff _).mpr off]
    rfl
  · rw [closed.monitor, unrecorded, channel_measures listed, (Pod.measured_iff _).mpr on]
    simp [ChannelMon.measured, clipAnalog, satSucc_eq_min]
  · rw [closed.pods]
    exact kept p
  · obtain ⟨lost, hot, unmeasured, measured⟩ := evaluates p
    have monitor : (s.monitorExpiry analog).monitor = s.measures analog := by rw [unrecorded]
    rw [closed.pods, closed.monitor, closed.gens, monitor]
    refine ⟨lost, hot, fun off => unmeasured ((Pod.not_measured_iff _).mpr off), fun on => ?_⟩
    obtain ⟨limit, under, middle, latch⟩ := measured ((Pod.measured_iff _).mpr on)
    exact ⟨limit, under, middle, latch, silenced p⟩
  · rw [closed.pods] at same
    rw [closed.gens]
    exact gens same
  · rw [closed.sampler, unrecorded]
  · rw [closed.staging, unrecorded]
  · rw [closed.takes, unrecorded]
  · rw [closed.lanes, unrecorded]
  · rw [closed.seq, unrecorded]
  · rw [closed.slots, unrecorded]
  · rw [closed.panel, unrecorded]
  · rw [closed.disp, unrecorded]
  · exact bytesKept_of_same (by rw [unrecorded]) (by rw [unrecorded]) closed.2

end Sys2Proof.Machine
end

section
/-! PROOFS. The senses of a pod (spec/01): a probe that goes absent (O25). -/

namespace Sys2Proof.Machine

/-! ## A pair's members (R31) -/

theorem chained_oddOf (s : State) (g : Fin 4) : s.chained (oddOf g) = s.chained g := by
  fin_cases g <;> rfl

theorem evenOf_oddOf (g : Fin 4) : evenOf (oddOf g) = evenOf g := by
  fin_cases g <;> rfl

theorem control_of_unchained {s : State} {g : Fin 4} (h : s.chained g = false) : s.control g = g := by
  simp [State.control, h]

theorem control_of_chained {s : State} {g : Fin 4} (h : s.chained g = true) : s.control g = oddOf g := by
  simp [State.control, h]

/-- An unchained generator that is silenced: pending settings apply, and nothing else differs (R33). -/
theorem podSilences_unchained {s : State} {p : Fin 4} (h : s.chained p = false) :
    (s.podSilences p).gens = s.gens.set p { s.gens.get p with
      state := .silenced
      output := false
      counter := 0
      down := false
      periodsDone := 0
      applied := if (s.gens.get p).stagedPending then (s.gens.get p).staged else (s.gens.get p).applied
      stagedPending := false } := by
  have same : (s.unitApply p).chained p = false := h
  unfold State.podSilences State.silenceUnit
  rw [control_of_unchained h]
  simp only [State.setUnit, same, Bool.false_eq_true, if_false]
  simp [State.unitApply, h, Gen.applyPending]

/-- Of a pair that is silenced both members are SILENCED, and the output of the odd one is inactive (R31, R33). -/
theorem podSilences_chained {s : State} {p : Fin 4} (h : s.chained p = true) :
    ((s.podSilences p).gens.get (evenOf p)).state = .silenced ∧ ((s.podSilences p).gens.get (oddOf p)).silent := by
  unfold State.podSilences
  rw [control_of_chained h]
  refine ⟨?_, silenceUnit_silent s (oddOf p)⟩
  have same : (s.unitApply (oddOf p)).chained (oddOf p) = true := (chained_oddOf s p).trans h
  unfold State.silenceUnit
  rw [setUnit_gen, same, evenOf_oddOf]
  split
  · rfl
  · simp

/-! ## A change of the senses (R6, R13) -/

theorem exec_podSenseChange_off {s : State} {p : Fin 4} (off : (s.pods.get p).power = .off) (absent hot : Bool) :
    exec (.podSenseChange p absent hot) s = .next (s.senses p absent hot).finishEvents :=
  congrArg (fun u : State => Host.Outcome.next u.finishEvents) (if_pos off)

theorem exec_podSenseChange_powered {s : State} {p : Fin 4} (powered : (s.pods.get p).power ≠ .off) (absent hot : Bool) :
    exec (.podSenseChange p absent hot) s = .next ((s.senses p absent hot).evalSenses p).finishEvents :=
  congrArg (fun u : State => Host.Outcome.next u.finishEvents) (if_neg powered)

/-- A probe is absent and LOST inactive: LOST activates with all eight channels, and an inactive HOT stays so with the temperature normal. -/
theorem evalSenses_lost {s : State} {p : Fin 4} (absent : (s.pods.get p).probeAbsent = true) (cool : (s.pods.get p).hotSense = false)
    (inactive : (s.pods.get p).sources.lost.active = false)
    (hot : ((s.activate p .lost 0xFF).pods.get p).sources.hot.active = false) : s.evalSenses p = s.activate p .lost 0xFF := by
  have lost : s.evalSense p .lost true = s.activate p .lost 0xFF := by
    unfold State.evalSense
    exact if_pos (by rw [Bool.true_and, Bool.not_eq_true']; exact inactive)
  unfold State.evalSenses
  rw [absent, cool, lost]
  have hot' : (((s.activate p .lost 0xFF).pods.get p).sources.get .hot).active = false := hot
  unfold State.evalSense
  dsimp only
  rw [hot']
  rfl

/-! ## What an activation announces (R17, R20) -/

theorem raise_pod_cause (a : Alerts) : (a.raise .pod).causes.getLsbD Cause.pod.index = true := by
  simp [Alerts.raise, bit, Cause.index]

theorem announce_alerts {s : State} (idle : s.captureRuns = false) (p : Fin 4) (src : FaultSource) :
    ∃ a : Alerts, (s.announce p src).alerts = a.raise .pod := by
  rw [announce_idle idle]
  exact ⟨_, rfl⟩

theorem faultBegin_unrecorded {s : State} (h : s.recordingIndex = none) (t : Tick) (p : Fin 4) (src : FaultSource) (what : FaultAction × BitVec 8) :
    s.faultBegin t p src what = s := by
  unfold State.faultBegin
  rw [h]

theorem announce_alerts_unrecorded {s : State} (idle : s.captureRuns = false) (h : s.recordingIndex = none) (p : Fin 4) (src : FaultSource) :
    (s.announce p src).alerts = s.alerts.raise .pod := by
  rw [announce_idle idle, faultBegin_unrecorded h]
  rfl

theorem isolate_alerts (s : State) (p : Fin 4) (src : FaultSource) : (s.isolate p src).alerts = s.alerts := by
  unfold State.isolate
  dsimp only
  split <;> rfl

/-- With no take being recorded an activation raises POD above IGNORE (R20), and no other cause. -/
theorem actSource_alerts_unrecorded {s : State} {p : Fin 4} {src : FaultSource} (idle : s.captureRuns = false) (unrecorded : s.recordingIndex = none)
    (unlisted : s.listed p = false) :
    (s.actSource p src).alerts = if ((s.pods.get p).sources.get src).action = .ignore then s.alerts else s.alerts.raise .pod := by
  rcases ((s.pods.get p).sources.get src).action.cases3 with act | act | act
  · rw [actSource_ignore act, if_pos act]
  · have above : ((s.pods.get p).sources.get src).action ≠ .ignore := by
      intro same
      simp [same, FaultAction.masks] at act
    rw [actSource_masks idle (fun _ => unlisted) act, announce_alerts_unrecorded idle unrecorded, if_neg above]
  · have isolated := podWork_isolate s p src
    rw [actSource_isolate act, announce_alerts_unrecorded (isolated.captureRuns.trans idle) (isolated.recording.trans unrecorded), isolate_alerts,
      if_neg (by simp [act])]

/-- Staging has room for a record and the ANCHOR it may need (R41, R45). -/
theorem admits_of_room {s : State} (normal : s.staging.overflow = false) (room : s.staging.fill + 2 ≤ 4096) (t : Tick) (b : RecBody) :
    s.admits t b = true := by
  unfold State.admits Config.stagingSize
  rw [normal]
  have fits : s.staging.fill + (if s.needsAnchor t b then 2 else 1) ≤ 4096 := by split <;> omega
  simpa using fits

/-- A FAULT record that is admitted: staging gains it, and the take table stands. -/
theorem offer_fault_admitted {s : State} (normal : s.staging.overflow = false) (room : s.staging.fill + 2 ≤ 4096) (i : Nat) (t : Tick) (p : Fin 4)
    (src : FaultSource) (begins : Bool) (act : FaultAction) (m : BitVec 8) :
    (s.offer i t (.fault p src begins act m)).staging.records =
        s.staging.records ++ s.admitted (s.takeAt i).id (s.recordTime t) (.fault p src begins act m) ∧
      (s.offer i t (.fault p src begins act m)).takes = s.takes := by
  have ok := admits_of_room normal room (s.recordTime t) (.fault p src begins act m)
  unfold State.offer
  simp [RecBody.isAnchor, ok, State.stagingAdmitting]

/-- An announcement while a take is recorded and staging has room (R17). -/
theorem announce_recorded {s : State} {i : Nat} (idle : s.captureRuns = false) (recorded : s.recordingIndex = some i)
    (normal : s.staging.overflow = false) (room : s.staging.fill + 2 ≤ 4096) (p : Fin 4) (src : FaultSource) :
    (s.announce p src).staging.records = s.staging.records ++ s.admitted (s.takeAt i).id (s.recordTime s.intervalTime)
        (.fault p src true ((s.pods.get p).sources.get src).begins.1 ((s.pods.get p).sources.get src).begins.2) ∧
      (s.announce p src).takes = s.takes := by
  rw [announce_idle idle]
  unfold State.faultBegin
  rw [recorded]
  exact offer_fault_admitted (s := s.setSource p src _) normal room i s.intervalTime p src true _ _

/-! ## A probe that goes absent (R13, R14) -/

/-- The pod with its probe absent and its temperature normal. -/
def Pod.probeGone (x : Pod) : Pod := { x with probeAbsent := true, hotSense := false }

/-- The record of LOST as it activates: all eight channels, and the action of the table. -/
def Pod.lostRecord (x : Pod) : SourceRec := { x.sources.lost with active := true, mask := 0xFF, action := x.actions.lost }

/-- The part as LOST of pod `p` has activated. -/
def State.probeLost (s : State) (p : Fin 4) : State := (s.senses p true false).activate p .lost 0xFF

theorem senses_pod (s : State) (p : Fin 4) : (s.senses p true false).pods.get p = (s.pods.get p).probeGone := Four.get_set_same _ _ _

theorem probeLost_eq (s : State) (p : Fin 4) :
    s.probeLost p = ((s.senses p true false).setSource p .lost (s.pods.get p).lostRecord).actSource p .lost := by
  unfold State.probeLost State.activate
  rw [senses_pod]
  rfl

/-- Unless it ends a take, the loss of a probe drives its pod as the table's action says. -/
theorem probeLost_drives {s : State} {p : Fin 4} (idle : s.captureRuns = false)
    (goesOn : (s.pods.get p).actions.lost = .markAndEnd → s.listed p = false) :
    Drives (s.senses p true false) p ((s.pods.get p).probeGone.acted .lost (s.pods.get p).lostRecord s.recordingIndex.isSome) (s.probeLost p) := by
  rw [probeLost_eq, ← senses_pod]
  exact drives_act (s := s.senses p true false) idle .lost goesOn

/-- The loss of a probe of a powered pod: LOST activates, and the step closes. -/
theorem exec_probeLoss {s : State} {p : Fin 4} (powered : (s.pods.get p).power ≠ .off) (inactive : (s.pods.get p).sources.lost.active = false)
    (hot : ((s.probeLost p).pods.get p).sources.hot.active = false) (still : (s.probeLost p).captureRuns = false) :
    exec (.podSenseChange p true false) s = .next (s.probeLost p).finish := by
  have lost : (s.senses p true false).evalSenses p = s.probeLost p := by
    refine evalSenses_lost ?_ ?_ ?_ hot <;> rw [senses_pod]
    · rfl
    · rfl
    · exact inactive
  rw [exec_podSenseChange_powered powered, lost, finishEvents_idle still]

/-- The same where no take ends. -/
theorem exec_probeLoss_drives {s : State} {p : Fin 4} {recording : Bool} (idle : s.captureRuns = false) (powered : (s.pods.get p).power ≠ .off)
    (inactive : (s.pods.get p).sources.lost.active = false) (cool : (s.pods.get p).sources.hot.active = false)
    (drives : Drives (s.senses p true false) p ((s.pods.get p).probeGone.acted .lost (s.pods.get p).lostRecord recording) (s.probeLost p)) :
    exec (.podSenseChange p true false) s = .next (s.probeLost p).finish := by
  refine exec_probeLoss powered inactive ?_ (drives.captureRuns.trans idle)
  rw [drives.pod]
  exact cool

theorem probeLost_pods {s : State} {p : Fin 4} {y : Pod} (drives : Drives (s.senses p true false) p y (s.probeLost p)) :
    (s.probeLost p).pods = s.pods.set p y := by
  rw [drives.pods]
  exact Four.set_set _ _ _ _

/-- Every channel of a pod whose latch is set is unknown (R16). -/
theorem Pod.unknown_of_latch {x : Pod} (h : x.latch = true) : x.unknown = 0xFF := by
  simp [Pod.unknown, h]

/-- With no take capturing POD is raised above IGNORE (R20). -/
theorem probeLost_alerts {s : State} {p : Fin 4} (idle : s.captureRuns = false) (none : s.capIndex = none) :
    (s.probeLost p).alerts = if (s.pods.get p).actions.lost = .ignore then s.alerts else s.alerts.raise .pod := by
  have inForce : (((s.senses p true false).setSource p .lost (s.pods.get p).lostRecord).pods.get p).sources.get .lost = (s.pods.get p).lostRecord := by
    simp [State.setSource]
  have acts := actSource_alerts_unrecorded (s := (s.senses p true false).setSource p .lost (s.pods.get p).lostRecord) (src := .lost) idle
    (recordingIndex_of_capIndex_none none) (listed_of_capIndex_none none p)
  rw [inForce] at acts
  rw [probeLost_eq, acts]
  rfl

/-- What LOST does where no take ends and it does not isolate: its record, and no generator. -/
theorem probeLost_marks {s : State} {p : Fin 4} {recording : Bool} (act : (s.pods.get p).actions.lost ≠ .isolate)
    (drives : Drives (s.senses p true false) p ((s.pods.get p).probeGone.acted .lost (s.pods.get p).lostRecord recording) (s.probeLost p)) :
    (s.probeLost p).gens = s.gens := by
  have kept : ((s.pods.get p).probeGone.acted .lost (s.pods.get p).lostRecord recording).latch = (s.pods.get p).latch := by
    simp [Pod.acted, Pod.lostRecord, Pod.probeGone, act]
  rw [drives.gens, senses_pod, kept, if_neg]
  · rfl
  · rintro ⟨clear, set⟩
    exact absurd (clear.symm.trans set) Bool.false_ne_true

/-! ## The loss of a probe while a take is recorded (R17, R18, R77) -/

theorem recordingIndex_spec {s : State} {i : Nat} (h : s.recordingIndex = some i) :
    s.capIndex = some i ∧ (s.takeAt i).sampling = true ∧ (s.takeAt i).endReason = none := by
  unfold State.recordingIndex at h
  cases capturing : s.capIndex with
  | none => simp [capturing] at h
  | some j =>
    simp only [capturing] at h
    split at h
    · next goes =>
      obtain rfl := Option.some.inj h
      simpa using goes
    · simp at h

/-- Of what the admission of a record reads, `u` differs from `s` in nothing. -/
def offersAlike (s u : State) : Prop :=
  u.staging = s.staging ∧ u.takes = s.takes ∧ u.intervalTime = s.intervalTime ∧ u.recordTime = s.recordTime ∧ u.admitted = s.admitted

theorem isolate_offersAlike (s : State) (p : Fin 4) (src : FaultSource) : offersAlike s (s.isolate p src) := by
  unfold State.isolate
  dsimp only
  split <;> exact ⟨rfl, rfl, rfl, rfl, rfl⟩

/-- Staging with the FAULT begin of a lost probe admitted. -/
def State.lostBegun (s : State) (p : Fin 4) (i : Nat) : List Staged :=
  s.staging.records ++ s.admitted (s.takeAt i).id (s.recordTime s.intervalTime) (.fault p .lost true (s.pods.get p).actions.lost 0xFF)

/-- The part with LOST of pod `p` in force, before its action is carried out. -/
def State.lostInForce (s : State) (p : Fin 4) : State := (s.senses p true false).setSource p .lost (s.pods.get p).lostRecord

theorem lostInForce_offersAlike (s : State) (p : Fin 4) : offersAlike s (s.lostInForce p) := ⟨rfl, rfl, rfl, rfl, rfl⟩

theorem probeLost_acts (s : State) (p : Fin 4) : s.probeLost p = (s.lostInForce p).actSource p .lost := probeLost_eq s p

theorem lostInForce_pod (s : State) (p : Fin 4) : (s.lostInForce p).pods.get p = (s.pods.get p).probeGone.withSource .lost (s.pods.get p).lostRecord := by
  unfold State.lostInForce
  rw [(drives_setSource _ p .lost _).pod, senses_pod]

theorem lostInForce_source (s : State) (p : Fin 4) : ((s.lostInForce p).pods.get p).sources.get .lost = (s.pods.get p).lostRecord := by
  rw [lostInForce_pod, Pod.withSource_sources, Five.get_set_same]

/-- The announcement of a lost probe while a take is recorded: its FAULT begin for all eight channels, and the take table stands (R17). -/
theorem announce_lost {s u : State} {p : Fin 4} {i : Nat} (alike : offersAlike s u) (idle : u.captureRuns = false) (recorded : u.recordingIndex = some i)
    (normal : s.staging.overflow = false) (room : s.staging.fill + 2 ≤ 4096)
    (action : ((u.pods.get p).sources.get .lost).action = (s.pods.get p).actions.lost) (mask : ((u.pods.get p).sources.get .lost).mask = 0xFF) :
    (u.announce p .lost).staging.records = s.lostBegun p i ∧ (u.announce p .lost).takes = s.takes := by
  obtain ⟨staging, takes, interval, time, admitted⟩ := alike
  have announced := announce_recorded idle recorded (by rw [staging]; exact normal) (by rw [staging]; exact room) p .lost
  have entry : u.takeAt i = s.takeAt i := by
    unfold State.takeAt
    rw [takes]
  have begins : ((u.pods.get p).sources.get .lost).begins = ((s.pods.get p).actions.lost, 0xFF) := by
    simp [SourceRec.begins, action, mask]
  rw [begins, staging, takes, interval, time, admitted, entry] at announced
  exact announced

/-- The announcement of a lost probe whose pod is not isolated first. -/
theorem announce_lostInForce {s : State} {i : Nat} (idle : s.captureRuns = false) (recorded : s.recordingIndex = some i)
    (normal : s.staging.overflow = false) (room : s.staging.fill + 2 ≤ 4096) (p : Fin 4) :
    ((s.lostInForce p).announce p .lost).staging.records = s.lostBegun p i ∧ ((s.lostInForce p).announce p .lost).takes = s.takes :=
  announce_lost (lostInForce_offersAlike s p) idle recorded normal room (by rw [lostInForce_source]; rfl) (by rw [lostInForce_source]; rfl)

/-- A lost probe at MARK is announced. -/
theorem probeLost_mark {s : State} {p : Fin 4} (idle : s.captureRuns = false) (act : (s.pods.get p).actions.lost = .mark) :
    s.probeLost p = (s.lostInForce p).announce p .lost := by
  have action : (((s.lostInForce p).pods.get p).sources.get .lost).action = .mark := by
    rw [lostInForce_source]
    exact act
  rw [probeLost_acts]
  exact actSource_masks (s := s.lostInForce p) idle (fun ends => absurd (action.symm.trans ends) (by decide)) (by rw [action]; rfl)

/-- A lost probe at ISOLATE isolates its pod and is announced. -/
theorem probeLost_isolate {s : State} {p : Fin 4} (act : (s.pods.get p).actions.lost = .isolate) :
    s.probeLost p = ((s.lostInForce p).isolate p .lost).announce p .lost := by
  rw [probeLost_acts, actSource_isolate]
  rw [lostInForce_source]
  exact act

/-- A lost probe at MARK or ISOLATE while a take is recorded (R17). -/
theorem probeLost_recorded {s : State} {p : Fin 4} {i : Nat} (idle : s.captureRuns = false) (recorded : s.recordingIndex = some i)
    (normal : s.staging.overflow = false) (room : s.staging.fill + 2 ≤ 4096)
    (act : (s.pods.get p).actions.lost = .mark ∨ (s.pods.get p).actions.lost = .isolate) :
    (s.probeLost p).staging.records = s.lostBegun p i ∧ (s.probeLost p).takes = s.takes ∧
      (s.probeLost p).alerts.causes.getLsbD Cause.pod.index = true := by
  rcases act with act | act
  · obtain ⟨records, takes⟩ := announce_lostInForce idle recorded normal room p
    obtain ⟨a, raised⟩ := announce_alerts (s := s.lostInForce p) idle p .lost
    rw [probeLost_mark idle act]
    exact ⟨records, takes, by rw [raised]; exact raise_pod_cause a⟩
  · have isolated := drives_isolate (s.lostInForce p) p .lost
    have still := isolated.captureRuns.trans idle
    have source : (((s.lostInForce p).isolate p .lost).pods.get p).sources.get .lost = { (s.pods.get p).lostRecord with holdsLatch := true } := by
      rw [isolated.pod, Pod.isolatedBy, lostInForce_source]
      dsimp only
      exact Five.get_set_same _ _ _
    obtain ⟨records, takes⟩ := announce_lost (isolate_offersAlike (s.lostInForce p) p .lost) still (isolated.recording.trans recorded)
      normal room (by rw [source, lostInForce_pod]; rfl) (by rw [source]; rfl)
    obtain ⟨a, raised⟩ := announce_alerts still p .lost
    rw [probeLost_isolate act]
    refine ⟨?_, takes, by rw [raised]; exact raise_pod_cause a⟩
    rw [records]
    unfold State.lostBegun
    rw [lostInForce_pod]
    rfl

/-! ## A take that MARK AND END ends (R18, R77) -/

theorem markEnds_listed {s : State} {i : Nat} {p : Fin 4} (idle : s.captureRuns = false) (capturing : s.capIndex = some i)
    (listed : podIn p (s.takeAt i).channels = true) : s.markEnds p 0xFF = s.endTake i .faulted := by
  have meets : ((0xFF : BitVec 8) &&& podBits p (s.takeAt i).channels != 0) = true := by
    rw [show (0xFF : BitVec 8) = BitVec.allOnes 8 from rfl, BitVec.allOnes_and]
    exact listed
  unfold State.markEnds
  rw [capturing]
  dsimp only
  rw [if_pos meets, seqFlushEnding_idle idle]

theorem detachLanes_unattached {s : State} (h : ∀ k : Fin 4, (s.lanes.get k).attached = 0) (t : Tick) : s.detachLanes t = s := by
  have stays (k : Fin 4) : s.detachLane t k = s := by
    unfold State.detachLane
    rw [if_pos (h k)]
  simp [State.detachLanes, fourOrder, stays]

/-- The part as the take of entry `i`, in PRETRIG or POSTTRIG with no lane attached, has taken the ending FAULTED. -/
def State.faultEnding (s : State) (i : Nat) : State :=
  { s with
    seq := s.seq.atTakeEnd (s.takeAt i).id
    takes := { s.takes with
      entries := putAt s.takes.entries i { s.takeAt i with endReason := some .faulted, endTime := s.intervalTime, openPods := s.openFaultPods } }
    sampler := s.sampler.stopped
    pods := s.podsAtEnd (s.takeAt i).channels }

/-- An ending that leaves staged records to drain settles nothing yet (R77). -/
theorem endTake_faulted_drains {s : State} {i : Nat} (sampling : (s.takeAt i).sampling = true) (goesOn : (s.takeAt i).endReason = none)
    (unattached : ∀ k : Fin 4, (s.lanes.get k).attached = 0) (staged : s.staging.records ≠ []) (places : s.placesLeft ≠ 0) :
    s.endTake i .faulted = s.faultEnding i := by
  have capturing : (s.takeAt i).capturing = true := by
    unfold Take.sampling at sampling
    unfold Take.capturing
    rw [Bool.or_assoc, sampling, Bool.or_true]
  have started : (s.takeAt i).state ≠ .waiting := by
    intro waits
    simp [Take.sampling, waits] at sampling
  have ending : s.takeEnding i .faulted = s.faultEnding i := by
    unfold State.takeEnding
    dsimp only
    rw [detachLanes_unattached (s := { s with seq := s.seq.atTakeEnd (s.takeAt i).id }) unattached, if_neg started, State.endingTime, if_neg started]
    rfl
  have left : (s.faultEnding i).settleIfDrained i = s.faultEnding i := by
    have notDrained : ((s.faultEnding i).staging.records.isEmpty || (s.faultEnding i).placesLeft == 0) = false := by
      rw [Bool.or_eq_false_iff, List.isEmpty_eq_false_iff]
      exact ⟨staged, beq_false_of_ne places⟩
    unfold State.settleIfDrained
    rw [notDrained]
    rfl
  unfold State.endTake
  rw [capturing, goesOn, if_neg (by simp)]
  dsimp only
  rw [ending, if_neg started, left]

theorem getLsbD_maskOf4 (f : Fin 4 → Bool) (p : Fin 4) : (maskOf4 f).getLsbD p.val = f p := by
  have flags : ∀ b0 b1 b2 b3 : Bool, ∀ p : Fin 4,
      (BitVec.ofNat 4 (bnat b0 + 2 * bnat b1 + 4 * bnat b2 + 8 * bnat b3)).getLsbD p.val = [b0, b1, b2, b3].get p := by decide
  unfold maskOf4
  rw [flags]
  fin_cases p <;> rfl

/-- A pod with an open record is named in the mask of open faults (R17). -/
theorem openFaultPods_of_open {s : State} {p : Fin 4} {src : FaultSource} (h : ((s.pods.get p).sources.get src).openRec.isSome = true) :
    s.openFaultPods.getLsbD p.val = true := by
  unfold State.openFaultPods
  rw [getLsbD_maskOf4]
  unfold Pod.openFault
  rw [Bool.or_eq_true, List.any_eq_true]
  exact Or.inr ⟨_, by cases src <;> simp [Five.toList, Five.get], h⟩

theorem podsAtEnd_get (s : State) (m : Chans) (p : Fin 4) : (s.podsAtEnd m).get p = (s.pods.get p).atTakeEnd p m s.tick := by
  fin_cases p <;> rfl

/-- The end of a take concerns a pod's comparator set, its wake timer and its open records. -/
theorem Pod.atTakeEnd_kept (x : Pod) (p : Fin 4) (m : Chans) (now : Tick) :
    (x.atTakeEnd p m now).sources = x.closeRecords.sources ∧ (x.atTakeEnd p m now).latch = x.latch ∧ (x.atTakeEnd p m now).power = x.power ∧
      (x.atTakeEnd p m now).warmTimer = x.warmTimer := by
  have applied (y : Pod) : y.applyStaged.sources = y.sources ∧ y.applyStaged.latch = y.latch ∧ y.applyStaged.power = y.power ∧
      y.applyStaged.warmTimer = y.warmTimer := by
    unfold Pod.applyStaged
    split <;> exact ⟨rfl, rfl, rfl, rfl⟩
  have woken (y : Pod) : (y.wakes now).sources = y.sources ∧ (y.wakes now).latch = y.latch ∧ (y.wakes now).power = y.power ∧
      (y.wakes now).warmTimer = y.warmTimer := by
    unfold Pod.wakes
    split <;> exact ⟨rfl, rfl, rfl, rfl⟩
  obtain ⟨sources, latch, power, timer⟩ := applied x.closeRecords
  unfold Pod.atTakeEnd
  split
  · obtain ⟨sources', latch', power', timer'⟩ := woken x.closeRecords.applyStaged
    exact ⟨sources'.trans sources, latch'.trans latch, power'.trans power, timer'.trans timer⟩
  · exact ⟨sources, latch, power, timer⟩

theorem admitted_ne_nil (s : State) (id : Nat) (t : Tick) (b : RecBody) : s.admitted id t b ≠ [] := by
  unfold State.admitted
  split <;> exact List.cons_ne_nil _ _

theorem takeAt_congr {s u : State} (h : u.takes = s.takes) (i : Nat) : u.takeAt i = s.takeAt i := by
  unfold State.takeAt
  rw [h]

theorem capIndex_congr {s u : State} (h : u.takes = s.takes) : u.capIndex = s.capIndex := by
  unfold State.capIndex
  rw [h]

/-- A lost probe at MARK AND END of a listed pod, with no lane attached: the take's ending is taken, and its records are left to drain. -/
theorem probeLost_markAndEnd {s : State} {p : Fin 4} {i : Nat} (idle : s.captureRuns = false) (recorded : s.recordingIndex = some i)
    (normal : s.staging.overflow = false) (room : s.staging.fill + 2 ≤ 4096) (act : (s.pods.get p).actions.lost = .markAndEnd)
    (listed : podIn p (s.takeAt i).channels = true) (unattached : ∀ k : Fin 4, (s.lanes.get k).attached = 0) (places : s.placesLeft ≠ 0) :
    s.probeLost p = ((s.lostInForce p).announce p .lost).faultEnding i := by
  obtain ⟨capturing, sampling, goesOn⟩ := recordingIndex_spec recorded
  obtain ⟨records, takes⟩ := announce_lostInForce idle recorded normal room p
  have work := podWork_announce (s := s.lostInForce p) idle p .lost
  have entry := takeAt_congr takes i
  have left : ((s.lostInForce p).announce p .lost).placesLeft = s.placesLeft := by
    unfold State.placesLeft
    rw [work.writer, work.pool]
    rfl
  have ends : (s.lostInForce p).actSource p .lost = ((s.lostInForce p).announce p .lost).markEnds p 0xFF := by
    unfold State.actSource
    rw [lostInForce_source]
    simp only [Pod.lostRecord, act]
  rw [probeLost_acts, ends, markEnds_listed (work.captureRuns.trans idle) ((capIndex_congr takes).trans capturing) (by rw [entry]; exact listed)]
  refine endTake_faulted_drains (by rw [entry]; exact sampling) (by rw [entry]; exact goesOn) (fun k => ?_) ?_ (by rw [left]; exact places)
  · rw [work.lanes]
    exact unattached k
  · rw [records]
    exact List.append_ne_nil_of_right_ne_nil _ (admitted_ne_nil _ _ _ _)

/-- The entry of a take that was being recorded, after an ending FAULTED, and every other entry. -/
theorem faultEnding_takeAt {s : State} {i : Nat} (sampling : (s.takeAt i).sampling = true) (j : Nat) :
    (s.faultEnding i).takeAt j =
      if j = i then { s.takeAt i with endReason := some .faulted, endTime := s.intervalTime, openPods := s.openFaultPods } else s.takeAt j := by
  have present : i < s.takes.entries.length := by
    by_contra past
    have reset : s.takeAt i = Take.reset := List.getD_eq_default _ _ (Nat.le_of_not_lt past)
    rw [reset] at sampling
    exact absurd sampling (by decide)
  refine (setTake_takeAt s i j _).trans ?_
  by_cases same : j = i
  · subst same
    simp [present]
  · simp [same]

theorem faultEnding_captureRuns {s : State} (h : s.seq.state ≠ .running) (i : Nat) : (s.faultEnding i).captureRuns = false := by
  refine captureRuns_of_not_running ?_
  change (s.seq.atTakeEnd (s.takeAt i).id).state ≠ .running
  unfold Sequencer.atTakeEnd
  split
  · exact fun running => by cases running
  · exact h

theorem faultEnding_pod (s : State) (i : Nat) (p : Fin 4) :
    (s.faultEnding i).pods.get p = (s.pods.get p).atTakeEnd p (s.takeAt i).channels s.tick :=
  podsAtEnd_get s _ p

theorem announce_gens {s : State} (idle : s.captureRuns = false) (p : Fin 4) (src : FaultSource) : (s.announce p src).gens = s.gens := by
  rw [(drives_announce idle p src).gens, if_neg]
  rintro ⟨clear, set⟩
  exact absurd (clear.symm.trans set) Bool.false_ne_true

/-- The pod once LOST has activated, written out. -/
theorem acted_lost (x : Pod) (recording : Bool) :
    x.probeGone.acted .lost x.lostRecord recording = { x with
      probeAbsent := true
      hotSense := false
      latch := x.latch || x.actions.lost == .isolate
      sources := { x.sources with lost := { x.lostRecord with
        openRec := if recording && x.actions.lost != .ignore then some x.actions.lost else x.sources.lost.openRec
        holdsLatch := x.sources.lost.holdsLatch || x.actions.lost == .isolate } } } := rfl

/-! ## What a change of the senses leaves alone -/

/-- Of the units that are neither a pod, a generator, the sampler, the sequencer nor the take being recorded, `t` differs from `s` in nothing, and memory
outside the page is as it was. -/
structure Bystanders (s t : State) : Prop where
  lanes : t.lanes = s.lanes
  writer : t.writer = s.writer
  blocks : t.pool.blocks = s.pool.blocks
  free : t.pool.free = s.pool.free
  monitor : t.monitor = s.monitor
  slots : t.slots = s.slots
  panel : t.panel = s.panel
  disp : t.disp = s.disp
  bytes : bytesKept s t storesNothing

theorem Bystanders.trans {s u t : State} (h : Bystanders s u) (g : Bystanders u t) : Bystanders s t where
  lanes := g.lanes.trans h.lanes
  writer := g.writer.trans h.writer
  blocks := g.blocks.trans h.blocks
  free := g.free.trans h.free
  monitor := g.monitor.trans h.monitor
  slots := g.slots.trans h.slots
  panel := g.panel.trans h.panel
  disp := g.disp.trans h.disp
  bytes a range out outside := by
    have outside' : ¬ u.inPage a := by
      unfold State.inPage at outside ⊢
      rwa [h.disp]
    exact (g.bytes a range out outside').trans (h.bytes a range out outside)

theorem senses_bystanders (s : State) (p : Fin 4) (absent hot : Bool) : Bystanders s (s.senses p absent hot) :=
  ⟨rfl, rfl, rfl, rfl, rfl, rfl, rfl, rfl, fun _ _ _ _ => rfl⟩

theorem lostInForce_bystanders (s : State) (p : Fin 4) : Bystanders s (s.lostInForce p) :=
  ⟨rfl, rfl, rfl, rfl, rfl, rfl, rfl, rfl, fun _ _ _ _ => rfl⟩

theorem faultEnding_bystanders (s : State) (i : Nat) : Bystanders s (s.faultEnding i) :=
  ⟨rfl, rfl, rfl, rfl, rfl, rfl, rfl, rfl, fun _ _ _ _ => rfl⟩

theorem PodWork.bystanders {s u : State} (h : PodWork s u) : Bystanders s u where
  lanes := h.lanes
  writer := h.writer
  blocks := congrArg Pool.blocks h.pool
  free := congrArg Pool.free h.pool
  monitor := h.monitor
  slots := h.slots
  panel := h.panel
  disp := h.disp
  bytes a _ _ _ := by rw [h.shared]

theorem bystanders_of_closedFrom {u t : State} (closed : closedFrom u t) : Bystanders u t where
  lanes := closed.lanes
  writer := closed.writer
  blocks := closed.pool_blocks
  free := closed.pool_free
  monitor := closed.monitor
  slots := closed.slots
  panel := closed.panel
  disp := closed.disp
  bytes := closed.2

/-! ## The loss of a probe, case by case -/

section
variable {s : State} {p : Fin 4} (ready : s.ready) (still : s.seq.state ≠ .running)

include ready in
/-- A lost probe that ends no take: the step closes the pod's own work. -/
theorem probeLost_closed {y : Pod} (drives : Drives (s.senses p true false) p y (s.probeLost p)) :
    closedFrom (s.probeLost p) (s.probeLost p).finish ∧ Bystanders s (s.probeLost p).finish ∧ (s.probeLost p).finish.seq = s.seq := by
  have closed := finish_closes (drives.toPodWork.ready (s := s.senses p true false) ready)
  exact ⟨closed, (senses_bystanders s p true false).trans (drives.toPodWork.bystanders.trans (bystanders_of_closedFrom closed)),
    closed.seq.trans drives.toPodWork.seq⟩

include ready still

/-- With no take capturing neither the take table nor staging is touched. -/
theorem probeLost_unrecorded (none : s.capIndex = none) :
    (s.probeLost p).finish.takes = s.takes ∧ (s.probeLost p).finish.staging = s.staging := by
  have drives := probeLost_drives (captureRuns_of_not_running still) (fun _ => listed_of_capIndex_none none p)
  have unrecorded : s.recordingIndex = .none := recordingIndex_of_capIndex_none none
  obtain ⟨closed, -, -⟩ := probeLost_closed ready drives
  exact ⟨closed.takes.trans (drives.toPodWork.takes unrecorded), closed.staging.trans (drives.toPodWork.staging unrecorded)⟩

/-- With no take capturing, and LOST below ISOLATE. -/
theorem probeLost_below_isolate (none : s.capIndex = none) (act : (s.pods.get p).actions.lost ≠ .isolate) :
    (s.probeLost p).finish.pods = s.pods.set p { (s.pods.get p).probeGone with
        sources := { (s.pods.get p).sources with lost := (s.pods.get p).lostRecord } } ∧
      (s.probeLost p).finish.alerts = (if (s.pods.get p).actions.lost = .ignore then s.alerts else s.alerts.raise .pod) ∧
      (s.probeLost p).finish.gens = s.gens := by
  have idle := captureRuns_of_not_running still
  have unrecorded : s.recordingIndex = .none := recordingIndex_of_capIndex_none none
  have drives := probeLost_drives idle (fun _ => listed_of_capIndex_none none p)
  obtain ⟨closed, -, -⟩ := probeLost_closed ready drives
  refine ⟨?_, closed.alerts.trans (probeLost_alerts idle none), closed.gens.trans (probeLost_marks act drives)⟩
  rw [closed.pods, probeLost_pods drives, acted_lost, unrecorded, beq_false_of_ne act]
  simp [Pod.lostRecord, Pod.probeGone]

/-- With no take capturing, and LOST at ISOLATE: the latch sets, and one that was clear silences the generator of the connector (R19, R33). -/
theorem probeLost_at_isolate (none : s.capIndex = none) (act : (s.pods.get p).actions.lost = .isolate) :
    (s.probeLost p).finish.pods = s.pods.set p { (s.pods.get p).probeGone with
        latch := true, sources := { (s.pods.get p).sources with lost := { (s.pods.get p).lostRecord with holdsLatch := true } } } ∧
      (s.probeLost p).finish.alerts = s.alerts.raise .pod ∧
      (s.probeLost p).finish.gens = if (s.pods.get p).latch = false then (s.podSilences p).gens else s.gens := by
  have idle := captureRuns_of_not_running still
  have unrecorded : s.recordingIndex = .none := recordingIndex_of_capIndex_none none
  have drives := probeLost_drives idle (fun _ => listed_of_capIndex_none none p)
  obtain ⟨closed, -, -⟩ := probeLost_closed ready drives
  have latch : ((s.pods.get p).probeGone.acted .lost (s.pods.get p).lostRecord s.recordingIndex.isSome).latch = true := by
    simp [acted_lost, act]
  have gens := drives.gens
  rw [senses_pod, latch] at gens
  refine ⟨?_, ?_, ?_⟩
  · rw [closed.pods, probeLost_pods drives, acted_lost, unrecorded]
    simp [Pod.lostRecord, Pod.probeGone, act]
  · rw [closed.alerts, probeLost_alerts idle none, act]
    rfl
  · rw [closed.gens, gens]
    simp only [and_true]
    rfl

/-- At MARK or ISOLATE while a take is recorded and staging has room. -/
theorem probeLost_begins {i : Nat} (recorded : s.recordingIndex = some i) (normal : s.staging.overflow = false) (room : s.staging.fill + 2 ≤ 4096)
    (act : (s.pods.get p).actions.lost = .mark ∨ (s.pods.get p).actions.lost = .isolate)
    (drives : Drives (s.senses p true false) p ((s.pods.get p).probeGone.acted .lost (s.pods.get p).lostRecord s.recordingIndex.isSome) (s.probeLost p)) :
    (s.probeLost p).finish.staging.records = s.lostBegun p i ∧ (s.probeLost p).finish.takes = s.takes ∧
      (s.probeLost p).finish.alerts.causes.getLsbD Cause.pod.index = true ∧
      ((s.probeLost p).finish.pods.get p).sources.lost = { (s.pods.get p).lostRecord with
        openRec := some (s.pods.get p).actions.lost
        holdsLatch := (s.pods.get p).sources.lost.holdsLatch || (s.pods.get p).actions.lost == .isolate } ∧
      ((s.probeLost p).finish.pods.get p).latch = ((s.pods.get p).latch || (s.pods.get p).actions.lost == .isolate) := by
  obtain ⟨closed, -, -⟩ := probeLost_closed ready drives
  obtain ⟨records, takes, raised⟩ := probeLost_recorded (captureRuns_of_not_running still) recorded normal room act
  have above : ((s.pods.get p).actions.lost != .ignore) = true := by rcases act with act | act <;> simp [act]
  refine ⟨?_, closed.takes.trans takes, ?_, ?_, ?_⟩
  · rw [closed.staging, records]
  · rw [closed.alerts]
    exact raised
  · rw [closed.pods, drives.pod, acted_lost, recorded, above]
    rfl
  · rw [closed.pods, drives.pod]
    rfl

end

section
variable {s : State} {p : Fin 4} {i : Nat} (ready : s.ready) (still : s.seq.state ≠ .running)

/-- LOST of a listed pod at MARK AND END announced, and the ending of its take taken. -/
def State.lostEnding (s : State) (p : Fin 4) (i : Nat) : State := ((s.lostInForce p).announce p .lost).faultEnding i

/-- The entry of the take that ends, and the other entries. -/
theorem lostEnding_takeAt (idle : s.captureRuns = false) (recorded : s.recordingIndex = some i) (normal : s.staging.overflow = false)
    (room : s.staging.fill + 2 ≤ 4096) (j : Nat) :
    (s.lostEnding p i).takeAt j = if j = i then { s.takeAt i with
        endReason := some .faulted
        endTime := ((s.lostInForce p).announce p .lost).intervalTime
        openPods := ((s.lostInForce p).announce p .lost).openFaultPods } else s.takeAt j := by
  obtain ⟨-, sampling, -⟩ := recordingIndex_spec recorded
  obtain ⟨-, takes⟩ := announce_lostInForce idle recorded normal room p
  have entry := takeAt_congr takes
  unfold State.lostEnding
  rw [faultEnding_takeAt (by rw [entry]; exact sampling), entry, entry]

/-- Its record of LOST was open as the ending was taken. -/
theorem lostEnding_open (idle : s.captureRuns = false) (recorded : s.recordingIndex = some i) :
    ((s.lostInForce p).announce p .lost).openFaultPods.getLsbD p.val = true := by
  refine openFaultPods_of_open (src := .lost) ?_
  rw [(drives_announce (s := s.lostInForce p) idle p .lost).pod, Pod.withSource_sources, Five.get_set_same,
    show (s.lostInForce p).recordingIndex = some i from recorded]
  rfl

/-- The end of the take closes the record of LOST, and leaves HOT and the latch. -/
theorem lostEnding_pod (idle : s.captureRuns = false) :
    ((s.lostEnding p i).pods.get p).sources.lost = { (s.pods.get p).lostRecord with openRec := none } ∧
      ((s.lostEnding p i).pods.get p).sources.hot.active = (s.pods.get p).sources.hot.active ∧
      ((s.lostEnding p i).pods.get p).latch = (s.pods.get p).latch := by
  obtain ⟨sources, latch, -, -⟩ := Pod.atTakeEnd_kept (((s.lostInForce p).announce p .lost).pods.get p) p
    (((s.lostInForce p).announce p .lost).takeAt i).channels ((s.lostInForce p).announce p .lost).tick
  unfold State.lostEnding
  rw [faultEnding_pod, sources, latch, (drives_announce (s := s.lostInForce p) idle p .lost).pod, lostInForce_source, lostInForce_pod]
  exact ⟨rfl, rfl, rfl⟩

/-- What the announcement and the ending leave of staging, the alerts and the generators. -/
theorem lostEnding_announced (idle : s.captureRuns = false) (recorded : s.recordingIndex = some i) (normal : s.staging.overflow = false)
    (room : s.staging.fill + 2 ≤ 4096) :
    (s.lostEnding p i).staging.records = s.lostBegun p i ∧ (s.lostEnding p i).alerts.causes.getLsbD Cause.pod.index = true ∧
      (s.lostEnding p i).gens = s.gens := by
  obtain ⟨records, -⟩ := announce_lostInForce idle recorded normal room p
  obtain ⟨a, raised⟩ := announce_alerts (s := s.lostInForce p) idle p .lost
  have raises : ((s.lostInForce p).announce p .lost).alerts.causes.getLsbD Cause.pod.index = true := by
    rw [raised]
    exact raise_pod_cause a
  exact ⟨records, raises, announce_gens (s := s.lostInForce p) idle p .lost⟩

include ready still

/-- The step that takes the ending. -/
theorem exec_probeLoss_faulted (powered : (s.pods.get p).power ≠ .off) (inactive : (s.pods.get p).sources.lost.active = false)
    (cool : (s.pods.get p).sources.hot.active = false) (ends : s.probeLost p = s.lostEnding p i) :
    exec (.podSenseChange p true false) s = .next (s.lostEnding p i).finish ∧ closedFrom (s.lostEnding p i) (s.lostEnding p i).finish ∧
      Bystanders s (s.lostEnding p i).finish := by
  have idle := captureRuns_of_not_running still
  have work := podWork_announce (s := s.lostInForce p) idle p .lost
  have closed : closedFrom (s.lostEnding p i) (s.lostEnding p i).finish := finish_closes (work.ready (s := s.lostInForce p) ready)
  obtain ⟨-, hot, -⟩ := lostEnding_pod (p := p) (i := i) idle
  have step := exec_probeLoss powered inactive (by rw [ends, hot]; exact cool)
    (by rw [ends]; exact faultEnding_captureRuns (by rw [work.seq]; exact still) i)
  rw [ends] at step
  exact ⟨step, closed, (lostInForce_bystanders s p).trans (work.bystanders.trans ((faultEnding_bystanders _ i).trans (bystanders_of_closedFrom closed)))⟩

end

/-- Settles O25: the senses of an OFF pod; then by whether a take is capturing, and by the action. -/
theorem probeLossActivates : Obligations.ProbeLossActivates := by
  intro s p ready still
  have idle := captureRuns_of_not_running still
  refine ⟨fun absent hot off => ?_, fun powered inactive cool => ⟨fun none act => ?_, fun none act => ?_, fun i recorded normal room => ⟨fun act => ?_,
    fun act listed unattached places => ?_⟩⟩⟩
  · rw [exec_podSenseChange_off off, finishEvents_idle (s := s.senses p absent hot) idle]
    exact ⟨_, rfl, finish_closes (u := s.senses p absent hot) ready⟩
  · have drives := probeLost_drives idle (fun _ => listed_of_capIndex_none none p)
    obtain ⟨-, stands, seq⟩ := probeLost_closed ready drives
    obtain ⟨takes, staging⟩ := probeLost_unrecorded ready still none
    obtain ⟨pods, alerts, gens⟩ := probeLost_below_isolate ready still none act
    exact ⟨_, exec_probeLoss_drives idle powered inactive cool drives, pods, alerts, gens, stands.lanes, takes, stands.monitor, staging, seq, stands.slots,
      stands.panel, stands.disp, stands.bytes⟩
  · have drives := probeLost_drives idle (fun _ => listed_of_capIndex_none none p)
    obtain ⟨-, stands, seq⟩ := probeLost_closed ready drives
    obtain ⟨takes, staging⟩ := probeLost_unrecorded ready still none
    obtain ⟨pods, alerts, gens⟩ := probeLost_at_isolate ready still none act
    refine ⟨_, exec_probeLoss_drives idle powered inactive cool drives, pods, ?_, alerts, fun set => ?_, fun clear single => ?_, fun clear pair => ?_,
      stands.lanes, takes, stands.monitor, staging, seq, stands.slots, stands.panel, stands.disp, stands.bytes⟩
    · rw [pods, Four.get_set_same]
      exact Pod.unknown_of_latch rfl
    · rw [gens, if_neg (by simp [set])]
    · rw [gens, if_pos clear, podSilences_unchained single]
    · rw [gens, if_pos clear]
      exact podSilences_chained pair
  · have goesOn : (s.pods.get p).actions.lost = .markAndEnd → s.listed p = false := by
      rcases act with act | act <;> simp [act]
    have drives := probeLost_drives idle goesOn
    obtain ⟨closed, stands, seq⟩ := probeLost_closed ready drives
    obtain ⟨records, takes, raised, source, latch⟩ := probeLost_begins ready still recorded normal room act drives
    refine ⟨_, exec_probeLoss_drives idle powered inactive cool drives, records, source, latch, raised, fun q other => ?_, fun mark => ?_,
      stands.lanes, takes, stands.monitor, seq, stands.slots, stands.panel, stands.disp, stands.bytes⟩
    · rw [closed.pods, probeLost_pods drives, Four.get_set_ne _ _ other]
    · rw [closed.gens]
      exact probeLost_marks (by simp [mark]) drives
  · have ends := probeLost_markAndEnd idle recorded normal room act listed unattached places
    obtain ⟨step, closed, stands⟩ := exec_probeLoss_faulted ready still powered inactive cool ends
    obtain ⟨source, -, latch⟩ := lostEnding_pod (p := p) (i := i) idle
    obtain ⟨records, raised, gens⟩ := lostEnding_announced (p := p) idle recorded normal room
    have entries (j : Nat) := (closed.takeAt j).trans (lostEnding_takeAt idle recorded normal room j)
    refine ⟨_, step, ?_, ?_, ?_, ?_, ?_, ?_, ?_, ?_, closed.gens.trans gens, stands.lanes, stands.writer, stands.blocks, stands.free,
      fun j other => ?_, stands.monitor, stands.slots, stands.panel, stands.disp, stands.bytes⟩
    · rw [closed.staging]
      exact records
    · rw [entries, if_pos rfl]
    · rw [entries, if_pos rfl]
    · rw [entries, if_pos rfl]
      exact lostEnding_open idle recorded
    · rw [closed.sampler]
      rfl
    · rw [closed.pods]
      exact source
    · rw [closed.pods]
      exact latch
    · rw [closed.alerts]
      exact raised
    · rw [entries, if_neg other]

end Sys2Proof.Machine
end

section
/-! PROOFS. POWER POD (spec/01): the power of a pod switched on and off (O21). -/

namespace Sys2Proof.Machine

/-! ## Orders whose events are judged before the step closes -/

/-- The state of an order completed has the sequencer's state of the unit's answer. -/
theorem complete_quiet {u : State} (h : u.quiet) (o : OrderRef) (kind : OrderKind) (oc : Outcome) (r : List Word64) : (u.complete o kind oc r).quiet := by
  unfold State.quiet
  rw [complete_seq]
  exact h

/-- An order its unit answers at once, with no event for the sequencer, leaves the unit's state completed and closed. -/
theorem orderResultEvents_completed {u : State} {o : OrderRef} {kind : OrderKind} (oc : Outcome) (ready : u.ready) (quiet : u.quiet)
    (clear : u.recordClear o kind 0) : ∃ t, orderResultEvents ⟨u, some oc, []⟩ o kind = .next t ∧ completedFrom u t o kind oc [] :=
  ⟨_, congrArg Host.Outcome.next (finishEvents_quiet (complete_quiet quiet o kind oc [])), complete_finish ready.1 ready.2 clear⟩

/-! ## POWER POD case by case (R7) -/

theorem exec_powerPod (o : OrderRef) (p : PowerPodP) (s : State) : exec (.powerPod o p) s = orderResultEvents (powerPodOrder p s) o .powerPod := rfl

section
variable {p : PowerPodP} {s : State} (valid : p.valid = true)
include valid

theorem powerPodOrder_on (on : p.direction = 1) (off : (s.pods.get (fin4 p.pod)).power = .off) :
    powerPodOrder p s = accept (s.powerOn (fin4 p.pod) p.warmSpan) := by
  simp [powerPodOrder, valid, on, off]

theorem powerPodOrder_on_powered (on : p.direction = 1) (powered : (s.pods.get (fin4 p.pod)).power ≠ .off) : powerPodOrder p s = accept s := by
  simp [powerPodOrder, valid, on, powered]

theorem powerPodOrder_off_listed (off : p.direction = 0) (listed : s.listed (fin4 p.pod) = true) : powerPodOrder p s = refuse s .busy := by
  simp [powerPodOrder, valid, off, listed]

theorem powerPodOrder_off (off : p.direction = 0) (unlisted : s.listed (fin4 p.pod) = false) (powered : (s.pods.get (fin4 p.pod)).power ≠ .off) :
    powerPodOrder p s = accept (s.powerOff (fin4 p.pod)) := by
  simp [powerPodOrder, valid, off, unlisted, powered]

theorem powerPodOrder_off_already (off : p.direction = 0) (unlisted : s.listed (fin4 p.pod) = false) (already : (s.pods.get (fin4 p.pod)).power = .off) :
    powerPodOrder p s = accept s := by
  simp [powerPodOrder, valid, off, unlisted, already]

end

/-! ## ON (R3, R6) -/

/-- The pod as its warm span begins. -/
def Pod.warms (x : Pod) (now : Tick) (span : Nat) : Pod := { x with power := .warming, warmTimer := some (tickAdd now (span * 10000)) }

/-- The part as pod `p` begins to warm, before its senses are evaluated. -/
def State.warmed (s : State) (p : Fin 4) (span : Nat) : State := s.setPodAt p ((s.pods.get p).warms s.tick span)

theorem powerOn_eq (s : State) (p : Fin 4) (span : Nat) : s.powerOn p span = (s.warmed p span).evalSenses p := by
  have units : span * 10 * Config.ticksPerUs = span * 10000 := by
    unfold Config.ticksPerUs
    omega
  unfold State.powerOn State.warmed Pod.warms
  rw [units]

theorem warmed_pod (s : State) (p : Fin 4) (span : Nat) : (s.warmed p span).pods.get p = (s.pods.get p).warms s.tick span :=
  Four.get_set_same _ _ _

/-- A sense that reads as its source stands changes nothing (R13). -/
theorem evalSense_settled {s : State} {p : Fin 4} {src : FaultSource} {sense : Bool} (h : ((s.pods.get p).sources.get src).active = sense) :
    s.evalSense p src sense = s := by
  unfold State.evalSense
  dsimp only
  rw [h]
  cases sense <;> rfl

theorem powerOn_normal {s : State} {p : Fin 4} (present : (s.pods.get p).probeAbsent = false) (cool : (s.pods.get p).hotSense = false)
    (lost : (s.pods.get p).sources.lost.active = false) (hot : (s.pods.get p).sources.hot.active = false) (span : Nat) :
    s.powerOn p span = s.warmed p span := by
  have absent : ((s.warmed p span).pods.get p).probeAbsent = false := by rw [warmed_pod]; exact present
  have normal : ((s.warmed p span).pods.get p).hotSense = false := by rw [warmed_pod]; exact cool
  rw [powerOn_eq]
  unfold State.evalSenses
  rw [absent, normal, evalSense_settled (src := .lost) (by rw [warmed_pod]; exact lost), evalSense_settled (src := .hot) (by rw [warmed_pod]; exact hot)]

/-- After its evaluation a source driven by a sense is active as the sense reads. -/
theorem Pod.sensed_active (x : Pod) (src : FaultSource) (sense recording : Bool) :
    ((x.sensed src sense recording).sources.get src).active = sense := by
  unfold Pod.sensed
  dsimp only
  cases active : (x.sources.get src).active <;> cases sense <;> simp [active, Pod.acted_source, SourceRec.ended]

theorem Pod.sensed_other (x : Pod) {src other : FaultSource} (h : other ≠ src) (sense recording : Bool) :
    (x.sensed src sense recording).sources.get other = x.sources.get other := by
  have withSource (r : SourceRec) : (x.withSource src r).sources.get other = x.sources.get other := Five.get_set_ne _ _ h
  have acted (r : SourceRec) : (x.acted src r recording).sources.get other = x.sources.get other := Five.get_set_ne _ _ h
  unfold Pod.sensed
  dsimp only
  split_ifs <;> simp only [withSource, acted]

/-- The senses of a pod evaluated where no take can end by it: each sense source is then active as its sense reads. -/
theorem evalSenses_drives {s : State} {p : Fin 4} (idle : s.captureRuns = false) (unlisted : s.listed p = false) :
    ∃ y, Drives s p y (s.evalSenses p) ∧ y.sources.lost.active = (s.pods.get p).probeAbsent ∧ y.sources.hot.active = (s.pods.get p).hotSense := by
  have first := drives_evalSense idle unlisted .lost (s.pods.get p).probeAbsent
  have second := drives_evalSense (first.captureRuns.trans idle) ((first.listed p).trans unlisted) .hot (s.pods.get p).hotSense
  refine ⟨_, first.trans second, ?_, Pod.sensed_active _ .hot _ _⟩
  rw [first.pod]
  have same := Pod.sensed_other ((s.pods.get p).sensed .lost (s.pods.get p).probeAbsent s.recordingIndex.isSome) (src := .hot) (other := .lost) (by decide)
    (s.pods.get p).hotSense (s.evalSense p .lost (s.pods.get p).probeAbsent).recordingIndex.isSome
  exact (congrArg SourceRec.active same).trans (Pod.sensed_active _ _ _ _)

/-! ## OFF (R3, R6, R32) -/

/-- Source `src` of pod `p` ends if it is active. -/
def State.endActive (p : Fin 4) (s : State) (src : FaultSource) : State := if ((s.pods.get p).sources.get src).active then s.endSource p src else s

theorem powerOff_eq (s : State) (p : Fin 4) :
    s.powerOff p =
      State.podOffStops ((FaultSource.order.foldl (State.endActive p) s).setPodAt p
        { (FaultSource.order.foldl (State.endActive p) s).pods.get p with power := .off, warmTimer := none, wakeTimer := none }) p := rfl

/-- An end changes no alert where no take is recorded. -/
theorem endSource_alerts_unrecorded {s : State} (h : s.recordingIndex = none) (p : Fin 4) (src : FaultSource) : (s.endSource p src).alerts = s.alerts := by
  unfold State.endSource
  simp only [faultEnd_unrecorded h, ite_self]
  cases ((s.pods.get p).sources.get src).openRec with
  | none => split <;> rfl
  | some a => split <;> rfl

/-- A source that ends if it is active: the pod's latch and its other sources stand. -/
theorem drives_endActive (s : State) (p : Fin 4) (src : FaultSource) :
    ∃ y, Drives s p y (State.endActive p s src) ∧ y.latch = (s.pods.get p).latch ∧
      ∀ other, (y.sources.get other).active = true → ((s.pods.get p).sources.get other).active = true ∧ other ≠ src := by
  unfold State.endActive
  split
  · refine ⟨_, drives_end s p src, rfl, fun other active => ?_⟩
    rw [Pod.withSource_sources, Five.get_set] at active
    split at active
    · exact absurd active Bool.false_ne_true
    · next ne => exact ⟨active, ne⟩
  · next inactive => exact ⟨_, drives_nothing s p, rfl, fun other active => ⟨active, fun same => inactive (same ▸ active)⟩⟩

theorem endActive_alerts_unrecorded {s : State} (h : s.recordingIndex = none) (p : Fin 4) (src : FaultSource) :
    (State.endActive p s src).alerts = s.alerts := by
  unfold State.endActive
  split
  · exact endSource_alerts_unrecorded h p src
  · rfl

/-- The active sources of a list end in turn: the latch stands, and a source still active is none of them. -/
theorem drives_endActives (l : List FaultSource) (s : State) (p : Fin 4) :
    ∃ y, Drives s p y (l.foldl (State.endActive p) s) ∧ y.latch = (s.pods.get p).latch ∧
      (∀ src, (y.sources.get src).active = true → ((s.pods.get p).sources.get src).active = true ∧ src ∉ l) ∧
      (s.recordingIndex = none → (l.foldl (State.endActive p) s).alerts = s.alerts) := by
  induction l generalizing s with
  | nil => exact ⟨_, drives_nothing s p, rfl, fun src active => ⟨active, List.not_mem_nil⟩, fun _ => rfl⟩
  | cons first rest ih =>
    obtain ⟨y1, ends, latch1, active1⟩ := drives_endActive s p first
    obtain ⟨y2, endRest, latch2, active2, alerts⟩ := ih (State.endActive p s first)
    rw [ends.pod] at latch2 active2
    refine ⟨y2, ends.trans endRest, latch2.trans latch1, fun src active => ?_, fun unrecorded => ?_⟩
    · obtain ⟨before, notRest⟩ := active2 src active
      obtain ⟨atFirst, ne⟩ := active1 src before
      exact ⟨atFirst, fun listed => (List.mem_cons.mp listed).elim ne notRest⟩
    · exact (alerts (ends.recording.trans unrecorded)).trans (endActive_alerts_unrecorded unrecorded p first)

/-- A pod that enters OFF leaves no running unit on its connector (R32). -/
theorem podOffStops_stops (s : State) (p : Fin 4) : ((s.podOffStops p).gens.get (s.control p)).state ≠ .running := by
  unfold State.podOffStops
  split
  · unfold State.stopUnit
    rw [setUnit_gen, if_pos rfl]
    exact fun running => by cases running
  · assumption

theorem podOffStops_others {s : State} {p g : Fin 4} (single : s.chained p = false) (other : g ≠ p) : (s.podOffStops p).gens.get g = s.gens.get g := by
  unfold State.podOffStops
  rw [control_of_unchained single]
  split
  · have same : (s.unitApply p).chained p = false := single
    unfold State.stopUnit
    rw [setUnit_gen, if_neg other, same, if_neg (by simp)]
    unfold State.unitApply
    rw [single]
    exact Four.get_set_ne _ _ other
  · rfl

theorem podWork_podOffStops (s : State) (p : Fin 4) : PodWork s (s.podOffStops p) := by
  unfold State.podOffStops
  split
  · exact .of_frame rfl
  · exact .refl s

/-- The pod as it enters OFF, its sources ended. -/
def Pod.offAgain (x : Pod) : Pod := { x with power := .off, warmTimer := none, wakeTimer := none }

/-- Entering OFF: every source of the pod has ended, its timers are stopped, its latch stands, and so do the other pods; of the generators that on its connector
alone can differ (R3, R6, R32). -/
theorem powerOff_switches (s : State) (p : Fin 4) :
    ∃ x : Pod, PodWork s (s.powerOff p) ∧ (s.powerOff p).pods = s.pods.set p x.offAgain ∧ (∀ src, (x.sources.get src).active = false) ∧
      x.latch = (s.pods.get p).latch ∧ ((s.powerOff p).gens.get (s.control p)).state ≠ .running ∧
      (s.chained p = false → ∀ g : Fin 4, g ≠ p → (s.powerOff p).gens.get g = s.gens.get g) ∧
      (s.recordingIndex = none → (s.powerOff p).alerts = s.alerts) := by
  obtain ⟨y, ends, latch, active, alerts⟩ := drives_endActives FaultSource.order s p
  rw [powerOff_eq, ends.pod]
  have off : PodWork (FaultSource.order.foldl (State.endActive p) s) ((FaultSource.order.foldl (State.endActive p) s).setPodAt p y.offAgain) :=
    .of_frame rfl
  have work := ends.toPodWork.trans off
  have gens : ((FaultSource.order.foldl (State.endActive p) s).setPodAt p y.offAgain).gens = s.gens := by
    refine ends.gens.trans (if_neg ?_)
    rintro ⟨clear, set⟩
    exact absurd (clear.symm.trans (latch.symm.trans set)) Bool.false_ne_true
  refine ⟨y, work.trans (podWork_podOffStops _ p), ?_, fun src => ?_, latch, ?_, fun single g other => ?_, fun unrecorded => ?_⟩
  · have pods : ((FaultSource.order.foldl (State.endActive p) s).setPodAt p y.offAgain).pods = s.pods.set p y.offAgain := by
      change (FaultSource.order.foldl (State.endActive p) s).pods.set p _ = _
      rw [ends.pods, Four.set_set]
    rw [← pods]
    unfold State.podOffStops
    split <;> rfl
  · refine Bool.eq_false_iff.mpr fun still => (active src still).2 ?_
    cases src <;> decide
  · rw [← work.control p]
    exact podOffStops_stops _ p
  · rw [← gens]
    exact podOffStops_others ((work.chained p).trans single) other
  · rw [← alerts unrecorded]
    unfold State.podOffStops
    split <;> rfl

end Sys2Proof.Machine
end

section
/-! PROOFS. The pods stand while the renderer, the capture writer, the lanes, the generators and the take table do their work. -/

namespace Sys2Proof.Machine

/-! ## The renderer -/

@[simp] theorem dropHoldOpt_pods (s : State) (h : Option Nat) (renderer : Bool) : (s.dropHoldOpt h renderer).pods = s.pods := by
  cases h <;> rfl

@[simp] theorem endRight_pods (s : State) (c : Client) (h : Option Nat) : (s.endRight c h).pods = s.pods := by
  unfold State.endRight
  split
  · rfl
  · exact dropHoldOpt_pods s h _

@[simp] theorem endRender_pods (s : State) (oc : Outcome) : (s.endRender oc).pods = s.pods := by
  unfold State.endRender
  cases s.render.order <;> simp

@[simp] theorem renderFault_pods (s : State) : s.renderFault.pods = s.pods := endRender_pods _ _

@[simp] theorem writeColumns_pods (s : State) (columns : List Nat) : (s.writeColumns columns).pods = s.pods := by
  unfold State.writeColumns
  dsimp only
  split
  · exact renderFault_pods _
  · rfl

@[simp] theorem writeHeader_pods (s : State) (from_ generation : Nat) (outOfSpan stale : Bool) :
    (s.writeHeader from_ generation outOfSpan stale).pods = s.pods := by
  unfold State.writeHeader
  dsimp only
  split
  · exact renderFault_pods _
  · rfl

@[simp] theorem renderHolds_pods (s : State) (b : Nat) : (s.renderHolds b).pods = s.pods := dropHoldOpt_pods _ _ _

@[simp] theorem renderLetsGo_pods (s : State) : s.renderLetsGo.pods = s.pods := dropHoldOpt_pods _ _ _

@[simp] theorem renderToFront_pods (s : State) : s.renderToFront.pods = s.pods := by
  unfold State.renderToFront
  split
  · split
    · next b _ =>
      split
      · exact renderLetsGo_pods s
      · split
        · exact renderLetsGo_pods s
        · exact renderHolds_pods s b
    · exact renderLetsGo_pods s
  · exact renderLetsGo_pods s

@[simp] theorem renderPosition_pods (s : State) : s.renderPosition.pods = s.pods := by
  unfold State.renderPosition
  split <;> simp

@[simp] theorem genStart_pods (s : State) : s.genStart.pods = s.pods := rfl

@[simp] theorem genOpen_pods (s : State) : s.genOpen.pods = s.pods := by
  unfold State.genOpen
  dsimp only
  split <;> simp

@[simp] theorem genDone_pods (s : State) (out stale : Bool) : (s.genDone out stale).pods = s.pods := rfl

@[simp] theorem genClose_pods (s : State) : s.genClose.pods = s.pods := by
  unfold State.genClose
  dsimp only
  split
  · simp
  · split
    · simp
    · split <;> simp

@[simp] theorem renderRun_pods (s : State) (fuel : Nat) : (s.renderRun fuel).pods = s.pods := by
  induction fuel generalizing s with
  | zero => rfl
  | succ fuel ih =>
    unfold State.renderRun
    split
    · rfl
    · split
      · rfl
      · split
        · rfl
        · rw [ih, genClose_pods]
      · split
        · rw [ih]
          split <;> simp
        · rfl

@[simp] theorem renderSeal_pods (s : State) (id : Nat) : (s.renderSeal id).pods = s.pods := by
  unfold State.renderSeal
  split
  · exact renderRun_pods _ _
  · rfl

@[simp] theorem renderFinal_pods (s : State) (id : Nat) : (s.renderFinal id).pods = s.pods := by
  unfold State.renderFinal
  split
  · exact renderRun_pods _ _
  · rfl

@[simp] theorem revoke_pods (s : State) (b : Nat) : (s.revoke b).pods = s.pods := by
  unfold State.revoke
  split <;> rfl

@[simp] theorem renderAfterDrop_pods (s : State) : s.renderAfterDrop.pods = s.pods := by
  simp [State.renderAfterDrop]

/-! ## The capture writer and the end of a take -/

@[simp] theorem dropFront_pods (s : State) (i : Nat) : (s.dropFront i).pods = s.pods := by
  unfold State.dropFront State.dropBlock
  split
  · rfl
  · split
    · rfl
    · split <;> simp

@[simp] theorem ringCheck_pods (s : State) (i : Nat) : (s.ringCheck i).pods = s.pods := by
  unfold State.ringCheck
  split <;> simp

@[simp] theorem putRecord_pods (s : State) (i b : Nat) (r : CapRec) (t : Tick) : (s.putRecord i b r t).pods = s.pods := by
  unfold State.putRecord
  split <;> rfl

@[simp] theorem writeRecord_pods (s : State) (i b : Nat) (r : CapRec) (t : Tick) : (s.writeRecord i b r t).pods = s.pods := by
  unfold State.writeRecord
  split
  · rfl
  · split <;> simp

@[simp] theorem closingGap_pods (s : State) (i : Nat) : (s.closingGap i).pods = s.pods := by
  unfold State.closingGap
  split
  · rfl
  · dsimp only
    split_ifs <;> simp

@[simp] theorem discardStaged_pods (s : State) (i : Nat) (counted : Bool) : (s.discardStaged i counted).pods = s.pods := rfl

@[simp] theorem settleLast_pods (s : State) (i : Nat) : (s.settleLast i).pods = s.pods := by
  unfold State.settleLast
  split
  · rfl
  · split
    · rfl
    · split
      · simp
      · dsimp only
        split <;> simp

@[simp] theorem settleIfDrained_pods (s : State) (i : Nat) : (s.settleIfDrained i).pods = s.pods := by
  unfold State.settleIfDrained
  split <;> simp

@[simp] theorem completeArm_pods (s : State) (t : Take) : (s.completeArm t).pods = s.pods := by
  unfold State.completeArm
  split <;> simp

@[simp] theorem completeStops_pods (s : State) (os : List OrderRef) : (s.completeStops os).pods = s.pods := by
  unfold State.completeStops
  induction os generalizing s with
  | nil => rfl
  | cons o rest ih => rw [List.foldl_cons, ih, complete_pods]

@[simp] theorem enterEnded_pods (s : State) (i : Nat) : (s.enterEnded i).pods = s.pods := by
  simp [State.enterEnded]

/-! ## Lanes -/

@[simp] theorem insert_pods (s : State) (t : Tick) (b : RecBody) : (s.insert t b).pods = s.pods := by
  unfold State.insert
  split <;> simp

@[simp] theorem insertFrame_pods (s : State) (k : Fin 4) (t : Tick) (b : RecBody) : (s.insertFrame k t b).pods = s.pods := by
  unfold State.insertFrame
  rw [insert_pods, noteLane_takes_only]

@[simp] theorem ringOffer_pods (s : State) (k : Fin 4) (live : Bool) (units : List Word64) : (s.ringOffer k live units).pods = s.pods := by
  unfold State.ringOffer
  dsimp only
  split_ifs <;> simp

@[simp] theorem emit_pods (s : State) (k : Fin 4) (live : Bool) (t : Tick) (e : Emission) : (s.emit k live t e).pods = s.pods := by
  unfold State.emit
  dsimp only
  split <;> simp

theorem laneOut_pods (k : Fin 4) (live : Bool) (t : Tick) (x : State × BitVec 7) (o : LaneOut) : (State.laneOut k live t x o).1.pods = x.1.pods := by
  cases o with
  | opened => cases live <;> simp [State.laneOut]
  | raised e => rfl
  | emitted e => exact emit_pods _ _ _ _ _

@[simp] theorem laneOuts_pods (s : State) (k : Fin 4) (live : Bool) (t : Tick) (d : DecStep) : (s.laneOuts k live t d).1.pods = s.pods := by
  have folded (outs : List LaneOut) (x : State × BitVec 7) : (outs.foldl (State.laneOut k live t) x).1.pods = x.1.pods := by
    induction outs generalizing x with
    | nil => rfl
    | cons o rest ih => rw [List.foldl_cons, ih, laneOut_pods]
  exact folded _ _

@[simp] theorem laneGap_pods (s : State) (k : Fin 4) (live : Bool) (t : Tick) : (s.laneGap k live t).pods = s.pods := by
  simp [State.laneGap, State.laneStep]

@[simp] theorem liveGap_pods (s : State) (t : Tick) : (s.liveGap t).pods = s.pods := by
  have folded (l : List (Fin 4)) (s : State) :
      (l.foldl (fun s k => if (s.lanes.get k).state = .attached then s.laneGap k true t else s) s).pods = s.pods := by
    induction l generalizing s with
    | nil => rfl
    | cons k rest ih =>
      rw [List.foldl_cons, ih]
      split <;> simp
  exact folded _ _

@[simp] theorem detachLane_pods (s : State) (t : Tick) (k : Fin 4) : (s.detachLane t k).pods = s.pods := by
  unfold State.detachLane State.closeInterrupted
  split
  · rfl
  · dsimp only
    split <;> simp

@[simp] theorem detachLanes_pods (s : State) (t : Tick) : (s.detachLanes t).pods = s.pods := by
  simp [State.detachLanes, fourOrder]

/-! ## Generators -/

@[simp] theorem startUnit_pods (s : State) (u : Fin 4) : (s.startUnit u).pods = s.pods := rfl

@[simp] theorem stopUnit_pods (s : State) (u : Fin 4) : (s.stopUnit u).pods = s.pods := rfl

@[simp] theorem stimulate_pods (s : State) (g : Fin 4) (act : StimAction) : (s.stimulate g act).1.pods = s.pods := by
  unfold State.stimulate
  split
  · rfl
  · cases act with
    | stop => dsimp only; split <;> simp
    | start =>
      dsimp only
      split
      · rfl
      · cases (s.gens.get g).state with
        | running => rfl
        | stopped => rfl
        | silenced => dsimp only; split <;> simp
    | restart =>
      dsimp only
      split
      · rfl
      · cases (s.gens.get g).state <;> simp

@[simp] theorem stageStimulus_pods (s : State) (a : Option (Bool × Fin 4)) : (s.stageStimulus a).pods = s.pods := by
  unfold State.stageStimulus
  split <;> simp

end Sys2Proof.Machine
end

section
/-! PROOFS. What a pod shows of its power and its sources stands while the sequencer and the take table do their work; POWER POD settled (O21). -/

namespace Sys2Proof.Machine

/-! ## What a pod shows -/

/-- The power of a pod, its warm timer, and which of its sources are active. -/
structure PodView where
  power : Power
  warmTimer : Option Tick
  active : FaultSource → Bool

def Pod.view (x : Pod) : PodView := ⟨x.power, x.warmTimer, fun src => (x.sources.get src).active⟩

/-- What each pod shows. -/
def State.views (s : State) (q : Fin 4) : PodView := (s.pods.get q).view

theorem views_of_pods {s u : State} (h : u.pods = s.pods) : u.views = s.views := by
  unfold State.views
  rw [h]

/-- A pod replaced by one that shows the same. -/
theorem views_set {s u : State} {p : Fin 4} {y : Pod} (pods : u.pods = s.pods.set p y) (same : y.view = (s.pods.get p).view) : u.views = s.views := by
  funext q
  unfold State.views
  rw [pods, Four.get_set]
  split
  · next isP => rw [isP, same]
  · rfl

/-- Pods that show the same one by one. -/
theorem views_of_each {s u : State} (h : ∀ q, (u.pods.get q).view = (s.pods.get q).view) : u.views = s.views := funext h

/-- What a pod shows once its source `src` is active, or no longer. -/
def PodView.withActive (v : PodView) (src : FaultSource) (active : Bool) : PodView :=
  { v with active := fun other => if other = src then active else v.active other }

theorem Pod.withSource_view (x : Pod) (src : FaultSource) (r : SourceRec) : (x.withSource src r).view = x.view.withActive src r.active := by
  have sources : ∀ other, ((x.sources.set src r).get other).active = if other = src then r.active else (x.sources.get other).active := fun other => by
    rw [Five.get_set]
    split <;> rfl
  unfold Pod.view PodView.withActive Pod.withSource
  simp only [sources]

theorem PodView.withActive_same {v : PodView} {src : FaultSource} {active : Bool} (h : v.active src = active) : v.withActive src active = v := by
  have same : (fun other => if other = src then active else v.active other) = v.active := by
    funext other
    split
    · next isSrc => rw [isSrc, h]
    · rfl
  unfold PodView.withActive
  rw [same]

theorem Pod.withSource_view_same {x : Pod} {src : FaultSource} {r : SourceRec} (h : r.active = (x.sources.get src).active) :
    (x.withSource src r).view = x.view :=
  (x.withSource_view src r).trans (PodView.withActive_same h.symm)

theorem Pod.isolatedBy_view (x : Pod) (src : FaultSource) : (x.isolatedBy src).view = x.view :=
  Pod.withSource_view_same (r := { x.sources.get src with holdsLatch := true }) rfl

/-! ## Takes -/

theorem Pod.wakes_view (x : Pod) (now : Tick) : (x.wakes now).view = x.view := by
  unfold Pod.wakes
  split <;> rfl

theorem Pod.atTakeEnd_view (x : Pod) (p : Fin 4) (m : Chans) (now : Tick) : (x.atTakeEnd p m now).view = x.view := by
  obtain ⟨sources, -, power, timer⟩ := x.atTakeEnd_kept p m now
  have active : ∀ src, (x.closeRecords.sources.get src).active = (x.sources.get src).active := fun src => by cases src <;> rfl
  unfold Pod.view
  rw [sources, power, timer]
  simp only [active]

theorem takeEnding_views (s : State) (i : Nat) (reason : EndReason) : (s.takeEnding i reason).views = s.views := by
  have detached : (State.detachLanes { s with seq := s.seq.atTakeEnd (s.takeAt i).id } (s.endingTime i)).pods = s.pods := detachLanes_pods _ _
  refine views_of_each fun q => ?_
  have ended := podsAtEnd_get (State.detachLanes { s with seq := s.seq.atTakeEnd (s.takeAt i).id } (s.endingTime i)) (s.takeAt i).channels q
  rw [detached] at ended
  exact (congrArg Pod.view ended).trans (Pod.atTakeEnd_view _ _ _ _)

theorem endTake_views (s : State) (i : Nat) (reason : EndReason) : (s.endTake i reason).views = s.views := by
  unfold State.endTake
  split
  · rfl
  · rw [← takeEnding_views s i reason]
    dsimp only
    split
    · exact views_of_pods (enterEnded_pods _ _)
    · cases reason with
      | filled => exact views_of_pods (discardStaged_pods _ _ _)
      | short => exact views_of_pods (discardStaged_pods _ _ _)
      | stopped => exact views_of_pods (settleIfDrained_pods _ _)
      | faulted => exact views_of_pods (settleIfDrained_pods _ _)

theorem wakePods_views (s : State) : s.wakePods.views = s.views :=
  views_of_each fun q => by fin_cases q <;> exact Pod.wakes_view _ _

theorem trigger_views (s : State) (i : Nat) (src : TrigSource) (stage : Nat) (t : Tick) : (s.trigger i src stage t).views = s.views := by
  have inserted (take : Take) : ((s.setTake i take).insert t (.mark stage false)).pods = s.pods := insert_pods _ _ _
  unfold State.trigger
  dsimp only
  split
  · exact (wakePods_views _).trans (views_of_pods ((liveGap_pods _ _).trans (inserted _)))
  · exact views_of_pods (inserted _)

/-! ## The sequencer -/

theorem fire_views (s : State) (t : Tick) (stage : Nat) : (s.fire t stage).views = s.views := by
  unfold State.fire
  split
  · rfl
  · split
    · exact trigger_views _ _ _ _ _
    · rfl

theorem seqOut_views (search : Bool) (t : Tick) (s : State) (out : SeqOut) : (State.seqOut search t s out).views = s.views := by
  cases out with
  | markStage n => exact views_of_pods (insert_pods _ _ _)
  | stimulus a => exact views_of_pods (stageStimulus_pods _ _)
  | fire n => cases search with
    | true => rfl
    | false => exact fire_views s t n

theorem seqOuts_views (search : Bool) (t : Tick) (outs : List SeqOut) (s : State) : (outs.foldl (State.seqOut search t) s).views = s.views := by
  induction outs generalizing s with
  | nil => rfl
  | cons out rest ih => exact (ih _).trans (seqOut_views search t s out)

@[simp] theorem flagTake_pods (s : State) : s.flagTake.pods = s.pods := by
  unfold State.flagTake
  split
  · rfl
  · split <;> rfl

theorem seqStep_views (s : State) (search : Bool) (t : Tick) (x : SeqStep) : (s.seqStep search t x).views = s.views :=
  (seqOuts_views _ _ _ _).trans (views_of_pods ((flagTake_pods _).trans (seqTo_pods _ _)))

theorem seqFlushEnding_views (s : State) : s.seqFlushEnding.views = s.views := by
  unfold State.seqFlushEnding
  split
  · exact seqStep_views _ _ _ _
  · rfl

theorem dropGapEvents_pods (s : State) : s.dropGapEvents.pods = s.pods := by
  unfold State.dropGapEvents
  split <;> rfl

theorem seqFlush_views (s : State) : s.seqFlush.views = s.views := by
  unfold State.seqFlush
  split
  · exact seqStep_views _ _ _ _
  · exact views_of_pods (dropGapEvents_pods s)

/-! ## A source acts, activates, ends (R14 to R20) -/

theorem faultBegin_views (s : State) (t : Tick) (p : Fin 4) (src : FaultSource) (what : FaultAction × BitVec 8) :
    (s.faultBegin t p src what).views = s.views := by
  unfold State.faultBegin
  split
  · rfl
  · exact views_set (y := (s.pods.get p).withSource src { (s.pods.get p).sources.get src with openRec := some what.1 }) rfl (Pod.withSource_view_same rfl)

theorem announce_views (s : State) (p : Fin 4) (src : FaultSource) : (s.announce p src).views = s.views := faultBegin_views _ _ _ _ _

theorem isolate_views (s : State) (p : Fin 4) (src : FaultSource) : (s.isolate p src).views = s.views := by
  have pods : (s.isolate p src).pods = s.pods.set p ((s.pods.get p).isolatedBy src) := by
    unfold State.isolate
    dsimp only
    split <;> rfl
  exact views_set pods (Pod.isolatedBy_view _ _)

theorem markEnds_views (s : State) (p : Fin 4) (m : BitVec 8) : (s.markEnds p m).views = s.views := by
  unfold State.markEnds
  split
  · rfl
  · split
    · exact (endTake_views _ _ _).trans (seqFlushEnding_views s)
    · rfl

/-- Carrying out its action changes neither a pod's power nor whether a source is active, even where it ends the capturing take. -/
theorem actSource_views (s : State) (p : Fin 4) (src : FaultSource) : (s.actSource p src).views = s.views := by
  unfold State.actSource
  cases ((s.pods.get p).sources.get src).action with
  | ignore => rfl
  | mark => exact announce_views s p src
  | markAndEnd => exact (markEnds_views _ _ _).trans (announce_views s p src)
  | isolate => exact (announce_views _ _ _).trans (isolate_views s p src)

theorem activate_view (s : State) (p : Fin 4) (src : FaultSource) (m : BitVec 8) : (s.activate p src m).views p = (s.views p).withActive src true := by
  unfold State.activate
  rw [actSource_views]
  exact (congrArg Pod.view (Four.get_set_same _ _ _)).trans (Pod.withSource_view _ _ _)

theorem endSource_view (s : State) (p : Fin 4) (src : FaultSource) : (s.endSource p src).views p = (s.views p).withActive src false :=
  (congrArg Pod.view (drives_end s p src).pod).trans (Pod.withSource_view _ _ _)

/-- A sense evaluated: its source is active as the sense reads, whatever else the step brings about (R6, R13). -/
theorem evalSense_view (s : State) (p : Fin 4) (src : FaultSource) (sense : Bool) : (s.evalSense p src sense).views p = (s.views p).withActive src sense := by
  by_cases settled : ((s.pods.get p).sources.get src).active = sense
  · rw [evalSense_settled settled]
    exact (PodView.withActive_same settled).symm
  · unfold State.evalSense
    dsimp only
    cases sense with
    | true =>
      rw [Bool.eq_false_iff.mpr settled]
      exact activate_view s p src 0xFF
    | false =>
      rw [Bool.eq_true_of_not_eq_false settled]
      exact endSource_view s p src

theorem evalSenses_view (s : State) (p : Fin 4) :
    ((s.evalSenses p).views p).power = (s.pods.get p).power ∧ ((s.evalSenses p).views p).warmTimer = (s.pods.get p).warmTimer ∧
      ((s.evalSenses p).views p).active .lost = (s.pods.get p).probeAbsent ∧ ((s.evalSenses p).views p).active .hot = (s.pods.get p).hotSense := by
  unfold State.evalSenses
  rw [evalSense_view, evalSense_view]
  exact ⟨rfl, rfl, rfl, rfl⟩

end Sys2Proof.Machine
end

section
/-! PROOFS. POWER POD (spec/01) settled (O21). -/

namespace Sys2Proof.Machine

theorem finish_pods (s : State) : s.finish.pods = s.pods := by
  unfold State.finish State.syncReport
  dsimp only
  split
  · rfl
  · split <;> rfl

/-- An order its unit answers at once leaves the pods as the unit and the sequencer's late events left them. -/
theorem orderResultEvents_views (u : State) (o : OrderRef) (kind : OrderKind) (oc : Outcome) :
    ∃ t, orderResultEvents ⟨u, some oc, []⟩ o kind = .next t ∧ t.views = u.views :=
  ⟨_, rfl, (views_of_pods (finish_pods _)).trans ((seqFlush_views _).trans (views_of_pods (complete_pods u o kind oc [])))⟩

section
variable {s : State} {o : OrderRef} {p : PowerPodP}

/-- ON of an OFF pod, whatever its senses and whatever else is at work: it warms, and its senses drive their sources (R6, R7). -/
theorem exec_powerPod_on (valid : p.valid = true) (on : p.direction = 1) (off : (s.pods.get (fin4 p.pod)).power = .off) :
    ∃ t, exec (.powerPod o p) s = .next t ∧
      (t.pods.get (fin4 p.pod)).power = .warming ∧ (t.pods.get (fin4 p.pod)).warmTimer = some (tickAdd s.tick (p.warmSpan * 10000)) ∧
      (t.pods.get (fin4 p.pod)).sources.lost.active = (s.pods.get (fin4 p.pod)).probeAbsent ∧
      (t.pods.get (fin4 p.pod)).sources.hot.active = (s.pods.get (fin4 p.pod)).hotSense := by
  obtain ⟨t, step, views⟩ := orderResultEvents_views ((s.warmed (fin4 p.pod) p.warmSpan).evalSenses (fin4 p.pod)) o .powerPod .ok
  rw [exec_powerPod, powerPodOrder_on valid on off, powerOn_eq]
  refine ⟨t, step, ?_⟩
  have senses := evalSenses_view (s.warmed (fin4 p.pod) p.warmSpan) (fin4 p.pod)
  rw [← views, warmed_pod] at senses
  exact senses

end

/-- What a step that completes an order after the pods' own work alone leaves of the state the step began in. -/
structure PodOrderDone (s t : State) (o : OrderRef) (kind : OrderKind) : Prop where
  outcome : t.shared.getUnit (stateAddr o.addr) = stateUnit (s.recordState o) Outcome.ok.code
  bytes : bytesKept s t (completionBytes o kind 0)
  monitor : t.monitor = s.monitor
  lanes : t.lanes = s.lanes
  seq : t.seq = s.seq
  slots : t.slots = s.slots
  panel : t.panel = s.panel
  blocks : t.pool.blocks = s.pool.blocks
  free : t.pool.free = s.pool.free
  writer : t.writer = s.writer
  control : ∀ g, t.control g = s.control g
  unrecorded : s.recordingIndex = none → t.takes = s.takes ∧ t.staging = s.staging

theorem podOrderDone_of_completedFrom {s u t : State} {o : OrderRef} {kind : OrderKind} (work : PodWork s u) (done : completedFrom u t o kind .ok []) :
    PodOrderDone s t o kind := by
  obtain ⟨same, outcome, -, bytes⟩ := done
  have cursor : u.recordState o = s.recordState o := by
    unfold State.recordState
    rw [work.disp]
  rw [cursor] at outcome
  have blocks : t.pool.blocks = u.pool.blocks := by rw [same]
  have free : t.pool.free = u.pool.free := by rw [same]
  exact {
    outcome := outcome
    bytes := bytesKept_of_same work.shared work.disp bytes
    monitor := (congrArg State.monitor same).trans work.monitor
    lanes := (congrArg State.lanes same).trans work.lanes
    seq := (congrArg State.seq same).trans work.seq
    slots := (congrArg State.slots same).trans work.slots
    panel := (congrArg State.panel same).trans work.panel
    blocks := blocks.trans (congrArg Pool.blocks work.pool)
    free := free.trans (congrArg Pool.free work.pool)
    writer := (congrArg State.writer same).trans work.writer
    control := fun g => (congrArg (fun v : State => v.control g) same).trans (work.control g)
    unrecorded := fun none => ⟨(congrArg State.takes same).trans (work.takes none), (congrArg State.staging same).trans (work.staging none)⟩ }

theorem PodWork.recordClear {s u : State} (work : PodWork s u) {o : OrderRef} {kind : OrderKind} {n : Nat} (h : s.recordClear o kind n) :
    u.recordClear o kind n := by
  unfold State.recordClear
  rw [work.disp]
  exact h

/-- POWER POD answered OK after the pods' own work alone. -/
theorem orderResultEvents_podWork {s u : State} {o : OrderRef} {kind : OrderKind} (work : PodWork s u) (ready : s.ready) (quiet : s.quiet)
    (clear : s.recordClear o kind 0) : ∃ t, orderResultEvents ⟨u, some .ok, []⟩ o kind = .next t ∧ completedFrom u t o kind .ok [] :=
  orderResultEvents_completed .ok (work.ready ready) ((congrArg Sequencer.events work.seq).trans quiet) (work.recordClear clear)

/-- ON of an OFF pod where its activations end no take: nothing else changes but its sources and latch, what their records do to a take being recorded, and a
generator that the latch silences. -/
theorem powerOn_drives {s : State} {p : Fin 4} (idle : s.captureRuns = false) (unlisted : s.listed p = false) (span : Nat) :
    ∃ y : Pod, PodWork s (s.powerOn p span) ∧ (s.powerOn p span).pods = s.pods.set p y ∧
      y = { s.pods.get p with power := .warming, warmTimer := some (tickAdd s.tick (span * 10000)), sources := y.sources, latch := y.latch } ∧
      y.sources.lost.active = (s.pods.get p).probeAbsent ∧ y.sources.hot.active = (s.pods.get p).hotSense ∧
      (y.latch = (s.pods.get p).latch → (s.powerOn p span).gens = s.gens) := by
  obtain ⟨y, drives, lost, hot⟩ := evalSenses_drives (s := s.warmed p span) idle unlisted
  have kept := drives.kept
  have pods : (s.powerOn p span).pods = (s.pods.set p _).set p y := (congrArg State.pods (powerOn_eq s p span)).trans drives.pods
  rw [warmed_pod] at kept lost hot
  rw [Four.set_set] at pods
  refine ⟨y, ?_, pods, kept, lost, hot, fun latch => ?_⟩
  · rw [powerOn_eq]
    exact PodWork.trans (.of_frame rfl) drives.toPodWork
  · rw [powerOn_eq, drives.gens, if_neg]
    · rfl
    · rw [warmed_pod]
      rintro ⟨clear, set⟩
      exact absurd (set.symm.trans (latch.trans clear)) (by decide)

/-! ## The order, case by case -/

section
variable {s : State} {o : OrderRef} {p : PowerPodP} (ready : s.ready) (clear : s.recordClear o .powerPod 0) (valid : p.valid = true) (quiet : s.quiet)

include ready clear quiet in
/-- An answer with nothing done. -/
theorem exec_powerPod_untouched {oc : Outcome} (answered : powerPodOrder p s = ⟨s, some oc, []⟩) :
    ∃ t, exec (.powerPod o p) s = .next t ∧ completedFrom s t o .powerPod oc [] := by
  rw [exec_powerPod, answered]
  exact orderResultEvents_completed oc ready quiet clear

include ready clear valid quiet

theorem exec_powerPod_on_normal (on : p.direction = 1) (off : (s.pods.get (fin4 p.pod)).power = .off)
    (present : (s.pods.get (fin4 p.pod)).probeAbsent = false) (cool : (s.pods.get (fin4 p.pod)).hotSense = false)
    (lost : (s.pods.get (fin4 p.pod)).sources.lost.active = false) (hot : (s.pods.get (fin4 p.pod)).sources.hot.active = false) :
    ∃ t, exec (.powerPod o p) s = .next t ∧ completedFrom (s.warmed (fin4 p.pod) p.warmSpan) t o .powerPod .ok [] := by
  rw [exec_powerPod, powerPodOrder_on valid on off, powerOn_normal present cool lost hot]
  exact orderResultEvents_completed .ok ready quiet clear

theorem exec_powerPod_on_unlisted (on : p.direction = 1) (off : (s.pods.get (fin4 p.pod)).power = .off)
    (unlisted : s.listed (fin4 p.pod) = false) (idle : s.seq.state ≠ .running) :
    ∃ t, exec (.powerPod o p) s = .next t ∧ PodOrderDone s t o .powerPod ∧ ∃ y : Pod, t.pods = s.pods.set (fin4 p.pod) y ∧
      y = { s.pods.get (fin4 p.pod) with
        power := .warming, warmTimer := some (tickAdd s.tick (p.warmSpan * 10000)), sources := y.sources, latch := y.latch } ∧
      y.sources.lost.active = (s.pods.get (fin4 p.pod)).probeAbsent ∧ y.sources.hot.active = (s.pods.get (fin4 p.pod)).hotSense ∧
      (y.latch = (s.pods.get (fin4 p.pod)).latch → t.gens = s.gens) := by
  obtain ⟨y, work, pods, kept, lost, hot, gens⟩ := powerOn_drives (captureRuns_of_not_running idle) unlisted p.warmSpan
  obtain ⟨t, step, done⟩ := orderResultEvents_podWork work ready quiet clear
  rw [exec_powerPod, powerPodOrder_on valid on off]
  exact ⟨t, step, podOrderDone_of_completedFrom work done, y, (congrArg State.pods done.1).trans pods, kept, lost, hot,
    fun latch => (congrArg State.gens done.1).trans (gens latch)⟩

theorem exec_powerPod_off (off : p.direction = 0) (unlisted : s.listed (fin4 p.pod) = false) (powered : (s.pods.get (fin4 p.pod)).power ≠ .off) :
    ∃ t, exec (.powerPod o p) s = .next t ∧ PodOrderDone s t o .powerPod ∧ (∃ x : Pod, t.pods = s.pods.set (fin4 p.pod) x.offAgain ∧
        (∀ src, (x.sources.get src).active = false) ∧ x.latch = (s.pods.get (fin4 p.pod)).latch) ∧
      (t.gens.get (s.control (fin4 p.pod))).state ≠ .running ∧
      (s.chained (fin4 p.pod) = false → ∀ g : Fin 4, g ≠ fin4 p.pod → t.gens.get g = s.gens.get g) ∧
      (s.recordingIndex = none → t.alerts = s.alerts.raiseIf o.alert .order) := by
  obtain ⟨x, work, pods, inactive, latch, stopped, others, alerts⟩ := powerOff_switches s (fin4 p.pod)
  obtain ⟨t, step, done⟩ := orderResultEvents_podWork work ready quiet clear
  have gens : t.gens = (s.powerOff (fin4 p.pod)).gens := by
    obtain ⟨same, -⟩ := done
    rw [same]
  rw [exec_powerPod, powerPodOrder_off valid off unlisted powered]
  refine ⟨t, step, podOrderDone_of_completedFrom work done, ⟨x, (congrArg State.pods done.1).trans pods, inactive, latch⟩, ?_, ?_, fun none => ?_⟩
  · rw [gens]
    exact stopped
  · rw [gens]
    exact others
  · rw [← alerts none]
    exact congrArg State.alerts done.1

end

/-- Settles O21: what the pods' own work leaves alone, and, where it may end a take, what each pod still shows. -/
theorem powerPodSwitches : Obligations.PowerPodSwitches := by
  intro s o p ready clear valid quiet
  refine ⟨fun on => ?_, fun off => ?_⟩
  · refine ⟨fun wasOff present cool lost hot => exec_powerPod_on_normal ready clear valid quiet on wasOff present cool lost hot,
      fun wasOff => exec_powerPod_on valid on wasOff, fun wasOff unlisted idle => ?_,
      fun powered => exec_powerPod_untouched ready clear quiet (powerPodOrder_on_powered valid on powered)⟩
    obtain ⟨t, step, done, y, pods, kept, lost, hot, gens⟩ := exec_powerPod_on_unlisted ready clear valid quiet on wasOff unlisted idle
    have pod : t.pods.get (fin4 p.pod) = y := by rw [pods, Four.get_set_same]
    have others : ∀ q : Fin 4, q ≠ fin4 p.pod → t.pods.get q = s.pods.get q := fun q other => by rw [pods, Four.get_set_ne _ _ other]
    have timer : y.warmTimer = some (tickAdd s.tick (p.warmSpan * 10000)) := congrArg Pod.warmTimer kept
    refine ⟨t, step, ?_, others, done.outcome, done.bytes, done.monitor, done.lanes, done.seq, done.slots, done.panel, done.blocks, done.free,
      done.writer, ?_, done.unrecorded⟩
    · rw [pod]
      refine ⟨congrArg Pod.power kept, timer, lost, hot, ?_⟩
      rw [timer]
      exact kept
    · rw [pod]
      exact gens
  · refine ⟨fun listed => exec_powerPod_untouched ready clear quiet (powerPodOrder_off_listed valid off listed), fun unlisted powered => ?_,
      fun unlisted already => exec_powerPod_untouched ready clear quiet (powerPodOrder_off_already valid off unlisted already)⟩
    obtain ⟨t, step, done, ⟨x, pods, inactive, latch⟩, stopped, single, alerts⟩ := exec_powerPod_off ready clear valid quiet off unlisted powered
    have pod : t.pods.get (fin4 p.pod) = x.offAgain := by rw [pods, Four.get_set_same]
    have others : ∀ q : Fin 4, q ≠ fin4 p.pod → t.pods.get q = s.pods.get q := fun q other => by rw [pods, Four.get_set_ne _ _ other]
    rw [← done.control] at stopped
    refine ⟨t, step, ?_, ?_, ?_, ?_, ?_, stopped, others, single, done.outcome, done.bytes, done.monitor, done.lanes, done.seq, done.slots,
      done.panel, fun none => ⟨(done.unrecorded none).2, (done.unrecorded none).1, alerts none⟩⟩
    · rw [pod]
      rfl
    · rw [pod]
      rfl
    · rw [pod]
      rfl
    · rw [pod]
      exact inactive
    · rw [pod]
      exact latch

end Sys2Proof.Machine
end

section
/-! PROOFS. Stimulus generators (spec/02): what the operations of a unit, a generator or a chained pair, do to its generators. -/

namespace Sys2Proof.Machine

/-! ## The unit a generator belongs to (R31) -/

/-- A generator that controls itself is not the even member of a chained pair. -/
theorem not_mirror_of_control {s : State} {g : Fin 4} (h : s.control g = g) : (s.chained g && g == evenOf g) = false := by
  cases chained : s.chained g with
  | false => rfl
  | true =>
    rw [control_of_chained chained] at h
    revert h
    fin_cases g <;> decide

/-- The even member of a chained pair does not control itself. -/
theorem control_ne_of_even {s : State} {g : Fin 4} (chained : s.chained g = true) (even : g = evenOf g) : s.control g ≠ g := by
  intro self
  have mirror := not_mirror_of_control self
  rw [chained, ← even] at mirror
  simp at mirror

theorem evenOf_ne_of_odd {g : Fin 4} (odd : g = oddOf g) : evenOf g ≠ g := by
  revert odd
  fin_cases g <;> decide

theorem unitPods_of_unchained {s : State} {g : Fin 4} (h : s.chained g = false) : s.unitPods g = [g] := by
  simp [State.unitPods, h]

theorem unitPods_of_odd {s : State} {g : Fin 4} (h : s.chained g = true) (odd : g = oddOf g) : s.unitPods g = [evenOf g, g] := by
  simp [State.unitPods, h, ← odd]

/-- An unchained generator follows its own applied settings. -/
theorem genApplied_of_unchained {s : State} {g : Fin 4} (h : s.chained g = false) : s.genApplied g = (s.gens.get g).applied := by
  simp [State.genApplied, h]

/-- A chained pair's period joins those of its members, and so does its duty. -/
theorem genApplied_period_of_chained {s : State} {g : Fin 4} (h : s.chained g = true) :
    (s.genApplied g).period = (s.gens.get (evenOf g)).applied.period * 65536 + (s.gens.get g).applied.period := if_pos h

theorem genApplied_duty_of_chained {s : State} {g : Fin 4} (h : s.chained g = true) :
    (s.genApplied g).duty = (s.gens.get (evenOf g)).applied.duty * 65536 + (s.gens.get g).applied.duty := if_pos h

theorem genIdle_of_unchained {s : State} {g : Fin 4} (h : s.chained g = false) (running : (s.gens.get g).state = .running) :
    s.genIdle g = ((s.gens.get g).applied.period == 0) := by
  simp [State.genIdle, genApplied_of_unchained h, running]

/-! ## The unit's generator replaced -/

theorem setUnit_of_unchained {s : State} {u : Fin 4} (h : s.chained u = false) (x : Gen) : s.setUnit u x = { s with gens := s.gens.set u x } := by
  simp [State.setUnit, h]

theorem setUnit_of_chained {s : State} {u : Fin 4} (h : s.chained u = true) (x : Gen) :
    s.setUnit u x = { s with gens := (s.gens.set (evenOf u) { s.gens.get (evenOf u) with state := x.state }).set u x } := by
  simp [State.setUnit, h]

@[simp] theorem setUnit_gen_same (s : State) (u : Fin 4) (x : Gen) : (s.setUnit u x).gens.get u = x := by
  rw [setUnit_gen, if_pos rfl]

@[simp] theorem setUnit_chained (s : State) (u : Fin 4) (x : Gen) (g : Fin 4) : (s.setUnit u x).chained g = s.chained g := rfl

/-- Of two replacements the second stands. -/
theorem setUnit_setUnit (s : State) (u : Fin 4) (x y : Gen) : (s.setUnit u x).setUnit u y = s.setUnit u y := by
  cases chained : s.chained u with
  | false =>
    rw [setUnit_of_unchained (s := s.setUnit u x) chained, setUnit_of_unchained chained, setUnit_of_unchained chained, Four.set_set]
  | true =>
    rw [setUnit_of_chained (s := s.setUnit u x) chained, setUnit_of_chained chained, setUnit_of_chained chained]
    fin_cases u <;> rfl

/-- A replacement with the same applied settings leaves those the unit follows. -/
theorem genApplied_setUnit {s : State} {u : Fin 4} {x : Gen} (h : x.applied = (s.gens.get u).applied) :
    (s.setUnit u x).genApplied u = s.genApplied u := by
  have even : ((s.setUnit u x).gens.get (evenOf u)).applied = (s.gens.get (evenOf u)).applied := by
    rw [setUnit_gen]
    split
    · next same => rw [same, h]
    · split <;> rfl
  unfold State.genApplied
  rw [setUnit_gen_same, setUnit_chained, even, h]

theorem unitApply_of_unchained {s : State} {u : Fin 4} (h : s.chained u = false) :
    s.unitApply u = { s with gens := s.gens.set u (s.gens.get u).applyPending } := by
  simp [State.unitApply, h]

/-! ## The start of a period (R28, R29, R35) -/

/-- The generator at the start of a period under the settings `a`, at tick `t`, which is `long` on the count over the wraps. -/
def Gen.atStart (x : Gen) (a : GenSettings) (t : Tick) (long : Nat) : Gen :=
  Gen.withOutput { x with counter := 0, down := false, unitStart := t } (a.activeAt 0) long

theorem beginPhase_eq (s : State) (u : Fin 4) :
    s.beginPhase u = s.setUnit u ((s.gens.get u).atStart (s.genApplied u) s.tick s.longTick) := rfl

theorem nextPeriod_eq (s : State) (u : Fin 4) (t : Tick) :
    s.nextPeriod u t = s.setUnit u ((s.gens.get u).atStart (s.genApplied u) t (s.longOf t)) := rfl

/-- The generator RUNNING from its start (R35). -/
def Gen.started (x : Gen) (a : GenSettings) (t : Tick) (long : Nat) : Gen :=
  Gen.atStart { x with state := .running, periodsDone := 0 } a t long

theorem startUnit_eq (s : State) (u : Fin 4) :
    s.startUnit u = s.setUnit u ((s.gens.get u).started (s.genApplied u) s.tick s.longTick) := by
  unfold State.startUnit
  rw [beginPhase_eq, setUnit_setUnit, setUnit_gen_same, genApplied_setUnit]
  · rfl
  · rfl

theorem startUnit_of_unchained {s : State} {u : Fin 4} (h : s.chained u = false) :
    s.startUnit u = { s with gens := s.gens.set u ((s.gens.get u).started (s.gens.get u).applied s.tick s.longTick) } := by
  rw [startUnit_eq, setUnit_of_unchained h, genApplied_of_unchained h]

theorem restartUnit_of_unchained {s : State} {u : Fin 4} (h : s.chained u = false) :
    (s.unitApply u).startUnit u =
      { s with gens := s.gens.set u ((s.gens.get u).applyPending.started (s.gens.get u).applyPending.applied s.tick s.longTick) } := by
  rw [startUnit_of_unchained (s := s.unitApply u) h, unitApply_of_unchained h]
  simp [State.longTick]

theorem stopUnit_of_unchained {s : State} {u : Fin 4} (h : s.chained u = false) :
    s.stopUnit u = { s with gens := s.gens.set u { (s.gens.get u).applyPending with state := .stopped, output := false } } := by
  unfold State.stopUnit
  rw [setUnit_of_unchained (s := s.unitApply u) h, unitApply_of_unchained h]
  simp

/-! ## The waveform (R25, R26) -/

theorem activeAt_edge {a : GenSettings} (edge : a.alignment = .edge) (period : a.period ≠ 0) (counter : Nat) :
    a.activeAt counter = decide (counter < a.duty) := by
  simp [GenSettings.activeAt, edge, period]

theorem activeAt_centre {a : GenSettings} (centre : a.alignment = .centre) (period : a.period ≠ 0) (counter : Nat) :
    a.activeAt counter = decide (a.period - a.duty ≤ counter) := by
  simp [GenSettings.activeAt, centre, period]

/-- The counter is at the top, from where CENTRE alignment counts down (R26). -/
def Gen.turns (x : Gen) (a : GenSettings) : Bool := a.alignment == .centre && !x.down && decide (a.period ≤ x.counter + 1)

/-- The counter value of the unit that follows within the period. -/
def Gen.nextCounter (x : Gen) (a : GenSettings) : Nat :=
  if x.turns a then x.counter else if x.down then x.counter - 1 else x.counter + 1

/-- The generator in the unit that follows within the period under the settings `a`, and begins at tick `t`. -/
def Gen.advanced (x : Gen) (a : GenSettings) (t : Tick) (long : Nat) : Gen :=
  Gen.withOutput { x with counter := x.nextCounter a, down := x.down || x.turns a, unitStart := t } (a.activeAt (x.nextCounter a)) long

theorem unitAdvance_eq (s : State) (u : Fin 4) :
    s.unitAdvance u = s.setUnit u ((s.gens.get u).advanced (s.genApplied u) (s.unitBoundary u) (s.longOf (s.unitBoundary u))) := rfl

theorem Gen.turns_edge {x : Gen} {a : GenSettings} (edge : a.alignment = .edge) : x.turns a = false := by
  simp [Gen.turns, edge]

theorem Gen.turns_below {x : Gen} {a : GenSettings} (below : x.counter + 1 < a.period) : x.turns a = false := by
  simp [Gen.turns, below]

theorem Gen.turns_down {x : Gen} {a : GenSettings} (down : x.down = true) : x.turns a = false := by
  simp [Gen.turns, down]

theorem Gen.turns_top {x : Gen} {a : GenSettings} (centre : a.alignment = .centre) (up : x.down = false) (top : a.period ≤ x.counter + 1) :
    x.turns a = true := by
  simp [Gen.turns, centre, up, top]

theorem Gen.nextCounter_turn {x : Gen} {a : GenSettings} (turns : x.turns a = true) : x.nextCounter a = x.counter := by
  simp [Gen.nextCounter, turns]

theorem Gen.nextCounter_up {x : Gen} {a : GenSettings} (turns : x.turns a = false) (up : x.down = false) : x.nextCounter a = x.counter + 1 := by
  simp [Gen.nextCounter, turns, up]

theorem Gen.nextCounter_down {x : Gen} {a : GenSettings} (down : x.down = true) : x.nextCounter a = x.counter - 1 := by
  simp [Gen.nextCounter, Gen.turns_down down, down]

/-! ## Period ends (R29) -/

/-- One more period of the unit done and the pending sets applied. -/
def State.periodCounted (s : State) (u : Fin 4) : State :=
  (s.setUnit u { s.gens.get u with periodsDone := satSucc (s.gens.get u).periodsDone 65535 }).unitApply u

/-- The generator at its period end, one more period done: its burst under the settings `a` is complete and it stops, or the next period begins at tick `t`. -/
def Gen.burstChecked (x : Gen) (a : GenSettings) (t : Tick) (long : Nat) : Gen :=
  if a.burst ≠ 0 ∧ a.burst ≤ x.periodsDone then { x.atStart a t long with state := .stopped, output := false } else x.atStart a t long

theorem unitPeriodEnd_eq (s : State) (u : Fin 4) :
    s.unitPeriodEnd u = (s.periodCounted u).setUnit u
      (((s.periodCounted u).gens.get u).burstChecked ((s.periodCounted u).genApplied u) (s.unitBoundary u) (s.longOf (s.unitBoundary u))) := by
  by_cases complete : ((s.periodCounted u).genApplied u).burst ≠ 0 ∧ ((s.periodCounted u).genApplied u).burst ≤ ((s.periodCounted u).gens.get u).periodsDone
  · have stops : s.unitPeriodEnd u = (State.nextPeriod _ _ _).setUnit _ _ := if_pos complete
    rw [stops, nextPeriod_eq, setUnit_setUnit, setUnit_gen_same, Gen.burstChecked, if_pos complete]
    rfl
  · have begins : s.unitPeriodEnd u = State.nextPeriod _ _ _ := if_neg complete
    rw [begins, nextPeriod_eq, Gen.burstChecked, if_neg complete]
    rfl

/-- The generator with one more period done and its pending set applied. -/
def Gen.periodCounted (x : Gen) : Gen := Gen.applyPending { x with periodsDone := satSucc x.periodsDone 65535 }

theorem periodCounted_of_unchained {s : State} {u : Fin 4} (h : s.chained u = false) :
    s.periodCounted u = { s with gens := s.gens.set u (s.gens.get u).periodCounted } := by
  unfold State.periodCounted
  rw [unitApply_of_unchained (s := s.setUnit u _) h, setUnit_of_unchained h]
  simp [Gen.periodCounted]

/-- An unchained generator after its period end at tick `t`. -/
def Gen.periodEnded (x : Gen) (t : Tick) (long : Nat) : Gen := x.periodCounted.burstChecked x.periodCounted.applied t long

theorem unitPeriodEnd_of_unchained {s : State} {u : Fin 4} (h : s.chained u = false) :
    s.unitPeriodEnd u = { s with gens := s.gens.set u ((s.gens.get u).periodEnded (s.unitBoundary u) (s.longOf (s.unitBoundary u))) } := by
  have single : (s.periodCounted u).chained u = false := h
  rw [unitPeriodEnd_eq, setUnit_of_unchained single, genApplied_of_unchained single, periodCounted_of_unchained h]
  simp [Gen.periodEnded]

/-! ## A unit's time (R25, R28) -/

/-- A unit that is due belongs to a generator that controls itself, is RUNNING and has an applied period. -/
theorem unitDue_inv {s : State} {u : Fin 4} (h : s.unitDue u = true) :
    s.control u = u ∧ (s.gens.get u).state = .running ∧ (s.genApplied u).period ≠ 0 := by
  unfold State.unitDue State.genIdle at h
  simp only [Bool.and_eq_true, beq_iff_eq, Bool.not_eq_true', Bool.and_eq_false_imp, beq_eq_false_iff_ne] at h
  obtain ⟨⟨⟨control, running⟩, busy⟩, -⟩ := h
  exact ⟨control, running, busy running⟩

end Sys2Proof.Machine
end

section
/-! PROOFS. Stimulus generators (spec/02): the two orders, SET STIMULUS (O27) and RUN STIMULUS (O28). -/

namespace Sys2Proof.Machine

/-! ## Orders that change one generator -/

/-- An order accepted with generator `g` replaced by `y`. -/
theorem accepted_gen {s : State} {o : OrderRef} {kind : OrderKind} {g : Fin 4} {y : Gen} (ready : s.ready) (clear : s.recordClear o kind 0) :
    ∃ t, orderResult (accept { s with gens := s.gens.set g y }) o kind = .next t ∧
      completedFrom { s with gens := s.gens.set g (t.gens.get g) } t o kind .ok [] ∧ t.gens.get g = y := by
  obtain ⟨t, next, done⟩ := orderResult_completed .ok (u := { s with gens := s.gens.set g y }) ready clear
  have gen : t.gens.get g = y := by
    rw [done.gens]
    exact Four.get_set_same _ _ _
  exact ⟨t, next, gen.symm ▸ done, gen⟩

/-! ## SET STIMULUS (R34, R30) -/

/-- A generator that holds the settings `a`, staged and applied, with none pending. -/
def Gen.holding (x : Gen) (a : GenSettings) : Gen := { x with staged := a, applied := a, stagedPending := false }

/-- The state in which generator `g` holds the settings `a`. -/
def State.held (s : State) (g : Fin 4) (a : GenSettings) : State := { s with gens := s.gens.set g ((s.gens.get g).holding a) }

/-- An idle generator that the settings `a` are written to at tick `t`. -/
def Gen.woken (x : Gen) (a : GenSettings) (t : Tick) (long : Nat) : Gen :=
  if a.period = 0 then x.holding a else (x.holding a).atStart a t long

section
variable {s : State} {g : Fin 4} (single : s.chained g = false) (a : GenSettings)
include single

theorem writeSettings_staged (running : (s.gens.get g).state = .running) (busy : s.genIdle g = false) :
    s.writeSettings g a = { s with gens := s.gens.set g { s.gens.get g with staged := a, stagedPending := true } } := by
  simp [State.writeSettings, control_of_unchained single, running, busy]

theorem writeSettings_applied (rests : (s.gens.get g).state ≠ .running) :
    s.writeSettings g a = { s with gens := s.gens.set g ((s.gens.get g).holding a) } := by
  simp [State.writeSettings, control_of_unchained single, rests, Gen.holding]

/-- An idle generator holds the settings at once, and begins a period if theirs is not 0 (R28). -/
theorem writeSettings_idle (running : (s.gens.get g).state = .running) (idle : (s.gens.get g).applied.period = 0) :
    s.writeSettings g a = { s with gens := s.gens.set g ((s.gens.get g).woken a s.tick s.longTick) } := by
  have alone : (s.held g a).chained g = false := single
  have gen : (s.held g a).gens.get g = (s.gens.get g).holding a := Four.get_set_same _ _ _
  have runs : ((s.held g a).gens.get g).state = .running := by rw [gen]; exact running
  have wasIdle : s.genIdle g = true := by simp [genIdle_of_unchained single running, idle]
  have isIdle : (s.held g a).genIdle g = (a.period == 0) := by rw [genIdle_of_unchained alone runs, gen]; rfl
  have writes : s.writeSettings g a =
      if ((s.held g a).gens.get g).state = .running ∧ (s.held g a).genIdle g = false then (s.held g a).beginPhase g else s.held g a := by
    unfold State.writeSettings
    rw [control_of_unchained single, if_neg (by simp [wasIdle])]
    rfl
  by_cases zero : a.period = 0
  · rw [writes, if_neg (by simp [isIdle, zero]), Gen.woken, if_pos zero, State.held]
  · rw [writes, if_pos (by simp [runs, isIdle, zero]), Gen.woken, if_neg zero, beginPhase_eq, setUnit_of_unchained alone,
      genApplied_of_unchained alone, gen]
    simp [State.held, Gen.holding, State.longTick]

end

theorem setChained_chained (s : State) (g : Fin 4) (b : Bool) : (s.setChained g b).chained g = b := by
  unfold State.setChained
  split
  · assumption
  · fin_cases g <;> rfl

/-- A change of a pair's chained flag leaves the other pair's, and concerns the generators alone beside (R31). -/
theorem setChained_frame (s : State) (g : Fin 4) (b : Bool) :
    ∃ c01 c23 gens, s.setChained g b = { s with chain01 := c01, chain23 := c23, gens := gens } ∧
      (g.val < 2 → c23 = s.chain23) ∧ (2 ≤ g.val → c01 = s.chain01) := by
  unfold State.setChained
  split
  · exact ⟨_, _, _, rfl, fun _ => rfl, fun _ => rfl⟩
  · exact ⟨_, _, _, rfl, fun low => if_pos low, fun high => if_neg (Nat.not_lt.mpr high)⟩

section
variable {s : State} {p : SetStimulusP} (valid : p.valid = true)
include valid

theorem setStimulus_named : (fin4 p.generator).val = p.generator := by
  simp only [SetStimulusP.valid, inRange, Bool.and_eq_true, decide_eq_true_eq] at valid
  obtain ⟨⟨⟨⟨-, named⟩, -⟩, -⟩, -⟩ := valid
  exact Nat.mod_eq_of_lt (by omega)

theorem setStimulusOrder_writes (keep : p.chaining = 0) (write : p.write = 1) :
    setStimulusOrder p s = accept (s.writeSettings (fin4 p.generator) p.settings) := by
  simp [setStimulusOrder, valid, keep, write]

theorem setStimulusOrder_nothing (keep : p.chaining = 0) (none : p.write = 0) : setStimulusOrder p s = accept s := by
  simp [setStimulusOrder, valid, keep, none]

theorem setStimulusOrder_busy (asked : p.chaining ≠ 0) (busy : s.pairBusy (fin4 p.generator) = true) : setStimulusOrder p s = refuse s .busy := by
  simp [setStimulusOrder, valid, asked, busy]

theorem setStimulusOrder_chains (asked : p.chaining ≠ 0) (none : p.write = 0) (still : s.pairBusy (fin4 p.generator) = false) :
    setStimulusOrder p s = accept (s.setChained (fin4 p.generator) (p.chaining == 1)) := by
  simp [setStimulusOrder, valid, asked, none, still]

end

theorem exec_setStimulus (o : OrderRef) (p : SetStimulusP) (s : State) :
    exec (.setStimulus o p) s = orderResult (setStimulusOrder p s) o .setStimulus := rfl

/-- Settles O27: settings written by whether the generator runs and is idle, then chaining by whether the pair is stopped. -/
theorem setStimulusWrites : Obligations.SetStimulusWrites := by
  intro s o p ready clear valid
  simp only [exec_setStimulus]
  refine ⟨fun write keep single rests => ?_, fun write keep single running busy => ?_, fun write keep single running idle => ?_,
    fun none keep => ?_, fun asked busy => ?_, fun asked none still => ?_⟩
  · rw [setStimulusOrder_writes valid keep write, writeSettings_applied single _ rests]
    exact orderResult_completed .ok ready clear
  · rw [setStimulusOrder_writes valid keep write, writeSettings_staged single _ running busy]
    exact orderResult_completed .ok ready clear
  · rw [setStimulusOrder_writes valid keep write, writeSettings_idle single _ running idle]
    obtain ⟨t, next, done, gen⟩ := accepted_gen ready clear
    refine ⟨t, next, done, ?_⟩
    rw [gen]
    by_cases zero : p.settings.period = 0
    · rw [Gen.woken, if_pos zero]
      exact ⟨running, rfl, rfl, rfl, fun _ => rfl, fun nonzero => absurd zero nonzero⟩
    · rw [Gen.woken, if_neg zero]
      exact ⟨running, rfl, rfl, rfl, fun z => absurd z zero, fun _ => ⟨rfl, rfl, rfl, rfl, rfl⟩⟩
  · rw [setStimulusOrder_nothing valid keep none]
    exact orderResult_completed .ok ready clear
  · rw [setStimulusOrder_busy valid asked busy]
    exact orderResult_completed .busy ready clear
  · rw [setStimulusOrder_chains valid asked none still]
    have flag := setChained_chained s (fin4 p.generator) (p.chaining == 1)
    obtain ⟨c01, c23, gens, eq, low, high⟩ := setChained_frame s (fin4 p.generator) (p.chaining == 1)
    rw [setStimulus_named valid] at low high
    rw [eq] at flag ⊢
    obtain ⟨t, next, done⟩ := orderResult_completed .ok (u := { s with chain01 := c01, chain23 := c23, gens := gens }) ready clear
    have same : t.chained = State.chained { s with chain01 := c01, chain23 := c23, gens := gens } := by
      unfold State.chained
      rw [done.chain01, done.chain23]
    refine ⟨t, next, by rw [done.gens, done.chain01, done.chain23]; exact done, by rw [same]; exact flag, ?_, ?_⟩
    · rw [done.chain23]
      exact low
    · rw [done.chain01]
      exact high

/-! ## RUN STIMULUS (R35) -/

section
variable {s : State} {g : Fin 4}

/-- The even member of a chained pair is refused whatever is asked (R31). -/
theorem stimulate_even (chained : s.chained g = true) (even : g = evenOf g) (act : StimAction) : s.stimulate g act = (s, .wrongState) :=
  if_pos (by rw [chained, ← even]; simp)

theorem noneOff_of_powered (powered : ∀ q ∈ s.unitPods g, (s.pods.get q).power ≠ .off) :
    (s.unitPods g).any (fun q => (s.pods.get q).power == .off) = false := by
  simpa using powered

variable (self : s.control g = g)
include self

theorem stimulate_stop : s.stimulate g .stop = (if (s.gens.get g).state = .running then s.stopUnit g else s, .ok) := by
  simp [State.stimulate, not_mirror_of_control self]

theorem stimulate_podOff {act : StimAction} (asked : act ≠ .stop) (off : ∃ q ∈ s.unitPods g, (s.pods.get q).power = .off) :
    s.stimulate g act = (s, .podOff) := by
  have anyOff : (s.unitPods g).any (fun q => (s.pods.get q).power == .off) = true := by simpa using off
  cases act with
  | stop => exact absurd rfl asked
  | start | restart => simp only [State.stimulate, not_mirror_of_control self, anyOff, Bool.false_eq_true, if_true, if_false]

variable (powered : ∀ q ∈ s.unitPods g, (s.pods.get q).power ≠ .off)
include powered

theorem stimulate_start_running (running : (s.gens.get g).state = .running) : s.stimulate g .start = (s, .ok) := by
  simp [State.stimulate, not_mirror_of_control self, noneOff_of_powered powered, running]

theorem stimulate_start_latched (silenced : (s.gens.get g).state = .silenced) (latched : ∃ q ∈ s.unitPods g, (s.pods.get q).latch = true) :
    s.stimulate g .start = (s, .wrongState) := by
  have anyLatch : (s.unitPods g).any (fun q => (s.pods.get q).latch) = true := by simpa using latched
  simp [State.stimulate, not_mirror_of_control self, noneOff_of_powered powered, silenced, anyLatch]

theorem stimulate_start_rests (rests : (s.gens.get g).state = .stopped ∨
      ((s.gens.get g).state = .silenced ∧ ∀ q ∈ s.unitPods g, (s.pods.get q).latch = false)) :
    s.stimulate g .start = (s.startUnit g, .ok) := by
  rcases rests with stopped | ⟨silenced, clear⟩
  · simp [State.stimulate, not_mirror_of_control self, noneOff_of_powered powered, stopped]
  · have noLatch : (s.unitPods g).any (fun q => (s.pods.get q).latch) = false := by simpa using clear
    simp [State.stimulate, not_mirror_of_control self, noneOff_of_powered powered, silenced, noLatch]

theorem stimulate_restart_silenced (silenced : (s.gens.get g).state = .silenced) : s.stimulate g .restart = (s, .wrongState) := by
  simp [State.stimulate, not_mirror_of_control self, noneOff_of_powered powered, silenced]

theorem stimulate_restart (free : (s.gens.get g).state ≠ .silenced) : s.stimulate g .restart = ((s.unitApply g).startUnit g, .ok) := by
  cases state : (s.gens.get g).state with
  | silenced => exact absurd state free
  | stopped | running => simp [State.stimulate, not_mirror_of_control self, noneOff_of_powered powered, state]

end

theorem stimActionOf_ne_stop {code : Nat} (h : code ≠ 1) : stimActionOf code ≠ .stop := by
  unfold stimActionOf
  split
  · nofun
  · next one => exact absurd rfl h
  · nofun

section
variable {s : State} {o : OrderRef} {p : RunStimulusP} {act : StimAction} (ready : s.ready) (clear : s.recordClear o .runStimulus 0)
  (valid : p.valid = true) (asked : stimActionOf p.action = act)
include valid asked

theorem exec_runStimulus {u : State} {oc : Outcome} (does : s.stimulate (fin4 p.generator) act = (u, oc)) :
    exec (.runStimulus o p) s = orderResult ⟨u, some oc, []⟩ o .runStimulus := by
  have replies : runStimulusOrder p s = ⟨u, some oc, []⟩ := by simp [runStimulusOrder, valid, asked, does]
  exact congrArg (fun r => orderResult r o .runStimulus) replies

include ready clear

theorem exec_runStimulus_answers {oc : Outcome} (does : s.stimulate (fin4 p.generator) act = (s, oc)) :
    ∃ t, exec (.runStimulus o p) s = .next t ∧ completedFrom s t o .runStimulus oc [] := by
  rw [exec_runStimulus valid asked does]
  exact orderResult_completed oc ready clear

/-- An order that runs an unchained generator from the start of a period, settled as `x` is. -/
theorem exec_runStimulus_begins {x : Gen}
    (does : s.stimulate (fin4 p.generator) act = ({ s with gens := s.gens.set (fin4 p.generator) (x.started x.applied s.tick s.longTick) }, .ok)) :
    ∃ t, exec (.runStimulus o p) s = .next t ∧
      completedFrom { s with gens := s.gens.set (fin4 p.generator) (t.gens.get (fin4 p.generator)) } t o .runStimulus .ok [] ∧
      t.gens.get (fin4 p.generator) = x.started x.applied s.tick s.longTick := by
  rw [exec_runStimulus valid asked does]
  exact accepted_gen ready clear

end

/-- Settles O28: an unchained generator by the action, its state and its pod; a chained pair by the member named. -/
theorem runStimulusStartsAndStops : Obligations.RunStimulusStartsAndStops := by
  intro s o p ready clear valid g x pod begins answers
  have start (h : p.action = 0) : stimActionOf p.action = .start := by rw [h]; rfl
  have stop (h : p.action = 1) : stimActionOf p.action = .stop := by rw [h]; rfl
  have restart (h : p.action = 2) : stimActionOf p.action = .restart := by rw [h]; rfl
  refine ⟨fun single => ?_, fun chained => ⟨fun even => exec_runStimulus_answers ready clear valid rfl (stimulate_even chained even _),
    fun odd action evenPowered powered stopped => ?_⟩⟩
  · have self : s.control g = g := control_of_unchained single
    have pods : s.unitPods g = [g] := unitPods_of_unchained single
    have own : g ∈ s.unitPods g := by rw [pods]; exact List.mem_singleton_self g
    have on (powered : pod.power ≠ .off) : ∀ q ∈ s.unitPods g, (s.pods.get q).power ≠ .off := by simpa [pods] using powered
    have unlatched (clear : pod.latch = false) : ∀ q ∈ s.unitPods g, (s.pods.get q).latch = false := by simpa [pods] using clear
    have runs {act : StimAction} {y : Gen} (asked : stimActionOf p.action = act)
        (does : s.stimulate g act = ({ s with gens := s.gens.set g (y.started y.applied s.tick s.longTick) }, .ok)) : begins y.applied := by
      obtain ⟨t, next, done, gen⟩ := exec_runStimulus_begins ready clear valid asked does
      refine ⟨t, next, done, ?_⟩
      rw [gen]
      exact ⟨rfl, rfl, rfl, rfl, rfl, rfl, rfl⟩
    refine ⟨fun action powered rests => ?_, fun action powered running => ?_, fun action powered silenced latched => ?_,
      fun action powered free => ?_, fun action powered silenced => ?_, fun action running => ?_, fun action rests => ?_, fun action off => ?_⟩
    · refine runs (start action) ?_
      rw [stimulate_start_rests self (on powered) (rests.imp_right (fun ⟨silenced, clear⟩ => ⟨silenced, unlatched clear⟩)), startUnit_of_unchained single]
    · exact exec_runStimulus_answers ready clear valid (start action) (stimulate_start_running self (on powered) running)
    · exact exec_runStimulus_answers ready clear valid (start action) (stimulate_start_latched self (on powered) silenced ⟨g, own, latched⟩)
    · refine runs (y := x.applyPending) (restart action) ?_
      rw [stimulate_restart self (on powered) free, restartUnit_of_unchained single]
    · exact exec_runStimulus_answers ready clear valid (restart action) (stimulate_restart_silenced self (on powered) silenced)
    · rw [exec_runStimulus valid (stop action) (stimulate_stop self), if_pos running, stopUnit_of_unchained single]
      exact orderResult_completed .ok ready clear
    · exact exec_runStimulus_answers ready clear valid (stop action) (by rw [stimulate_stop self, if_neg rests])
    · exact exec_runStimulus_answers ready clear valid rfl (stimulate_podOff self (stimActionOf_ne_stop action) ⟨g, own, off⟩)
  · have self : s.control g = g := by rw [control_of_chained chained]; exact odd.symm
    have bothPowered : ∀ q ∈ s.unitPods g, (s.pods.get q).power ≠ .off := by
      simpa [unitPods_of_odd chained odd] using And.intro evenPowered powered
    rw [exec_runStimulus valid (start action) (stimulate_start_rests self bothPowered (.inl stopped)), startUnit_eq]
    obtain ⟨t, next, done⟩ := orderResult_completed .ok (u := s.setUnit g (x.started (s.genApplied g) s.tick s.longTick)) ready clear
    have gen (h : Fin 4) := (congrArg (Four.get · h) done.gens).trans (setUnit_gen s g h _)
    have led : t.gens.get g = x.started (s.genApplied g) s.tick s.longTick := (gen g).trans (if_pos rfl)
    refine ⟨t, next, by rw [done.gens]; exact done, ?_⟩
    rw [led]
    refine ⟨rfl, rfl, rfl, rfl, rfl, rfl, rfl, ?_, fun h other notEven => ?_⟩
    · exact (gen _).trans ((if_neg (evenOf_ne_of_odd odd)).trans (if_pos ⟨chained, rfl⟩))
    · exact (gen h).trans ((if_neg other).trans (if_neg (fun mirrors => notEven mirrors.2)))

end Sys2Proof.Machine
end

section
/-! PROOFS. Stimulus generators (spec/02): the ends of time units and of periods (O29). -/

namespace Sys2Proof.Machine

/-! ## The two commands -/

theorem exec_unitEnd_early {s : State} {g : Fin 4} (early : s.unitDue g = false) : exec (.unitEnd g) s = .next s.finish :=
  congrArg (fun u : State => Host.Outcome.next u.finish) (if_neg (by simp [early]))

theorem exec_periodEnd_early {s : State} {g : Fin 4} (early : s.unitDue g = false) : exec (.periodEnd g) s = .next s.finish :=
  congrArg (fun u : State => Host.Outcome.next u.finish) (if_neg (by simp [early]))

theorem exec_unitEnd_within {s : State} {g : Fin 4} (due : s.unitDue g = true) (within : s.lastUnit g = false) :
    exec (.unitEnd g) s = .next (s.unitAdvance g).finish :=
  congrArg (fun u : State => Host.Outcome.next u.finish) ((if_pos due).trans (if_neg (by simp [within])))

theorem exec_unitEnd_last {s : State} {g : Fin 4} (due : s.unitDue g = true) (last : s.lastUnit g = true) :
    exec (.unitEnd g) s = .next (s.unitPeriodEnd g).finish :=
  congrArg (fun u : State => Host.Outcome.next u.finish) ((if_pos due).trans (if_pos last))

theorem exec_periodEnd_last {s : State} {g : Fin 4} (due : s.unitDue g = true) (last : s.lastUnit g = true) :
    exec (.periodEnd g) s = .next (s.unitPeriodEnd g).finish :=
  congrArg (fun u : State => Host.Outcome.next u.finish) (if_pos (by rw [due, last]; rfl))

/-- A step that closes with the generators `gens`, and of them `g` replaced by `y`. -/
theorem closed_gens {s : State} (ready : s.ready) (gens : Four Gen) (g : Fin 4) (y : Gen) :
    ∃ t, (.next { s with gens := gens.set g y }.finish : Result) = .next t ∧ closedFrom { s with gens := gens.set g (t.gens.get g) } t ∧
      t.gens.get g = y := by
  have closed : closedFrom { s with gens := gens.set g y } _ := finish_closes ready
  have gen := (congrArg (Four.get · g) closed.gens).trans (Four.get_set_same _ _ _)
  exact ⟨_, rfl, gen.symm ▸ closed, gen⟩

/-- A step that closes with a chained pair RUNNING, its even member mirroring the odd one's state. -/
theorem closed_pair {s : State} (ready : s.ready) {g : Fin 4} (chained : s.chained g = true) {y : Gen} (running : y.state = .running) :
    ∃ t, (.next (s.setUnit g y).finish : Result) = .next t ∧
      closedFrom { s with gens := (s.gens.set (evenOf g) { s.gens.get (evenOf g) with state := .running }).set g (t.gens.get g) } t ∧
      t.gens.get g = y := by
  rw [setUnit_of_chained chained, running]
  exact closed_gens ready _ g y

/-! ## A unit within its period (R25, R26) -/

theorem lastUnit_edge {s : State} {g : Fin 4} (edge : (s.gens.get g).applied.alignment = .edge) :
    s.lastUnit g = decide ((s.genApplied g).period ≤ (s.gens.get g).counter + 1) := by
  have same : (s.genApplied g).alignment = .edge := edge
  simp [State.lastUnit, same]

/-- In EDGE alignment the counter advances, and the output is active below the duty (R25). -/
theorem Gen.advanced_edge {x : Gen} {a : GenSettings} (edge : a.alignment = .edge) (period : a.period ≠ 0) (up : x.down = false) (t : Tick) (long : Nat) :
    (x.advanced a t long).counter = x.counter + 1 ∧ (x.advanced a t long).down = false ∧
      (x.advanced a t long).output = decide (x.counter + 1 < a.duty) := by
  have counter : x.nextCounter a = x.counter + 1 := nextCounter_up (turns_edge edge) up
  refine ⟨counter, ?_, ?_⟩
  · change (x.down || x.turns a) = false
    rw [up, turns_edge edge]
    rfl
  · change a.activeAt (x.nextCounter a) = _
    rw [counter, activeAt_edge edge period]

/-- In CENTRE alignment the counter goes up to the top, is held there for a second unit as the direction turns, and goes down (R26). -/
theorem Gen.advanced_centre {x : Gen} {a : GenSettings} (centre : a.alignment = .centre) (period : a.period ≠ 0) (t : Tick) (long : Nat) :
    (x.down = false → x.counter + 1 < a.period → (x.advanced a t long).counter = x.counter + 1 ∧ (x.advanced a t long).down = false) ∧
    (x.down = false → a.period ≤ x.counter + 1 → (x.advanced a t long).counter = x.counter ∧ (x.advanced a t long).down = true) ∧
    (x.down = true → (x.advanced a t long).counter = x.counter - 1 ∧ (x.advanced a t long).down = true) ∧
    (x.advanced a t long).output = decide (a.period - a.duty ≤ (x.advanced a t long).counter) := by
  have direction : (x.advanced a t long).down = (x.down || x.turns a) := rfl
  refine ⟨fun up below => ⟨nextCounter_up (turns_below below) up, ?_⟩, fun up top => ⟨nextCounter_turn (turns_top centre up top), ?_⟩,
    fun down => ⟨nextCounter_down down, ?_⟩, activeAt_centre centre period _⟩
  · rw [direction, up, turns_below below]
    rfl
  · rw [direction, turns_top centre up top, Bool.or_true]
  · rw [direction, down, Bool.true_or]

/-! ## The last unit of a period (R29) -/

theorem Gen.periodEnded_complete {x : Gen} (complete : x.periodCounted.applied.burst ≠ 0 ∧ x.periodCounted.applied.burst ≤ x.periodCounted.periodsDone)
    (t : Tick) (long : Nat) :
    x.periodEnded t long = { x.periodCounted.atStart x.periodCounted.applied t long with state := .stopped, output := false } :=
  if_pos complete

theorem Gen.periodEnded_goesOn {x : Gen} (goesOn : ¬ (x.periodCounted.applied.burst ≠ 0 ∧ x.periodCounted.applied.burst ≤ x.periodCounted.periodsDone))
    (t : Tick) (long : Nat) : x.periodEnded t long = x.periodCounted.atStart x.periodCounted.applied t long :=
  if_neg goesOn

/-- Settles O29: not due, within the period by the alignment, and at its last unit by the burst. -/
theorem generatorUnitsEnd : Obligations.GeneratorUnitsEnd := by
  intro s g ready
  refine ⟨fun early => ⟨⟨_, exec_unitEnd_early early, finish_closes ready⟩, _, exec_periodEnd_early early, finish_closes ready⟩,
    fun chained even => ?_, fun chained due edge up below => ?_, fun single due within => ?_, fun single due last => ?_⟩
  · exact Bool.eq_false_iff.mpr (fun due => control_ne_of_even chained even (unitDue_inv due).1)
  · obtain ⟨-, running, period⟩ := unitDue_inv due
    have within : s.lastUnit g = false := by
      rw [lastUnit_edge edge, genApplied_period_of_chained chained]
      exact decide_eq_false (Nat.not_le.mpr below)
    rw [exec_unitEnd_within due within, unitAdvance_eq]
    obtain ⟨t, next, closed, gen⟩ := closed_pair ready chained (y := (s.gens.get g).advanced _ _ _) running
    obtain ⟨counter, -, output⟩ := Gen.advanced_edge (x := s.gens.get g) (a := s.genApplied g) edge period up (s.unitBoundary g) (s.longOf (s.unitBoundary g))
    refine ⟨t, next, closed, ?_⟩
    rw [gen, ← genApplied_duty_of_chained chained]
    exact ⟨counter, output, rfl, rfl⟩
  · obtain ⟨-, running, period⟩ := unitDue_inv due
    rw [genApplied_of_unchained single] at period
    rw [exec_unitEnd_within due within, unitAdvance_eq, setUnit_of_unchained single, genApplied_of_unchained single]
    obtain ⟨t, next, closed, gen⟩ := closed_gens ready s.gens g _
    refine ⟨t, next, closed, ?_⟩
    rw [gen]
    have turns centre := Gen.advanced_centre (x := s.gens.get g) centre period (s.unitBoundary g) (s.longOf (s.unitBoundary g))
    exact ⟨running, rfl, rfl, rfl, fun edge up => Gen.advanced_edge edge period up _ _, fun centre => (turns centre).1,
      fun centre => (turns centre).2.1, fun centre => (turns centre).2.2.1, fun centre => (turns centre).2.2.2⟩
  · obtain ⟨-, running, -⟩ := unitDue_inv due
    rw [exec_unitEnd_last due last, exec_periodEnd_last due last, unitPeriodEnd_of_unchained single]
    obtain ⟨t, next, closed, gen⟩ := closed_gens ready s.gens g _
    refine ⟨rfl, t, next, closed, ?_⟩
    rw [gen]
    by_cases complete : (s.gens.get g).periodCounted.applied.burst ≠ 0 ∧ (s.gens.get g).periodCounted.applied.burst ≤ (s.gens.get g).periodCounted.periodsDone
    · rw [Gen.periodEnded_complete complete]
      exact ⟨rfl, rfl, satSucc_eq_min _ _, rfl, rfl, rfl, fun _ => ⟨rfl, rfl⟩, fun goesOn => absurd complete goesOn⟩
    · rw [Gen.periodEnded_goesOn complete]
      exact ⟨rfl, rfl, satSucc_eq_min _ _, rfl, rfl, rfl, fun done => absurd done complete, fun _ => ⟨running, rfl⟩⟩

end Sys2Proof.Machine
end

section
/-! PROOFS. The record stream (spec/03): what the capture's own work leaves alone, and a record offered to staging (R41, R45). -/

namespace Sys2Proof.Machine

/-! ## What the capture's own work leaves alone -/

/-- `u` comes from `s` by work of the capture: pods, sampler, staging, writer, pool, takes, sequencer, alerts and page, and no other unit. -/
structure CaptureWork (s u : State) : Prop where
  frame : u = { s with
    pods := u.pods, sampler := u.sampler, staging := u.staging, writer := u.writer, pool := u.pool, takes := u.takes, seq := u.seq, alerts := u.alerts,
    report := u.report }

theorem CaptureWork.trans {s u v : State} (h : CaptureWork s u) (g : CaptureWork u v) : CaptureWork s v where
  frame := g.frame.trans (by rw [h.frame])

/-- `t` is `u` closed, and of the units that the capture's work on `s` leaves alone none differs. -/
structure CaptureClosed (s u t : State) : Prop where
  closed : closedFrom u t
  gens : t.gens = s.gens
  lanes : t.lanes = s.lanes
  monitor : t.monitor = s.monitor
  slots : t.slots = s.slots
  panel : t.panel = s.panel
  disp : t.disp = s.disp
  bytes : bytesKept s t storesNothing

/-- A step that does the capture's work closes on it. -/
theorem CaptureWork.closes {s u : State} (work : CaptureWork s u) (ready : s.ready) : CaptureClosed s u u.finish := by
  have frame := work.frame
  have closed : closedFrom u u.finish := finish_closes (by rw [frame]; exact ready)
  have shared : u.shared = s.shared := by rw [frame]
  have disp : u.disp = s.disp := by rw [frame]
  exact {
    closed := closed
    gens := closed.gens.trans (by rw [frame])
    lanes := closed.lanes.trans (by rw [frame])
    monitor := closed.monitor.trans (by rw [frame])
    slots := closed.slots.trans (by rw [frame])
    panel := closed.panel.trans (by rw [frame])
    disp := closed.disp.trans disp
    bytes := bytesKept_of_same shared disp closed.2 }

/-! ## The time of a record (R41, R42) -/

@[simp] theorem ticksFrom_self (t : Tick) : ticksFrom t t = 0 := by simp [ticksFrom]

/-- A record of the present interval has the interval's time: the stream time does not lie after it. -/
@[simp] theorem recordTime_now (s : State) : s.recordTime s.intervalTime = s.intervalTime := by
  unfold State.recordTime
  rw [ticksFrom_self, if_pos (Nat.zero_le _)]

theorem deltaAt_streamTime {s : State} {t : Tick} (h : s.sampler.streamTime = t) : s.deltaAt t = 0 := by
  rw [← h, State.deltaAt, ticksFrom_self, Nat.zero_div]

theorem needsAnchor_streamTime {s : State} {t : Tick} (h : s.sampler.streamTime = t) (b : RecBody) : s.needsAnchor t b = false := by
  simp [State.needsAnchor, deltaAt_streamTime h]

/-- A record of the stream time needs no ANCHOR before it, and has delta 0. -/
theorem admitted_streamTime {s : State} {t : Tick} (h : s.sampler.streamTime = t) (id : Nat) (b : RecBody) :
    s.admitted id t b = [⟨⟨0, b⟩, t, id⟩] := by
  simp [State.admitted, needsAnchor_streamTime h, deltaAt_streamTime h]

theorem admitted_anchor (s : State) (id : Nat) (t x : Tick) : s.admitted id t (.anchor x) = [⟨⟨0, .anchor x⟩, t, id⟩] := by
  simp [State.admitted, State.needsAnchor, RecBody.isAnchor]

theorem admitted_length (s : State) (id : Nat) (t : Tick) (b : RecBody) : (s.admitted id t b).length ≤ 2 := by
  unfold State.admitted
  split <;> simp

/-- What admission reads of the sampler is the stream time and the interval exponent. -/
theorem admitted_congr {s u : State} (stream : u.sampler.streamTime = s.sampler.streamTime) (exp : u.sampler.intervalExp = s.sampler.intervalExp) :
    u.admitted = s.admitted := by
  have delta : u.deltaAt = s.deltaAt := by
    unfold State.deltaAt
    rw [stream, exp]
  unfold State.admitted State.needsAnchor
  rw [delta]

/-! ## A record offered to staging (R45) -/

/-- `u` is `s` with the records `rs` admitted to staging, the sampler `p` and the take table `k`; nothing else differs but staging's trip and its alert, and the
page's hand-over. -/
structure Records (s : State) (p : Sampler) (k : TakeTable) (rs : List Staged) (u : State) : Prop where
  frame : u = { s with sampler := p, staging := u.staging, takes := k, alerts := u.alerts, report := u.report }
  staging : u.staging = { s.staging with records := s.staging.records ++ rs, tripArmed := u.staging.tripArmed }

section
variable {s u v : State} {p q : Sampler} {k j : TakeTable} {rs rs' : List Staged}

theorem Records.trans (h : Records s p k rs u) (g : Records u q j rs' v) : Records s q j (rs ++ rs') v where
  frame := g.frame.trans (by rw [h.frame])
  staging := g.staging.trans (by rw [h.staging, ← List.append_assoc])

/-- The sampler may change by other work. -/
theorem Records.resampled (h : Records s p k rs u) (q : Sampler) : Records s q k rs { u with sampler := q } :=
  ⟨by rw [h.frame], h.staging⟩

/-- And so may the pods. -/
theorem Records.repodded (h : Records s p k rs u) (pods : Four Pod) : Records { s with pods := pods } p k rs { u with pods := pods } :=
  ⟨by rw [h.frame], h.staging⟩

/-- And so may the take table, and what is handed to the page. -/
theorem Records.retaken (h : Records s p k rs u) (j : TakeTable) (report : Report) : Records s p j rs { u with takes := j, report := report } :=
  ⟨by rw [h.frame], h.staging⟩

theorem Records.work (h : Records s p k rs u) : CaptureWork s u := ⟨h.frame.trans (by rw [h.frame])⟩

theorem Records.sampler (h : Records s p k rs u) : u.sampler = p := by rw [h.frame]
theorem Records.takes (h : Records s p k rs u) : u.takes = k := by rw [h.frame]
theorem Records.pods (h : Records s p k rs u) : u.pods = s.pods := by rw [h.frame]
theorem Records.seq (h : Records s p k rs u) : u.seq = s.seq := by rw [h.frame]
theorem Records.records (h : Records s p k rs u) : u.staging.records = s.staging.records ++ rs := by rw [h.staging]
theorem Records.overflow (h : Records s p k rs u) : u.staging.overflow = s.staging.overflow := by rw [h.staging]
theorem Records.fill (h : Records s p k rs u) : u.staging.fill = s.staging.fill + rs.length := by
  unfold Staging.fill
  rw [h.records, List.length_append]

end

/-- An offer that staging admits; an ANCHOR comes with its own time. -/
theorem offer_admitted {s : State} {t : Tick} {b : RecBody} (i : Nat) (timed : (if b.isAnchor then .anchor (s.recordTime t) else b) = b)
    (ok : s.admits (s.recordTime t) b = true) :
    Records s { s.sampler with streamTime := s.recordTime t } s.takes (s.admitted (s.takeAt i).id (s.recordTime t) b) (s.offer i t b) := by
  unfold State.offer
  simp only [timed, ok, if_true]
  exact ⟨rfl, rfl⟩

/-- A record that finds no place for itself and the ANCHOR it may need, or that overflow shuts out. -/
theorem not_admits {s : State} (full : s.staging.overflow = true ∨ 4096 ≤ s.staging.fill) (t : Tick) (b : RecBody) : s.admits t b = false := by
  unfold State.admits Config.stagingSize
  rcases full with overflow | full
  · rw [overflow]
    rfl
  · have none : ¬ s.staging.fill + (if s.needsAnchor t b then 2 else 1) ≤ 4096 := by split <;> omega
    rw [decide_eq_false none, Bool.and_false]

/-- An offer that staging discards: OVERFLOW, one more record lost, counted by the take; the stream time stands. -/
theorem offer_discarded {s : State} {b : RecBody} (full : s.staging.overflow = true ∨ 4096 ≤ s.staging.fill) (plain : b.isAnchor = false) (i : Nat)
    (t : Tick) :
    s.offer i t b = { s with
      staging := s.staging.discarding b
      takes := { s.takes with entries := putAt s.takes.entries i { s.takeAt i with lost := satSucc (s.takeAt i).lost max32 } }
      report := (s.offer i t b).report } := by
  have discards := not_admits full (s.recordTime t) b
  unfold State.offer
  simp only [plain, discards, Bool.false_eq_true, if_false]
  rfl

theorem offer_work (s : State) (i : Nat) (t : Tick) (b : RecBody) : CaptureWork s (s.offer i t b) := ⟨rfl⟩

theorem insert_recorded {s : State} {i : Nat} (recorded : s.recordingIndex = some i) (t : Tick) (b : RecBody) : s.insert t b = s.offer i t b := by
  unfold State.insert
  rw [recorded]

/-- A source's record while a take is recorded and staging has room: it is in the stream at its time. -/
theorem insert_admitted {s : State} {i : Nat} {b : RecBody} (recorded : s.recordingIndex = some i) (normal : s.staging.overflow = false)
    (room : s.staging.fill + 2 ≤ 4096) (plain : b.isAnchor = false) (t : Tick) :
    Records s { s.sampler with streamTime := s.recordTime t } s.takes (s.admitted (s.takeAt i).id (s.recordTime t) b) (s.insert t b) := by
  rw [insert_recorded recorded]
  exact offer_admitted i (by rw [plain]; rfl) (admits_of_room normal room _ _)

/-- The ANCHOR that follows a GAP. -/
theorem offer_anchor {s : State} (normal : s.staging.overflow = false) (room : s.staging.fill + 2 ≤ 4096) (i : Nat) :
    Records s { s.sampler with streamTime := s.intervalTime } s.takes [⟨⟨0, .anchor s.intervalTime⟩, s.intervalTime, (s.takeAt i).id⟩]
      (s.offer i s.intervalTime (.anchor s.intervalTime)) := by
  have offered := offer_admitted (s := s) (t := s.intervalTime) (b := .anchor s.intervalTime) i (by simp [RecBody.isAnchor])
    (admits_of_room normal room _ _)
  rw [recordTime_now, admitted_anchor] at offered
  exact offered

/-- A record of the stream time finds room where one place is left. -/
theorem admits_streamTime {s : State} {t : Tick} (stream : s.sampler.streamTime = t) (normal : s.staging.overflow = false)
    (room : s.staging.fill + 1 ≤ 4096) (b : RecBody) : s.admits t b = true := by
  unfold State.admits
  rw [needsAnchor_streamTime stream, normal]
  exact decide_eq_true room

theorem intervalTime_congr {s u : State} (tick : u.tick = s.tick) (origin : u.sampler.origin = s.sampler.origin)
    (exp : u.sampler.intervalExp = s.sampler.intervalExp) : u.intervalTime = s.intervalTime := by
  unfold State.intervalTime
  rw [tick, origin, exp]

/-- A GAP of the present interval and the ANCHOR behind it (R46, R54); between the two the take table may have become `k`. -/
theorem offer_gap_anchor {s : State} {i : Nat} {gap : RecBody} {k : TakeTable} (normal : s.staging.overflow = false)
    (room : s.staging.fill + 4 ≤ 4096) (plain : gap.isAnchor = false) (named : (k.entries.getD i Take.reset).id = (s.takeAt i).id) :
    Records s { s.sampler with streamTime := s.intervalTime } k
      (s.admitted (s.takeAt i).id s.intervalTime gap ++ [⟨⟨0, .anchor s.intervalTime⟩, s.intervalTime, (s.takeAt i).id⟩])
      (State.offer { s.offer i s.intervalTime gap with takes := k } i s.intervalTime (.anchor s.intervalTime)) := by
  have first := offer_admitted (s := s) (t := s.intervalTime) (b := gap) i (by rw [plain]; rfl) (admits_of_room normal (by omega) _ _)
  rw [recordTime_now] at first
  have counted : Records s { s.sampler with streamTime := s.intervalTime } k (s.admitted (s.takeAt i).id s.intervalTime gap)
      { s.offer i s.intervalTime gap with takes := k } := ⟨by rw [first.frame], first.staging⟩
  have length := admitted_length s (s.takeAt i).id s.intervalTime gap
  have sampler := counted.sampler
  have now : State.intervalTime { s.offer i s.intervalTime gap with takes := k } = s.intervalTime :=
    intervalTime_congr rfl (by rw [sampler]) (by rw [sampler])
  have second := offer_anchor (s := { s.offer i s.intervalTime gap with takes := k }) (counted.overflow.trans normal) (by rw [counted.fill]; omega) i
  rw [now, sampler] at second
  have last : (State.takeAt { s.offer i s.intervalTime gap with takes := k } i).id = (s.takeAt i).id := named
  rw [last] at second
  exact counted.trans second

/-! ## The take being recorded -/

/-- A take in PRETRIG or POSTTRIG stands in the table. -/
theorem takeAt_present {s : State} {i : Nat} (sampling : (s.takeAt i).sampling = true) : i < s.takes.entries.length := by
  by_contra past
  have reset : s.takeAt i = Take.reset := List.getD_eq_default _ _ (Nat.le_of_not_lt past)
  rw [reset] at sampling
  exact absurd sampling (by decide)

/-- The entry of a take in PRETRIG or POSTTRIG once it has been replaced. -/
theorem takeAt_put {s u : State} {i : Nat} {k : Take} (sampling : (s.takeAt i).sampling = true) (put : u.takes.entries = putAt s.takes.entries i k) :
    u.takeAt i = k := by
  unfold State.takeAt
  rw [put, getD_putAt, if_pos ⟨rfl, takeAt_present sampling⟩]

/-- A take being recorded is still recorded once its entry is replaced by one in the same state that is not ending. -/
theorem recordingIndex_put {s u : State} {i : Nat} {k : Take} (recorded : s.recordingIndex = some i)
    (put : u.takes.entries = putAt s.takes.entries i k) (state : k.state = (s.takeAt i).state) (goesOn : k.endReason = none) :
    u.recordingIndex = some i := by
  obtain ⟨capturing, sampling, -⟩ := recordingIndex_spec recorded
  have first : u.capIndex = some i := by
    unfold State.capIndex
    rw [put, findIdxFrom_putAt _ _ _ _ _ Take.reset (by unfold Take.capturing; rw [state]; rfl)]
    exact capturing
  unfold State.recordingIndex
  rw [first]
  dsimp only
  rw [takeAt_put sampling put, goesOn]
  unfold Take.sampling at sampling ⊢
  rw [state, sampling]
  rfl

/-- A take entry with one more GAP counted. -/
def Take.gapped (t : Take) : Take := { t with gaps := satSucc t.gaps 65535 }

/-- The take table with one more GAP counted in entry `i`. -/
def State.gapCounted (s : State) (i : Nat) : TakeTable := { s.takes with entries := putAt s.takes.entries i (s.takeAt i).gapped }

theorem countGap_of_takes {s u : State} (takes : u.takes = s.takes) (i : Nat) : u.countGap i = { u with takes := s.gapCounted i } := by
  unfold State.countGap State.setTake State.gapCounted
  rw [takeAt_congr takes, takes]
  rfl

theorem gapCounted_takeAt {s u : State} {i : Nat} (sampling : (s.takeAt i).sampling = true) (takes : u.takes = s.gapCounted i) :
    u.takeAt i = (s.takeAt i).gapped :=
  takeAt_put sampling (by rw [takes]; rfl)

theorem gapCounted_id {s : State} {i : Nat} (sampling : (s.takeAt i).sampling = true) :
    ((s.gapCounted i).entries.getD i Take.reset).id = (s.takeAt i).id := by
  have entry : (s.gapCounted i).entries.getD i Take.reset = (s.takeAt i).gapped :=
    gapCounted_takeAt (u := { s with takes := s.gapCounted i }) sampling rfl
  rw [entry]
  rfl

/-- With every source inactive and every latch clear there is nothing to restate after a GAP (R47). -/
theorem restateFaults_healthy {s : State} (healthy : podsHealthy s) (t : Tick) : s.restateFaults SourceRec.gapFault t = s := by
  have nothing (p : Fin 4) (src : FaultSource) : State.restateSource SourceRec.gapFault t p s src = s := by
    obtain ⟨latch, inactive⟩ := healthy p
    have silent : SourceRec.gapFault ((s.pods.get p).sources.get src) (s.pods.get p).latch = none := by
      simp [SourceRec.gapFault, latch, inactive src]
    unfold State.restateSource
    rw [silent]
  simp [State.restateFaults, State.restatePod, fourOrder, FaultSource.order, nothing]

theorem presented_congr {s u : State} (h : u.pods = s.pods) (levels : Chans) : u.presented levels = s.presented levels := by
  unfold State.presented
  rw [h]

theorem podsHealthy_congr {s u : State} (h : u.pods = s.pods) (healthy : podsHealthy s) : podsHealthy u := by
  unfold podsHealthy
  rwa [h]

end Sys2Proof.Machine
end

section
/-! PROOFS. The sampler (spec/03): one sample interval (O46). -/

namespace Sys2Proof.Machine

/-! ## A vector that no lane and no sequencer run takes -/

theorem liveInterval_unattached {s : State} (h : ∀ k : Fin 4, (s.lanes.get k).state ≠ .attached) (t : Tick) (levels unknown : Chans) :
    s.liveInterval t levels unknown = s := by
  have refuses (k : Fin 4) : (s.lanes.get k).takesVector t = false := by simp [Lane.takesVector, h k]
  simp [State.liveInterval, fourOrder, refuses]

theorem liveGap_unattached {s : State} (h : ∀ k : Fin 4, (s.lanes.get k).state ≠ .attached) (t : Tick) : s.liveGap t = s := by
  simp [State.liveGap, fourOrder, h]

theorem recordsOnly_congr {s u : State} (lanes : u.lanes = s.lanes) (seq : u.seq = s.seq) (alone : recordsOnly s) : recordsOnly u := by
  unfold recordsOnly
  rwa [lanes, seq]

theorem vector_recordsOnly {s : State} (alone : recordsOnly s) (t : Tick) (levels unknown : Chans) :
    (s.liveInterval t levels unknown).seqVector t levels unknown = s := by
  obtain ⟨unattached, still⟩ := alone
  rw [liveInterval_unattached unattached, seqVector_idle (captureRuns_of_not_running still)]

/-- A take whose trigger mode is not IMMEDIATE is not triggered by an interval (R73). -/
theorem immediate_of_mode {s : State} {i : Nat} (recorded : s.recordingIndex = some i) (mode : (s.takeAt i).mode ≠ .immediate) (t : Tick) :
    s.immediate t = s := by
  obtain ⟨capturing, -, -⟩ := recordingIndex_spec recorded
  unfold State.immediate
  rw [capturing]
  exact if_neg fun h => mode h.1

/-! ## The vector of an interval of SAMPLING (R39, R43) -/

/-- The idle timer after an interval of time `t`: loaded again by a transition (R51). -/
def State.idleAfter (s : State) (t : Tick) (levels : Chans) : Option Tick :=
  if s.sampler.transition (s.presented levels) s.latchedPods && s.sampler.idleTimer.isSome then s.sampler.idleLoaded t else s.sampler.idleTimer

/-- The part with the vector of the interval of time `t` formed, before anything takes it. -/
def State.vectored (s : State) (t : Tick) (levels : Chans) : State :=
  { s with sampler := { s.sampler.sampled levels (s.presented levels) s.latchedPods with idleTimer := s.idleAfter t levels } }

/-- The same where the interval's CHANGE restates the levels. -/
def State.restating (s : State) (t : Tick) (levels : Chans) : State :=
  { s with sampler := { s.sampler.sampled levels (s.presented levels) s.latchedPods with idleTimer := s.idleAfter t levels, restateDue := false } }

theorem restating_work (s : State) (t : Tick) (levels : Chans) : CaptureWork s (s.restating t levels) := ⟨rfl⟩

theorem forming_work (s : State) : CaptureWork s s.forming := ⟨rfl⟩

/-- A timer that this interval has loaded, or that does not run, stays as it is. -/
theorem idleAfter_of_loaded {s : State} {t : Tick} (h : s.sampler.idleTimer = none ∨ s.sampler.idleTimer = s.sampler.idleLoaded t) (levels : Chans) :
    s.idleAfter t levels = s.sampler.idleTimer := by
  unfold State.idleAfter
  split
  · next moved =>
    rcases h with stopped | loaded
    · simp [stopped] at moved
    · exact loaded.symm
  · rfl

/-- The interval forms a CHANGE (R43). -/
def State.changeDue (s : State) (levels : Chans) : Bool := s.sampler.restateDue || s.sampler.differs (s.presented levels) != 0

/-- The CHANGE of an interval: the listed levels. -/
def State.changeBody (s : State) (levels : Chans) : RecBody := .change (s.presented levels &&& s.sampler.channels)

theorem sampleVector_alone {s : State} (alone : recordsOnly s) (t : Tick) (levels : Chans) :
    s.sampleVector t levels = ((s.vectored t levels).changeRecord t (s.presented levels) (s.changeDue levels)).immediate t := by
  have vector := vector_recordsOnly (s := s.vectored t levels) alone t (s.presented levels) (s.vectored t levels).unknownNow
  have equation : s.sampleVector t levels =
      State.immediate
        ((((s.vectored t levels).liveInterval t (s.presented levels) (s.vectored t levels).unknownNow).seqVector t (s.presented levels)
          (s.vectored t levels).unknownNow).changeRecord t (s.presented levels) (s.changeDue levels)) t := rfl
  rw [equation, vector]

/-- `u` is `s` with an interval's vector taken: the presented levels are the current ones and those of the interval before the next (R39, R43). -/
structure Sampled (s : State) (levels : Chans) (u : State) : Prop where
  work : CaptureWork s u
  pods : u.pods = s.pods
  seq : u.seq = s.seq
  current : u.sampler.current = s.presented levels
  previous : u.sampler.previous = s.presented levels

section
variable {s : State} {i : Nat} {levels : Chans} (alone : recordsOnly s) (recorded : s.recordingIndex = some i) (mode : (s.takeAt i).mode ≠ .immediate)
include alone recorded mode

/-- An interval without a CHANGE (R43). -/
theorem sampleVector_same (same : s.changeDue levels = false) (t : Tick) : s.sampleVector t levels = s.vectored t levels := by
  have nothing : (s.vectored t levels).changeRecord t (s.presented levels) false = s.vectored t levels := if_neg (by decide)
  rw [sampleVector_alone alone, same, nothing]
  exact immediate_of_mode (s := s.vectored t levels) recorded mode t

/-- An interval with a CHANGE: it is offered to staging (R43). -/
theorem sampleVector_change (due : s.changeDue levels = true) (t : Tick) :
    s.sampleVector t levels = (s.restating t levels).offer i t (s.changeBody levels) := by
  have offers : (s.vectored t levels).changeRecord t (s.presented levels) true = (s.restating t levels).insert t (s.changeBody levels) := if_pos rfl
  obtain ⟨n, entry⟩ := offer_takeAt (s.restating t levels) i t (s.changeBody levels) i
  rw [sampleVector_alone alone, due, offers, insert_recorded (s := s.restating t levels) recorded]
  refine immediate_of_mode (s := (s.restating t levels).offer i t (s.changeBody levels)) (i := i) ?_ ?_ t
  · rw [offer_recordingIndex]
    exact recorded
  · rw [entry]
    exact mode

/-- What every interval of SAMPLING does, whether or not staging takes its CHANGE. -/
theorem sampleVector_sampled (t : Tick) : Sampled s levels (s.sampleVector t levels) := by
  cases due : s.changeDue levels with
  | false =>
    rw [sampleVector_same alone recorded mode due]
    exact ⟨⟨rfl⟩, rfl, rfl, rfl, rfl⟩
  | true =>
    rw [sampleVector_change alone recorded mode due]
    exact ⟨(restating_work s t levels).trans (offer_work _ _ _ _), rfl, rfl, rfl, rfl⟩

/-- An interval whose CHANGE staging takes (R43, R45). -/
theorem sampleVector_admitted {t : Tick} (ok : s.admits (s.recordTime t) (s.changeBody levels) = true)
    (due : s.changeDue levels = true) :
    Records s { (s.restating t levels).sampler with streamTime := s.recordTime t } s.takes
      (s.admitted (s.takeAt i).id (s.recordTime t) (s.changeBody levels)) (s.sampleVector t levels) := by
  rw [sampleVector_change alone recorded mode due]
  have offered := offer_admitted (s := s.restating t levels) (b := s.changeBody levels) i rfl ok
  exact ⟨offered.frame, offered.staging⟩

/-- An interval whose CHANGE staging discards (R43, R45). -/
theorem sampleVector_discarded (full : s.staging.overflow = true ∨ 4096 ≤ s.staging.fill) (due : s.changeDue levels = true) (t : Tick) :
    s.sampleVector t levels = { s.restating t levels with
      staging := s.staging.discarding (s.changeBody levels)
      takes := { s.takes with entries := putAt s.takes.entries i { s.takeAt i with lost := satSucc (s.takeAt i).lost max32 } }
      report := (s.sampleVector t levels).report } := by
  rw [sampleVector_change alone recorded mode due]
  exact offer_discarded (s := s.restating t levels) full (b := s.changeBody levels) rfl i t

end

/-! ## Sampling resumes (R54) -/

/-- The idle timer of a resumption: it runs in PRETRIG (R51). -/
def State.resumedTimer (s : State) (i : Nat) : Option Tick := if (s.takeAt i).state = .pretrig then s.sampler.idleLoaded s.intervalTime else none

/-- The sampler of a resumption in the interval of time `t`. -/
def Sampler.resumed (p : Sampler) (t : Tick) (timer : Option Tick) : Sampler :=
  { p with
    state := .sampling
    streamTime := t
    restateDue := true
    idleTimer := timer
    wakingPods := 0
    wakingTrigger := false
    onAgain := none }

/-- The records of a resumption in the present interval: GAP and ANCHOR. -/
def State.resumption (s : State) (i : Nat) : List Staged :=
  s.admitted (s.takeAt i).id s.intervalTime s.sampler.wakeGap ++ [⟨⟨0, .anchor s.intervalTime⟩, s.intervalTime, (s.takeAt i).id⟩]

section
variable {s : State} {i : Nat} (recorded : s.recordingIndex = some i) (normal : s.staging.overflow = false) (room : s.staging.fill + 4 ≤ 4096)
  (healthy : podsHealthy s)
include recorded normal room healthy

/-- A resumption with all pods healthy: GAP and ANCHOR, one more gap in the take, SAMPLING (R54). -/
theorem resume_records :
    Records s (s.sampler.resumed s.intervalTime (s.resumedTimer i)) (s.gapCounted i) (s.resumption i) (s.resume s.intervalTime) := by
  obtain ⟨-, sampling, -⟩ := recordingIndex_spec recorded
  have gap := offer_admitted (s := s) (t := s.intervalTime) (b := s.sampler.wakeGap) i rfl (admits_of_room normal (by omega) _ _)
  have records := offer_gap_anchor (s := s) (gap := s.sampler.wakeGap) normal room rfl (gapCounted_id sampling)
  have state : (State.takeAt (State.offer { s.offer i s.intervalTime s.sampler.wakeGap with takes := s.gapCounted i } i s.intervalTime
      (.anchor s.intervalTime)) i).state = (s.takeAt i).state := by
    rw [gapCounted_takeAt sampling records.takes]
    rfl
  unfold State.resume
  rw [recorded]
  dsimp only
  rw [countGap_of_takes gap.takes, restateFaults_healthy (podsHealthy_congr records.pods healthy), state, records.sampler]
  exact records.resampled _

/-- The CHANGE that restates the levels behind a resumption. -/
def State.restatement (s : State) (i : Nat) (levels : Chans) : Staged :=
  ⟨⟨0, .change (s.presented levels &&& s.sampler.channels)⟩, s.intervalTime, (s.takeAt i).id⟩

/-- The interval of a resumption, in which the levels are restated (R43, R54). -/
theorem resume_sampleVector (alone : recordsOnly s) (mode : (s.takeAt i).mode ≠ .immediate) (levels : Chans) :
    ∃ q, Records s q (s.gapCounted i) (s.resumption i ++ [s.restatement i levels]) ((s.resume s.intervalTime).sampleVector s.intervalTime levels) ∧
      q.state = .sampling ∧ q.current = s.presented levels ∧ q.streamTime = s.intervalTime ∧ q.restateDue = false ∧ q.idleTimer = s.resumedTimer i := by
  obtain ⟨-, sampling, goesOn⟩ := recordingIndex_spec recorded
  have resumes := resume_records recorded normal room healthy
  have length : (s.resumption i).length ≤ 3 := by
    have gap := admitted_length s (s.takeAt i).id s.intervalTime s.sampler.wakeGap
    simp only [State.resumption, List.length_append, List.length_singleton]
    omega
  generalize s.resume s.intervalTime = v at resumes
  have entry := gapCounted_takeAt sampling resumes.takes
  have presented : v.presented levels = s.presented levels := presented_congr resumes.pods levels
  have sampler := resumes.sampler
  have stream : v.sampler.streamTime = s.intervalTime := by rw [sampler]; rfl
  have now : v.recordTime s.intervalTime = s.intervalTime := by
    have same : v.intervalTime = s.intervalTime := intervalTime_congr (by rw [resumes.frame]) (by rw [sampler]; rfl) (by rw [sampler]; rfl)
    rw [← same, recordTime_now]
  have change : v.admitted (v.takeAt i).id s.intervalTime (v.changeBody levels) = [s.restatement i levels] := by
    rw [admitted_streamTime stream, entry]
    unfold State.changeBody State.restatement
    rw [presented, sampler]
    rfl
  have loaded : s.resumedTimer i = none ∨ s.resumedTimer i = s.sampler.idleLoaded s.intervalTime := by
    unfold State.resumedTimer
    split
    · exact Or.inr rfl
    · exact Or.inl rfl
  have timer : v.idleAfter s.intervalTime levels = s.resumedTimer i :=
    (idleAfter_of_loaded (by rw [sampler]; exact loaded) levels).trans (by rw [sampler]; rfl)
  have still : recordsOnly v := recordsOnly_congr (by rw [resumes.frame]) resumes.seq alone
  have recorded' : v.recordingIndex = some i := recordingIndex_put (k := (s.takeAt i).gapped) recorded (by rw [resumes.takes]; rfl) rfl goesOn
  have ok : v.admits (v.recordTime s.intervalTime) (v.changeBody levels) = true := by
    rw [now]
    exact admits_streamTime stream (resumes.overflow.trans normal) (by rw [resumes.fill]; omega) _
  have due : v.changeDue levels = true := by
    unfold State.changeDue
    rw [sampler]
    rfl
  have vector := sampleVector_admitted still recorded' (by rw [entry]; exact mode) ok due
  rw [now, change, resumes.takes] at vector
  exact ⟨_, resumes.trans vector, congrArg Sampler.state sampler, presented, rfl, rfl, timer⟩

end

/-! ## One sample interval -/

theorem sampleInterval_idle {s : State} (h : s.sampler.state = .idle) (levels : Chans) : s.sampleInterval levels = s := by
  unfold State.sampleInterval
  rw [h]

theorem sampleInterval_sampling {s : State} (h : s.sampler.state = .sampling) (levels : Chans) :
    s.sampleInterval levels = s.forming.sampleVector s.intervalTime levels := by
  unfold State.sampleInterval
  rw [h]

theorem sampleInterval_resumes {s : State} (h : s.sampler.state = .waking) (still : s.seq.state ≠ .running) (resumes : s.resumes = true)
    (levels : Chans) : s.sampleInterval levels = (s.forming.resume s.intervalTime).sampleVector s.intervalTime levels := by
  have idle : s.forming.captureRuns = false := captureRuns_of_not_running still
  unfold State.sampleInterval
  rw [h]
  dsimp only
  rw [seqEarlier_idle idle]
  exact if_pos resumes

/-- A sample interval that does the capture's work, and leaves the sequencer as it was, closes on it. -/
theorem exec_sampleInterval {s u : State} {levels : Chans} (does : s.sampleInterval levels = u) (ready : s.ready) (work : CaptureWork s u)
    (still : u.seq.state ≠ .running) : ∃ t, exec (.sampleInterval levels) s = .next t ∧ CaptureClosed s u t := by
  refine ⟨u.finish, ?_, work.closes ready⟩
  change Host.Outcome.next (s.sampleInterval levels).finishEvents = _
  rw [does, finishEvents_idle (captureRuns_of_not_running still)]

section
variable {s : State} {i : Nat} {levels : Chans} (ready : s.ready) (alone : recordsOnly s) (recorded : s.recordingIndex = some i)
  (mode : (s.takeAt i).mode ≠ .immediate)
include ready alone recorded mode

/-- An interval of SAMPLING: its vector, and the closing of the step. -/
theorem exec_sampleInterval_sampling (sampling : s.sampler.state = .sampling) :
    Sampled s.forming levels (s.forming.sampleVector s.intervalTime levels) ∧
      ∃ t, exec (.sampleInterval levels) s = .next t ∧ CaptureClosed s (s.forming.sampleVector s.intervalTime levels) t := by
  have sampled := sampleVector_sampled (s := s.forming) (levels := levels) alone recorded mode s.intervalTime
  refine ⟨sampled, exec_sampleInterval (sampleInterval_sampling sampling levels) ready ((forming_work s).trans sampled.work) ?_⟩
  rw [sampled.seq]
  exact alone.2

/-- An interval of SAMPLING while staging has room. -/
theorem exec_sampleInterval_admits (sampling : s.sampler.state = .sampling) (normal : s.staging.overflow = false)
    (room : s.staging.fill + 2 ≤ 4096) :
    ∃ t, exec (.sampleInterval levels) s = .next t ∧ CaptureClosed s (s.forming.sampleVector s.intervalTime levels) t ∧
      Sampled s.forming levels (s.forming.sampleVector s.intervalTime levels) ∧ t.takes = s.takes ∧
      (s.changeDue levels = false → t.staging = s.staging) ∧
      (s.changeDue levels = true → t.sampler.restateDue = false ∧ t.staging.records = s.staging.records ++
        s.admitted (s.takeAt i).id (s.recordTime s.intervalTime) (.change (s.presented levels &&& s.sampler.channels))) := by
  obtain ⟨sampled, t, step, done⟩ := exec_sampleInterval_sampling ready alone recorded mode (levels := levels) sampling
  refine ⟨t, step, done, sampled, ?_⟩
  rw [done.closed.takes, done.closed.staging, done.closed.sampler]
  cases due : s.changeDue levels with
  | false =>
    rw [sampleVector_same (s := s.forming) alone recorded mode due]
    exact ⟨rfl, fun _ => rfl, nofun⟩
  | true =>
    have admitted := sampleVector_admitted (s := s.forming) alone recorded mode (t := s.intervalTime) (admits_of_room normal room _ _) due
    rw [admitted.sampler, admitted.takes, admitted.records]
    exact ⟨rfl, nofun, fun _ => ⟨rfl, rfl⟩⟩

/-- An interval of SAMPLING whose CHANGE staging would discard. -/
theorem exec_sampleInterval_discards (sampling : s.sampler.state = .sampling) (full : s.staging.overflow = true ∨ 4096 ≤ s.staging.fill) :
    ∃ t, exec (.sampleInterval levels) s = .next t ∧ CaptureClosed s (s.forming.sampleVector s.intervalTime levels) t ∧
      Sampled s.forming levels (s.forming.sampleVector s.intervalTime levels) ∧ t.sampler.streamTime = s.sampler.streamTime ∧ t.alerts = s.alerts ∧
      (s.changeDue levels = false → t.staging = s.staging ∧ t.takes = s.takes) ∧
      (s.changeDue levels = true → t.sampler.restateDue = false ∧
        t.staging = { s.staging with overflow := true, lost := min (s.staging.lost + 1) (2 ^ 32 - 1) } ∧
        t.takes = { s.takes with entries := putAt s.takes.entries i { s.takeAt i with lost := min ((s.takeAt i).lost + 1) (2 ^ 32 - 1) } }) := by
  obtain ⟨sampled, t, step, done⟩ := exec_sampleInterval_sampling ready alone recorded mode (levels := levels) sampling
  refine ⟨t, step, done, sampled, ?_⟩
  rw [done.closed.takes, done.closed.staging, done.closed.sampler, done.closed.alerts]
  cases due : s.changeDue levels with
  | false =>
    rw [sampleVector_same (s := s.forming) alone recorded mode due]
    exact ⟨rfl, rfl, fun _ => ⟨rfl, rfl⟩, nofun⟩
  | true =>
    have staging : s.staging.discarding (s.changeBody levels) =
        { s.staging with overflow := true, lost := min (s.staging.lost + 1) (2 ^ 32 - 1) } := by
      simp [Staging.discarding, State.changeBody, RecBody.isFire, RecBody.faultPod, satSucc_eq_min, max32]
    rw [sampleVector_discarded (s := s.forming) alone recorded mode full due, satSucc_eq_min]
    exact ⟨rfl, rfl, nofun, fun _ => ⟨rfl, staging, rfl⟩⟩

/-- An interval of WAKING in which sampling resumes, with all pods healthy and room in staging. -/
theorem exec_sampleInterval_resumes (waking : s.sampler.state = .waking) (resumes : s.resumes = true) (healthy : podsHealthy s)
    (normal : s.staging.overflow = false) (room : s.staging.fill + 4 ≤ 4096) :
    ∃ t u q, exec (.sampleInterval levels) s = .next t ∧ CaptureClosed s u t ∧
      Records s q (s.gapCounted i) (s.resumption i ++ [s.restatement i levels]) u ∧
      q.state = .sampling ∧ q.current = s.presented levels ∧ q.streamTime = s.intervalTime ∧ q.restateDue = false ∧ q.idleTimer = s.resumedTimer i := by
  obtain ⟨q, records, facts⟩ := resume_sampleVector (s := s.forming) recorded normal room healthy alone mode levels
  have records : Records s q (s.gapCounted i) (s.resumption i ++ [s.restatement i levels])
      ((s.forming.resume s.intervalTime).sampleVector s.intervalTime levels) := ⟨records.frame, records.staging⟩
  obtain ⟨t, step, done⟩ := exec_sampleInterval (sampleInterval_resumes waking alone.2 resumes levels) ready records.work
    (by rw [records.seq]; exact alone.2)
  exact ⟨t, _, q, step, done, records, facts⟩

end

/-- Settles O46: by the sampler's state; in SAMPLING by whether staging has room, and then by whether the interval forms a CHANGE. -/
theorem sampleIntervalFormsChange : Obligations.SampleIntervalFormsChange := by
  intro s levels ready quiet
  refine ⟨fun idle => ?_, fun i sampling alone recorded mode normal room => ?_, fun i sampling alone recorded mode full => ?_,
    fun i waking resumes healthy alone recorded mode normal room => ?_⟩
  · refine ⟨s.finish, ?_, finish_closes ready⟩
    change Host.Outcome.next (s.sampleInterval levels).finishEvents = _
    rw [sampleInterval_idle idle, finishEvents_quiet quiet]
  · obtain ⟨t, step, done, sampled, takes, due⟩ := exec_sampleInterval_admits ready alone recorded mode (levels := levels) sampling normal room
    exact ⟨t, step, (congrArg Sampler.current done.closed.sampler).trans sampled.current,
      (congrArg Sampler.previous done.closed.sampler).trans sampled.previous, due, done.closed.pods.trans sampled.pods, done.gens, takes, done.lanes,
      done.monitor, done.closed.seq.trans sampled.seq, done.slots, done.panel, done.disp, done.bytes⟩
  · obtain ⟨t, step, done, sampled, stream, alerts, due⟩ := exec_sampleInterval_discards ready alone recorded mode (levels := levels) sampling full
    exact ⟨t, step, (congrArg Sampler.current done.closed.sampler).trans sampled.current,
      (congrArg Sampler.previous done.closed.sampler).trans sampled.previous, stream, due, alerts, done.closed.pods.trans sampled.pods, done.gens,
      done.lanes, done.monitor, done.closed.seq.trans sampled.seq, done.slots, done.panel, done.disp, done.bytes⟩
  · obtain ⟨t, u, q, step, done, records, state, current, stream, restated, timer⟩ :=
      exec_sampleInterval_resumes ready alone recorded mode (levels := levels) waking resumes healthy normal room
    refine ⟨t, step, ?_⟩
    rw [done.closed.sampler, done.closed.staging, done.closed.takes, done.closed.pods, done.closed.seq, records.sampler, records.records,
      records.takes, records.pods, records.seq]
    refine ⟨state, current, stream, restated, timer, ?_, ?_, rfl, done.gens, done.lanes, done.monitor, rfl, done.slots, done.panel, done.disp, done.bytes⟩
    · unfold State.resumption State.restatement
      simp only [List.append_assoc, List.singleton_append]
      rfl
    · unfold State.gapCounted Take.gapped
      rw [satSucc_eq_min]

end Sys2Proof.Machine
end

section
/-! PROOFS. Watch and wake (spec/03, 3.5): the idle timer's expiry and the wake edge (O47). -/

namespace Sys2Proof.Machine

/-! ## The pods of watch entry and of a wake (R5) -/

theorem podsWatch_pod (s : State) (m : Chans) (p : Fin 4) : (s.podsWatch m).pods.get p = (s.pods.get p).watches p m := by
  fin_cases p <;> rfl

theorem wakePods_pod (s : State) (p : Fin 4) : s.wakePods.pods.get p = (s.pods.get p).wakes s.tick := by
  fin_cases p <;> rfl

theorem Pod.watches_eq (x : Pod) (p : Fin 4) (m : Chans) :
    x.watches p m = if podIn p m = true ∧ x.power = .on ∧ x.latch = false then { x with power := .watch } else x := rfl

theorem Pod.wakes_eq (x : Pod) (now : Tick) :
    x.wakes now = if x.power = .watch ∧ x.wakeTimer = none then { x with wakeTimer := some (tickAdd now (x.wakeSpan * 1000)) } else x := rfl

section
variable {s : State} {i : Nat} (recorded : s.recordingIndex = some i) (normal : s.staging.overflow = false) (room : s.staging.fill + 2 ≤ 4096)
include recorded normal room

/-! ## The idle timer's expiry (R51, R52) -/

/-- The sampler in WATCH, with the levels it had held. -/
def Sampler.watching (p : Sampler) : Sampler := { p with state := .watch, idleTimer := none, watchLevels := p.current }

/-- Watch entry: a WATCH, then pods and sampler (R52). -/
theorem enterWatch_records :
    Records { s with pods := (s.podsWatch s.sampler.channels).pods }
      (Sampler.watching { s.sampler with streamTime := s.recordTime s.intervalTime }) s.takes
      (s.admitted (s.takeAt i).id (s.recordTime s.intervalTime) .watch) s.enterWatch := by
  have inserted := insert_admitted (b := .watch) recorded normal room rfl s.intervalTime
  have equation : s.enterWatch = { s.insert s.intervalTime .watch with
      pods := (s.podsWatch s.sampler.channels).pods, sampler := (s.insert s.intervalTime .watch).sampler.watching } := by
    unfold State.enterWatch State.podsWatch
    rw [inserted.pods]
    rfl
  rw [equation, inserted.sampler]
  exact (inserted.repodded _).resampled _

/-! ## The wake edge (R53) -/

/-- The levels a wake edge latches. -/
def State.wakeLevels (s : State) (levels : Chans) : Chans := s.presented levels &&& s.sampler.channels

/-- The part as a wake edge has latched its levels. -/
def State.latching (s : State) (levels : Chans) : State :=
  { s with sampler := { s.sampler.sampled levels (s.wakeLevels levels) s.latchedPods with wakeLatch := some (s.wakeLevels levels, s.intervalTime) } }

/-- What a wake edge does behind its vector, unless a trigger on that vector has already woken the sampler (R53, R55). -/
def State.leavesWatch (s : State) (t : Tick) : State :=
  if s.sampler.state = .watch then
    { (s.liveGap t).seqFlush.seqGap.wakePods with sampler := (s.liveGap t).seqFlush.seqGap.wakePods.sampler.wakes }
  else s

omit recorded normal room in
theorem wakeEdge_eq (s : State) (levels : Chans) :
    s.wakeEdge levels =
      ((((s.latching levels).insert s.intervalTime (.wake (s.wakeLevels levels))).liveInterval s.intervalTime (s.wakeLevels levels)
        s.unknownNow).seqVector s.intervalTime (s.wakeLevels levels) s.unknownNow).leavesWatch s.intervalTime := by
  unfold State.wakeEdge State.leavesWatch State.latching State.wakeLevels
  with_reducible rfl

omit recorded normal room in
theorem leavesWatch_alone {s : State} (alone : recordsOnly s) (watch : s.sampler.state = .watch) (t : Tick) :
    s.leavesWatch t = { s with pods := s.wakePods.pods, sampler := s.sampler.wakes } := by
  obtain ⟨unattached, still⟩ := alone
  have idle := captureRuns_of_not_running still
  have noGap : s.seqGap = s := by
    unfold State.seqGap
    rw [idle]
    rfl
  unfold State.leavesWatch
  rw [if_pos watch, liveGap_unattached unattached, seqFlush_idle idle, noGap]
  rfl

/-- The wake edge of a WATCH that no lane and no sequencer run takes: a WAKE, then pods and sampler. -/
theorem wakeEdge_records (alone : recordsOnly s) (watch : s.sampler.state = .watch) (levels : Chans) :
    ∃ q : Sampler, q.state = .waking ∧ q.wakeLatch = some (s.wakeLevels levels, s.intervalTime) ∧
      Records { s with pods := s.wakePods.pods } q s.takes
        (s.admitted (s.takeAt i).id (s.recordTime s.intervalTime) (.wake (s.wakeLevels levels))) (s.wakeEdge levels) := by
  have inserted := insert_admitted (s := s.latching levels) (b := .wake (s.wakeLevels levels)) recorded normal room rfl s.intervalTime
  have inserted : Records s _ s.takes (s.admitted (s.takeAt i).id (s.recordTime s.intervalTime) (.wake (s.wakeLevels levels))) _ :=
    ⟨inserted.frame, inserted.staging⟩
  have alone' : recordsOnly ((s.latching levels).insert s.intervalTime (.wake (s.wakeLevels levels))) :=
    recordsOnly_congr (by rw [inserted.frame]) inserted.seq alone
  have watch' : ((s.latching levels).insert s.intervalTime (.wake (s.wakeLevels levels))).sampler.state = .watch := by
    rw [inserted.sampler]
    exact watch
  have pods : ((s.latching levels).insert s.intervalTime (.wake (s.wakeLevels levels))).wakePods.pods = s.wakePods.pods := by
    unfold State.wakePods
    rw [inserted.frame]
  have vector := vector_recordsOnly alone' s.intervalTime (s.wakeLevels levels) s.unknownNow
  have equation : s.wakeEdge levels = { (s.latching levels).insert s.intervalTime (.wake (s.wakeLevels levels)) with
      pods := s.wakePods.pods
      sampler := ((s.latching levels).insert s.intervalTime (.wake (s.wakeLevels levels))).sampler.wakes } := by
    rw [wakeEdge_eq, vector, leavesWatch_alone alone' watch', pods]
  rw [equation, inserted.sampler]
  exact ⟨_, rfl, rfl, (inserted.repodded _).resampled _⟩

end

/-! ## The two events -/

/-- `t` is `u` closed, `u` being `s` with the records `rs` in staging, the sampler `q` and the pods `w`. -/
structure WatchStep (s : State) (w : Four Pod) (q : Sampler) (rs : List Staged) (u t : State) : Prop extends CaptureClosed s u t where
  sampler : t.sampler = q
  records : t.staging.records = s.staging.records ++ rs
  pods : t.pods = w
  takes : t.takes = s.takes
  seq : t.seq = s.seq

theorem watchStep_finish {s u : State} {w : Four Pod} {q : Sampler} {rs : List Staged} (ready : s.ready)
    (h : Records { s with pods := w } q s.takes rs u) : WatchStep s w q rs u u.finish := by
  have work : CaptureWork s u := CaptureWork.trans ⟨rfl⟩ h.work
  have done := work.closes ready
  exact {
    toCaptureClosed := done
    sampler := done.closed.sampler.trans h.sampler
    records := (congrArg Staging.records done.closed.staging).trans h.records
    pods := done.closed.pods.trans h.pods
    takes := done.closed.takes.trans h.takes
    seq := done.closed.seq.trans h.seq }

theorem exec_idleTimerExpiry_early {s : State} (early : s.idleExpired = false) : exec .idleTimerExpiry s = .next s.finish := by
  change Host.Outcome.next (if s.idleExpired then s.enterWatch else s).finish = _
  rw [early]
  rfl

theorem exec_idleTimerExpiry_due {s : State} (due : s.idleExpired = true) : exec .idleTimerExpiry s = .next s.enterWatch.finish := by
  change Host.Outcome.next (if s.idleExpired then s.enterWatch else s).finish = _
  rw [due]
  rfl

theorem exec_wakeEdge_wakes {s : State} {levels : Chans} (watch : s.sampler.state = .watch) (change : s.wakeChange levels = true)
    (still : (s.wakeEdge levels).seq.state ≠ .running) : exec (.wakeEdge levels) s = .next (s.wakeEdge levels).finish := by
  change Host.Outcome.next (if s.sampler.state == .watch && s.wakeChange levels then s.wakeEdge levels else s.compared levels).finishEvents = _
  have wakes : (s.sampler.state == .watch && s.wakeChange levels) = true := by
    rw [watch, change]
    rfl
  rw [if_pos wakes, finishEvents_idle (captureRuns_of_not_running still)]

/-- Settles O47: the expiry by whether it is due, then the wake edge. -/
theorem watchAndWake : Obligations.WatchAndWake := by
  intro s ready
  refine ⟨fun early => ?_, fun i recorded normal room => ⟨fun due => ?_, fun levels _ watch change alone => ?_⟩⟩
  · exact ⟨s.finish, exec_idleTimerExpiry_early early, finish_closes ready⟩
  · have done := watchStep_finish ready (enterWatch_records recorded normal room)
    have state : s.enterWatch.finish.sampler.state = .watch := by rw [done.sampler]; rfl
    have timer : s.enterWatch.finish.sampler.idleTimer = none := by rw [done.sampler]; rfl
    refine ⟨_, exec_idleTimerExpiry_due due, state, timer, done.records, fun p => ?_,
      done.gens, done.lanes, done.seq, done.takes, done.monitor, done.slots, done.panel, done.disp, done.bytes⟩
    rw [done.pods, podsWatch_pod, Pod.watches_eq]
  · obtain ⟨q, waking, latch, records⟩ := wakeEdge_records recorded normal room alone watch levels
    have done := watchStep_finish ready records
    refine ⟨_, exec_wakeEdge_wakes watch change (by rw [records.seq]; exact alone.2), (congrArg Sampler.state done.sampler).trans waking,
      (congrArg Sampler.wakeLatch done.sampler).trans latch, done.records, fun p => ?_, done.gens, done.lanes, done.seq, done.takes, done.monitor,
      done.slots, done.panel, done.disp, done.bytes⟩
    rw [done.pods, wakePods_pod, Pod.wakes_eq]

end Sys2Proof.Machine
end

section
/-! PROOFS. The block pool and the capture writer (spec/03, spec/04): what a block reads after each operation, and one record written (R49). -/

namespace Sys2Proof.Machine

/-! ## A block after each operation of the pool -/

theorem Pool.block_congr {p q : Pool} (h : q.blocks = p.blocks) (c : Nat) : q.block c = p.block c := by
  unfold Pool.block
  rw [h]

theorem closedFrom.block {u t : State} (h : closedFrom u t) (c : Nat) : t.pool.block c = u.pool.block c := Pool.block_congr h.pool_blocks c

theorem Pool.block_setBlock (p : Pool) (b c : Nat) (x : Block) :
    (p.setBlock b x).block c = if c = b then (p.block c).map (fun _ => x) else p.block c := by
  have keys : (fun e : Nat × Block => e.1 == c) ∘ (fun e => if e.1 == b then (b, x) else e) = fun e => e.1 == c := by
    funext e
    by_cases key : e.1 = b <;> simp [key]
  unfold Pool.block Pool.setBlock
  rw [List.find?_map, keys, Option.map_map]
  cases found : p.blocks.find? (fun e => e.1 == c) with
  | none => simp
  | some e =>
    obtain rfl : e.1 = c := by simpa using List.find?_some found
    by_cases key : e.1 = b <;> simp [key]

theorem Pool.block_setBlock_same {p : Pool} {b : Nat} {e : Block} (h : p.block b = some e) (x : Block) : (p.setBlock b x).block b = some x := by
  rw [Pool.block_setBlock, if_pos rfl, h]
  rfl

theorem Pool.block_setBlock_ne (p : Pool) {b c : Nat} (h : c ≠ b) (x : Block) : (p.setBlock b x).block c = p.block c := by
  rw [Pool.block_setBlock, if_neg h]

theorem Pool.setBlock_setBlock (p : Pool) (b : Nat) (x y : Block) : (p.setBlock b x).setBlock b y = p.setBlock b y := by
  unfold Pool.setBlock
  simp only [List.map_map]
  congr 1
  refine List.map_congr_left fun e _ => ?_
  by_cases key : e.1 = b <;> simp [key]

/-- A block back on the free list has no entry, and every other block the one it had. -/
theorem Pool.block_freeBlock (p : Pool) (b c : Nat) : (p.freeBlock b).block c = if c = b then none else p.block c := by
  unfold Pool.block Pool.freeBlock Pool.rearm
  dsimp only
  rw [List.find?_filter]
  by_cases same : c = b
  · subst same
    simp
  · have keys : (fun e : Nat × Block => decide ((e.1 != b) = true ∧ (e.1 == c) = true)) = fun e => e.1 == c := by
      funext e
      by_cases key : e.1 = c <;> simp [key, same]
    rw [keys, if_neg same]

/-- The block of a take with a sequence number is still found after the entry of another one has changed, its take and number kept. -/
theorem Pool.find_setBlock {p : Pool} {id seq f b : Nat} {e x : Block} (found : p.find id seq = some f) (other : f ≠ b) (block : p.block b = some e)
    (take : x.takeId = e.takeId) (number : x.seqNo = e.seqNo) : (p.setBlock b x).find id seq = some f := by
  unfold Pool.find Pool.block Pool.setBlock at *
  rw [Option.map_eq_some_iff] at found block
  obtain ⟨y, found, rfl⟩ := found
  obtain ⟨z, block, rfl⟩ := block
  obtain ⟨named, front, behind, list, unnamed⟩ := List.find?_eq_some_iff_append.mp found
  have stays : (if y.1 == b then (b, x) else y) = y := if_neg (by simpa using other)
  have firstIn {a : Nat × Block} (mem : a ∈ front) (key : a.1 = b) : z ∈ front := by
    have hit : (front.find? (fun e => e.1 == b)).isSome = true := List.find?_isSome.mpr ⟨a, mem, by simp [key]⟩
    obtain ⟨z', first⟩ := Option.isSome_iff_exists.mp hit
    rw [list, List.find?_append, first, Option.some_or] at block
    obtain rfl := Option.some.inj block
    exact List.mem_of_find?_eq_some first
  rw [list, List.map_append, List.map_cons, stays, Option.map_eq_some_iff]
  refine ⟨y, List.find?_eq_some_iff_append.mpr ⟨named, _, _, rfl, fun a mem => ?_⟩, rfl⟩
  obtain ⟨a', mem', rfl⟩ := List.mem_map.mp mem
  by_cases key : a'.1 = b
  · have first := unnamed z (firstIn mem' key)
    simpa [key, take, number] using first
  · simpa [key] using unnamed a' mem'

/-- A FREE block acquired is the entry made for it (R59). -/
theorem block_acquireBlock_same {s : State} {c : Nat} (free : s.pool.block c = none) (i : Nat) (rest : List Nat) :
    (s.acquireBlock i c rest).pool.block c = some (acquiredBlock (s.takeAt i) (s.pods.map Pod.applyStaged)) := by
  unfold Pool.block at free ⊢
  have none : s.pool.blocks.find? (fun e => e.1 == c) = none := Option.map_eq_none_iff.mp free
  unfold State.acquireBlock
  dsimp only
  rw [List.find?_append, none]
  simp

theorem block_acquireBlock_ne (s : State) {b c : Nat} (other : b ≠ c) (i : Nat) (rest : List Nat) :
    (s.acquireBlock i c rest).pool.block b = s.pool.block b := by
  unfold Pool.block State.acquireBlock
  dsimp only
  rw [List.find?_append]
  simp [Ne.symm other]

/-! ## One record written (R49) -/

/-- A record that carries no trigger position, or does, changes no more of its take's entry than that position (R74). -/
theorem Take.placedBy_eq (t : Take) (body : RecBody) (seq idx : Nat) :
    t.placedBy body seq idx = { t with trigger := (t.placedBy body seq idx).trigger } := by
  unfold Take.placedBy
  split
  · split <;> rfl
  · split <;> rfl
  · rfl

/-- `u` is `s` with records up to one of time `t` written into block `b`, which is `x` then; of take entry `i` at most the trigger position differs. -/
structure Wrote (s : State) (i b : Nat) (x : Block) (t : Tick) (u : State) : Prop where
  frame : u = { s with pool := s.pool.setBlock b x, writer := { s.writer with lastTime := t }, takes := u.takes }
  entry : u.takeAt i = { s.takeAt i with trigger := (u.takeAt i).trigger }

theorem Wrote.trans {s u v : State} {i b : Nat} {x y : Block} {t t' : Tick} (h : Wrote s i b x t u) (g : Wrote u i b y t' v) : Wrote s i b y t' v where
  frame := by
    have second := g.frame
    have pool : u.pool = s.pool.setBlock b x := by rw [h.frame]
    have writer : u.writer = { s.writer with lastTime := t } := by rw [h.frame]
    rw [pool, writer, Pool.setBlock_setBlock] at second
    exact second.trans (by rw [h.frame])
  entry := g.entry.trans (by rw [h.entry])

theorem putRecord_wrote {s : State} {i b : Nat} {e : Block} (block : s.pool.block b = some e) (sampling : (s.takeAt i).sampling = true) (r : CapRec)
    (t : Tick) : Wrote s i b (e.append r t) t (s.putRecord i b r t) := by
  have equation : s.putRecord i b r t = { s with
      pool := s.pool.setBlock b (e.append r t)
      writer := { s.writer with lastTime := t }
      takes := { s.takes with entries := putAt s.takes.entries i ((s.takeAt i).placedBy r.body e.seqNo e.recordCount) } } := by
    unfold State.putRecord
    rw [block]
  refine ⟨by rw [equation], ?_⟩
  rw [takeAt_put sampling (congrArg (fun u : State => u.takes.entries) equation)]
  exact Take.placedBy_eq _ _ _ _

/-- The block with its first record behind the block-start ANCHOR of time `start` (R49). -/
def Block.opened (e : Block) (start : Tick) (r : Staged) : Block :=
  { e with records := [⟨0, .anchor start⟩, r.record], firstTick := start, lastTick := r.time }

theorem Block.append_written {e : Block} (h : e.records ≠ []) (r : Staged) : e.append r.record r.time = e.written r := by
  unfold Block.append
  rw [if_neg (by simpa using h)]
  rfl

section
variable {s : State} {i b : Nat} {e : Block} {r : Staged} (block : s.pool.block b = some e) (sampling : (s.takeAt i).sampling = true)
include block sampling

theorem writeRecord_next (h : e.records ≠ []) : Wrote s i b (e.written r) r.time (s.writeRecord i b r.record r.time) := by
  have put := putRecord_wrote block sampling r.record r.time
  have later : (e.records.isEmpty && !r.record.body.isAnchor) = false := by simp [h]
  unfold State.writeRecord
  rw [block]
  dsimp only
  rw [later, ← Block.append_written h]
  exact put

theorem writeRecord_first (first : e.records = []) (plain : r.record.body.isAnchor = false) :
    Wrote s i b (e.opened (s.blockStartTime e) r) r.time (s.writeRecord i b r.record r.time) := by
  have anchor := putRecord_wrote block sampling ⟨0, .anchor (s.blockStartTime e)⟩ (s.blockStartTime e)
  have begun : (s.putRecord i b ⟨0, .anchor (s.blockStartTime e)⟩ (s.blockStartTime e)).pool.block b =
      some (e.append ⟨0, .anchor (s.blockStartTime e)⟩ (s.blockStartTime e)) := by
    rw [anchor.frame]
    exact Pool.block_setBlock_same block _
  have still : ((s.putRecord i b ⟨0, .anchor (s.blockStartTime e)⟩ (s.blockStartTime e)).takeAt i).sampling = true := by
    rw [anchor.entry]
    exact sampling
  have both := anchor.trans (putRecord_wrote begun still r.record r.time)
  have opened : (e.append ⟨0, .anchor (s.blockStartTime e)⟩ (s.blockStartTime e)).append r.record r.time = e.opened (s.blockStartTime e) r := by
    simp [Block.append, Block.opened, first]
  have opens : (e.records.isEmpty && !r.record.body.isAnchor) = true := by simp [first, plain]
  unfold State.writeRecord
  rw [block]
  dsimp only
  rw [if_pos opens, ← opened]
  exact both

end

end Sys2Proof.Machine
end

section
/-! PROOFS. The capture writer (spec/03, spec/04): the oldest staged record drained into the filling block (R49). -/

namespace Sys2Proof.Machine

/-! ## A grant to the writer -/

/-- The part with the access in flight completed. -/
def State.portOver (s : State) : State := { s with pool := { s.pool with inFlight := none } }

/-- The part with the oldest staged record, `r`, written, before anything that follows from it. -/
def State.drain (s : State) (i b : Nat) (r : Staged) : State :=
  (s.portOver.withStaging s.staging.drained).writeRecord i b r.record r.time

/-- Recovery from OVERFLOW, if a drain has come to the fill for it (R46). -/
def State.recoverIfDrained (s : State) (i : Nat) : State :=
  if s.staging.overflow && decide (s.staging.fill ≤ Config.recoveryFill) then s.recover i s.intervalTime else s

/-- The seal of the filling block, if it is full (R60). -/
def State.sealIfFull (s : State) (i b : Nat) : State := if s.placesLeft = 0 then s.sealFull i b else s

theorem drainOne_goesOn {s : State} {i : Nat} (goesOn : (s.takeAt i).endReason = none) (b : Nat) (r : Staged) :
    s.portOver.drainOne i b r = ((s.drain i b r).recoverIfDrained i).sealIfFull i b :=
  if_neg (by change ¬ (s.takeAt i).endReason.isSome = true; rw [goesOn]; decide)

theorem drainOne_ending {s : State} {i : Nat} (ending : (s.takeAt i).endReason.isSome = true) (b : Nat) (r : Staged) :
    s.portOver.drainOne i b r = (s.drain i b r).settleIfDrained i :=
  if_pos ending

theorem exec_captureWriterAccess {s : State} {i b : Nat} {e : Block} {r : Staged} {rest : List Staged} (granted : writerGranted s i b e r rest) :
    exec .captureWriterAccess s = .next (s.portOver.drainOne i b r).finish := by
  obtain ⟨access, capturing, -, filling, -, records⟩ := granted
  have own : s.granted .writer = true := by
    unfold State.granted
    rw [access]
    rfl
  have freed : s.portFree = s.portOver := by
    unfold State.portFree
    rw [access]
    rfl
  have drains : s.portOver.writerAccess = s.portOver.drainOne i b r := by
    have capturing' : s.portOver.capIndex = some i := capturing
    have filling' : s.portOver.writer.filling = some b := filling
    have records' : s.portOver.staging.records = r :: rest := records
    unfold State.writerAccess
    rw [capturing', filling', records']
  change Host.Outcome.next (if s.granted .writer then s.portFree.writerAccess else s).finish = _
  rw [if_pos own, freed, drains]

/-! ## The oldest record drained -/

/-- The filling block `e` with record `r` behind what it holds, or behind the block-start ANCHOR (R49). -/
def State.nextBlock (s : State) (e : Block) (r : Staged) : Block := if e.records = [] then e.opened (s.blockStartTime e) r else e.written r

/-- `u` is `s` with its access over and its oldest record, `r`, gone from staging into block `b`, which is `x` then. -/
structure Drained (s : State) (i b : Nat) (x : Block) (r : Staged) (rest : List Staged) (u : State) : Prop where
  frame : u = { s with
    pool := { s.pool.setBlock b x with inFlight := none }
    staging := u.staging
    writer := { s.writer with lastTime := r.time }
    takes := u.takes
    report := u.report }
  staging : u.staging = { s.staging with records := rest, tripArmed := u.staging.tripArmed }
  entry : u.takeAt i = { s.takeAt i with trigger := (u.takeAt i).trigger }

theorem drain_drained {s : State} {i b : Nat} {e : Block} {r : Staged} {rest : List Staged} (granted : writerGranted s i b e r rest)
    (plain : e.records = [] → r.record.body.isAnchor = false) : Drained s i b (s.nextBlock e r) r rest (s.drain i b r) := by
  obtain ⟨-, -, sampling, -, block, records⟩ := granted
  have wrote : Wrote (s.portOver.withStaging s.staging.drained) i b (s.nextBlock e r) r.time (s.drain i b r) := by
    unfold State.nextBlock
    split
    · next first => exact writeRecord_first (s := s.portOver.withStaging s.staging.drained) block sampling first (plain first)
    · next later => exact writeRecord_next (s := s.portOver.withStaging s.staging.drained) block sampling later
  refine ⟨wrote.frame.trans (by rw [wrote.frame]; rfl), ?_, wrote.entry⟩
  rw [wrote.frame]
  change s.staging.drained = { s.staging with records := rest, tripArmed := s.staging.drained.tripArmed }
  unfold Staging.drained Staging.rearm
  rw [records]
  rfl

section
variable {s u : State} {i b : Nat} {e x : Block} {r : Staged} {rest : List Staged} (h : Drained s i b x r rest u)
include h

theorem Drained.work : CaptureWork s u := ⟨h.frame.trans (by rw [h.frame])⟩
theorem Drained.pods : u.pods = s.pods := by rw [h.frame]
theorem Drained.sampler : u.sampler = s.sampler := by rw [h.frame]
theorem Drained.seq : u.seq = s.seq := by rw [h.frame]
theorem Drained.lanes : u.lanes = s.lanes := by rw [h.frame]
theorem Drained.alerts : u.alerts = s.alerts := by rw [h.frame]
theorem Drained.render : u.render = s.render := by rw [h.frame]
theorem Drained.writer : u.writer = { s.writer with lastTime := r.time } := by rw [h.frame]
theorem Drained.free : u.pool.free = s.pool.free := by rw [h.frame]; rfl
theorem Drained.inFlight : u.pool.inFlight = none := by rw [h.frame]
theorem Drained.records : u.staging.records = rest := by rw [h.staging]
theorem Drained.overflow : u.staging.overflow = s.staging.overflow := by rw [h.staging]

theorem Drained.block (before : s.pool.block b = some e) : u.pool.block b = some x := by
  rw [h.frame]
  exact Pool.block_setBlock_same before x

theorem Drained.block_ne {c : Nat} (other : c ≠ b) : u.pool.block c = s.pool.block c := by
  rw [h.frame]
  exact Pool.block_setBlock_ne s.pool other x

theorem Drained.placesLeft (filling : s.writer.filling = some b) (before : s.pool.block b = some e) : u.placesLeft = 16384 - x.records.length := by
  have filling' : u.writer.filling = some b := by rw [h.writer]; exact filling
  unfold State.placesLeft
  rw [filling']
  dsimp only
  rw [h.block before]
  rfl

end

theorem nextBlock_next {e : Block} (later : e.records ≠ []) (s : State) (r : Staged) : s.nextBlock e r = e.written r := if_neg later

theorem nextBlock_first {e : Block} (first : e.records = []) (s : State) (r : Staged) : s.nextBlock e r = e.opened (s.blockStartTime e) r := if_pos first

theorem nextBlock_length (s : State) (e : Block) (r : Staged) : (s.nextBlock e r).records.length ≤ e.records.length + 2 := by
  unfold State.nextBlock
  split <;> simp [Block.opened, Block.written]

theorem recoverIfDrained_normal {s : State} (normal : s.staging.overflow = false) (i : Nat) : s.recoverIfDrained i = s := by
  unfold State.recoverIfDrained
  rw [normal]
  rfl

/-- A grant to the writer that neither fills the block nor ends an overflow nor an ending take (R49). -/
theorem exec_writer_writes {s : State} {i b : Nat} {e : Block} {r : Staged} {rest : List Staged} (granted : writerGranted s i b e r rest)
    (goesOn : (s.takeAt i).endReason = none) (normal : s.staging.overflow = false) (room : e.records.length + 2 < 16384)
    (plain : e.records = [] → r.record.body.isAnchor = false) : exec .captureWriterAccess s = .next (s.drain i b r).finish := by
  have drained := drain_drained granted plain
  have execs := exec_captureWriterAccess granted
  obtain ⟨-, -, -, filling, block, -⟩ := granted
  have length := nextBlock_length s e r
  have places : (s.drain i b r).placesLeft ≠ 0 := by
    rw [drained.placesLeft filling block]
    omega
  rw [execs, drainOne_goesOn goesOn, recoverIfDrained_normal (drained.overflow.trans normal)]
  unfold State.sealIfFull
  rw [if_neg places]

end Sys2Proof.Machine
end

section
/-! PROOFS. The capture writer (spec/03, spec/04): recovery from OVERFLOW (R46), the seal of a block (R60) and what follows it (R71, R72, R76, R78). -/

namespace Sys2Proof.Machine

/-! ## Recovery from OVERFLOW (R46) -/

/-- A take entry after a recovery: one more GAP, in which the trigger lies if it was lost. -/
def Take.recovered (t : Take) (inLoss : Bool) : Take := Take.gapped (if inLoss then t.triggerInGap else t)

theorem Take.recovered_gaps (t : Take) (inLoss : Bool) : (t.recovered inLoss).gaps = min (t.gaps + 1) 65535 := by
  cases inLoss <;> exact satSucc_eq_min _ _

/-- A trigger that was lost in the overflow lies in the gap (R46, R74). -/
theorem Take.recovered_inGap {t : Take} {p : TrigPos} (h : (t.recovered true).trigger = some p) : p.inGap = true := by
  obtain ⟨q, -, rfl⟩ := Option.map_eq_some_iff.mp (show t.trigger.map (fun p => { p with inGap := true }) = some p from h)
  rfl

theorem recoverIfDrained_over {s : State} (overflow : s.staging.overflow = true) (drained : s.staging.fill ≤ 2047) (i : Nat) :
    s.recoverIfDrained i = s.recover i s.intervalTime := by
  unfold State.recoverIfDrained
  rw [overflow]
  exact if_pos (decide_eq_true drained)

/-- The part in NORMAL again, before the records of the recovery. -/
def State.normal (s : State) : State := { s with staging := s.staging.normal }

/-- What a recovery does behind its records: the trigger's flag, the gap count, the restatement of the levels to come. -/
def State.recovering (s : State) (i : Nat) (inLoss : Bool) : State :=
  let flagged := if inLoss then s.setTake i (s.takeAt i).triggerInGap else s
  let counted := flagged.countGap i
  { counted with sampler := { counted.sampler with restateDue := true }, report := counted.report.handLost (counted.takeAt i).lost }

theorem recover_eq (s : State) (i : Nat) (t : Tick) :
    s.recover i t =
      (((s.normal.offer i t s.staging.gapBody).offer i t (.anchor t)).restateFaults SourceRec.gapFault t).recovering i s.staging.triggerInLoss := by
  unfold State.recover State.recovering State.normal
  with_reducible rfl

theorem recovering_takeAt {s : State} {i : Nat} (sampling : (s.takeAt i).sampling = true) (inLoss : Bool) :
    (s.recovering i inLoss).takeAt i = (s.takeAt i).recovered inLoss := by
  cases inLoss with
  | false => exact takeAt_put (k := (s.takeAt i).gapped) sampling rfl
  | true =>
    have flagged : (s.setTake i (s.takeAt i).triggerInGap).takeAt i = (s.takeAt i).triggerInGap := takeAt_put sampling rfl
    have still : ((s.setTake i (s.takeAt i).triggerInGap).takeAt i).sampling = true := by rw [flagged]; exact sampling
    refine (takeAt_put (k := ((s.setTake i (s.takeAt i).triggerInGap).takeAt i).gapped) still rfl).trans ?_
    rw [flagged]
    rfl

theorem Records.recovering {s u : State} {p : Sampler} {k : TakeTable} {rs : List Staged} (h : Records s p k rs u) (i : Nat) (inLoss : Bool) :
    Records s { p with restateDue := true } (u.recovering i inLoss).takes rs (u.recovering i inLoss) := by
  have equation : u.recovering i inLoss = { u with
      takes := (u.recovering i inLoss).takes
      report := (u.recovering i inLoss).report
      sampler := { u.sampler with restateDue := true } } := by
    cases inLoss <;> rfl
  rw [equation, h.sampler]
  exact (h.retaken _ _).resampled _

theorem recover_records {s : State} {i : Nat} (sampling : (s.takeAt i).sampling = true) (healthy : podsHealthy s) (room : s.staging.fill + 4 ≤ 4096) :
    (∃ k, Records s.normal { s.sampler with streamTime := s.intervalTime, restateDue := true } k
        (s.admitted (s.takeAt i).id s.intervalTime s.staging.gapBody ++ [⟨⟨0, .anchor s.intervalTime⟩, s.intervalTime, (s.takeAt i).id⟩])
        (s.recover i s.intervalTime)) ∧
      (s.recover i s.intervalTime).takeAt i = (s.takeAt i).recovered s.staging.triggerInLoss := by
  have gap := offer_admitted (s := s.normal) (t := s.intervalTime) (b := s.staging.gapBody) i rfl
    (admits_of_room rfl (by change s.staging.fill + 2 ≤ 4096; omega) _ _)
  have records : Records s.normal _ (s.normal.offer i s.intervalTime s.staging.gapBody).takes _
      ((s.normal.offer i s.intervalTime s.staging.gapBody).offer i s.intervalTime (.anchor s.intervalTime)) :=
    offer_gap_anchor (s := s.normal) (gap := s.staging.gapBody) rfl room rfl (by rw [gap.takes]; rfl)
  rw [gap.takes] at records
  have entry : ((s.normal.offer i s.intervalTime s.staging.gapBody).offer i s.intervalTime (.anchor s.intervalTime)).takeAt i = s.takeAt i :=
    takeAt_congr (s := s) records.takes i
  rw [recover_eq, restateFaults_healthy (podsHealthy_congr records.pods healthy)]
  refine ⟨⟨_, records.recovering i s.staging.triggerInLoss⟩, ?_⟩
  rw [recovering_takeAt (by rw [entry]; exact sampling), entry]

end Sys2Proof.Machine
end

section
/-! PROOFS. The capture writer (spec/03, spec/04): the seal of a block (R60), and what follows it (R71, R72, R76, R78). -/

namespace Sys2Proof.Machine

/-! ## No render bound (R171) -/

theorem renderSeal_unordered {s : State} (h : s.render.order = none) (id : Nat) : s.renderSeal id = s := by
  unfold State.renderSeal State.renderBound
  rw [h]
  rfl

/-! ## Settling the last block (R78) -/

theorem sealBlock_takeAt {s : State} {i : Nat} (sampling : (s.takeAt i).sampling = true) (b : Nat) :
    (s.sealBlock i b).takeAt i = { s.takeAt i with sealedCount := (s.takeAt i).sealedCount + 1 } := takeAt_put sampling rfl

theorem sealBlock_pool_of_block {s : State} {b : Nat} {x : Block} (block : s.pool.block b = some x) (i : Nat) :
    (s.sealBlock i b).pool = s.pool.setBlock b { x with sealedIn := true } := by
  unfold State.sealBlock
  dsimp only
  rw [block]

theorem discardStaged_takeAt {s : State} {i : Nat} (sampling : (s.takeAt i).sampling = true) (counted : Bool) :
    ∃ n, (s.discardStaged i counted).takeAt i = { s.takeAt i with lost := n } := ⟨_, takeAt_put sampling rfl⟩

/-- The drain of an ending take in POSTTRIG with nothing left in staging, and no render to tell: the last block is sealed. -/
theorem settleIfDrained_seals {s : State} {i b : Nat} {x : Block} (sampling : (s.takeAt i).sampling = true) (post : (s.takeAt i).state = .posttrig)
    (normal : s.staging.overflow = false) (empty : s.staging.records = []) (render : s.render.order = none) (filling : s.writer.filling = some b)
    (block : s.pool.block b = some x) (some : x.records ≠ []) : s.settleIfDrained i = (s.discardStaged i true).sealBlock i b := by
  have noGap : s.closingGap i = s := by
    unfold State.closingGap
    rw [filling, normal]
    rfl
  obtain ⟨n, entry⟩ := discardStaged_takeAt sampling true
  have post' : ((s.discardStaged i true).takeAt i).state ≠ .pretrig := by
    rw [entry]
    dsimp only
    rw [post]
    decide
  have filling' : (s.discardStaged i true).writer.filling = .some b := filling
  have block' : (s.discardStaged i true).pool.block b = .some x := block
  have settles : (s.discardStaged i true).settleLast i = (s.discardStaged i true).sealBlock i b := by
    unfold State.settleLast
    rw [filling']
    dsimp only
    rw [block']
    dsimp only
    rw [if_neg (by simpa using some), if_neg post']
    exact renderSeal_unordered (s := (s.discardStaged i true).sealBlock i b) render _
  unfold State.settleIfDrained
  rw [empty, noGap, settles]
  rfl

/-! ## An ending that discards what is staged (R50, R76) -/

/-- What is left by an ending FILLED or SHORT, taken with no lane attached: no block moves, staging is empty, the sampler IDLE. -/
structure EndsShort (s : State) (i : Nat) (reason : EndReason) (u : State) : Prop where
  work : CaptureWork s u
  pool : u.pool = s.pool
  writer : u.writer = s.writer
  records : u.staging.records = []
  sampler : u.sampler.state = .idle
  entry : u.takeAt i = { s.takeAt i with
    endReason := some reason, lost := (u.takeAt i).lost, endTime := (u.takeAt i).endTime, openPods := (u.takeAt i).openPods }

theorem capturing_of_sampling {t : Take} (sampling : t.sampling = true) : t.capturing = true := by
  unfold Take.sampling at sampling
  unfold Take.capturing
  rw [Bool.or_assoc, sampling, Bool.or_true]

theorem not_waiting_of_sampling {t : Take} (sampling : t.sampling = true) : t.state ≠ .waiting := by
  intro waits
  simp [Take.sampling, waits] at sampling

/-- What the units are told of an ending with no lane attached (R77). -/
theorem takeEnding_unattached {s : State} {i : Nat} (sampling : (s.takeAt i).sampling = true) (unattached : ∀ k : Fin 4, (s.lanes.get k).attached = 0)
    (reason : EndReason) :
    s.takeEnding i reason = { s with
      seq := s.seq.atTakeEnd (s.takeAt i).id
      takes := { s.takes with
        entries := putAt s.takes.entries i { s.takeAt i with endReason := some reason, endTime := s.intervalTime, openPods := s.openFaultPods } }
      sampler := s.sampler.stopped
      pods := s.podsAtEnd (s.takeAt i).channels } := by
  have started := not_waiting_of_sampling sampling
  unfold State.takeEnding
  dsimp only
  rw [detachLanes_unattached (s := { s with seq := s.seq.atTakeEnd (s.takeAt i).id }) unattached, if_neg started, State.endingTime, if_neg started]
  rfl

theorem endTake_discards {s : State} {i : Nat} {reason : EndReason} (sampling : (s.takeAt i).sampling = true) (goesOn : (s.takeAt i).endReason = none)
    (unattached : ∀ k : Fin 4, (s.lanes.get k).attached = 0) (discards : reason = .filled ∨ reason = .short) :
    EndsShort s i reason (s.endTake i reason) := by
  have ending := takeEnding_unattached sampling unattached reason
  have ended : (s.takeEnding i reason).takeAt i =
      { s.takeAt i with endReason := some reason, endTime := s.intervalTime, openPods := s.openFaultPods } :=
    takeAt_put sampling (by rw [ending])
  have discarded : ∃ counted, s.endTake i reason = (s.takeEnding i reason).discardStaged i counted := by
    unfold State.endTake
    rw [capturing_of_sampling sampling, goesOn, if_neg (by simp)]
    dsimp only
    rw [if_neg (not_waiting_of_sampling sampling)]
    rcases discards with rfl | rfl
    · exact ⟨false, rfl⟩
    · exact ⟨true, rfl⟩
  obtain ⟨counted, equation⟩ := discarded
  obtain ⟨n, entry⟩ := discardStaged_takeAt (s := s.takeEnding i reason) (i := i) (by rw [ended]; exact sampling) counted
  rw [ended] at entry
  rw [equation]
  refine ⟨?_, ?_, ?_, rfl, ?_, ?_⟩
  · exact ⟨by rw [ending]; rfl⟩
  · rw [ending]; rfl
  · rw [ending]; rfl
  · rw [ending]; rfl
  · rw [entry]

/-! ## A full block sealed (R60) -/

/-- `v` is `s` with block `b` sealed as `full` into a sequence of `n` blocks from number `m` on: the take goes on, and the records behind the one drained are
staged. -/
structure SealedInto (s : State) (i b : Nat) (full : Block) (rest : List Staged) (n m : Nat) (v : State) : Prop where
  work : CaptureWork s v
  pods : v.pods = s.pods
  seq : v.seq = s.seq
  sampler : v.sampler = s.sampler
  records : v.staging.records = rest
  inFlight : v.pool.inFlight = none
  block : v.pool.block b = some full
  entry : v.takeAt i = { s.takeAt i with trigger := (v.takeAt i).trigger, sealedCount := n, firstSeq := m }

theorem SealedInto.sampling {s v : State} {i b n m : Nat} {full : Block} {rest : List Staged} (h : SealedInto s i b full rest n m v)
    (sampling : (s.takeAt i).sampling = true) : (v.takeAt i).sampling = true := by
  rw [h.entry]
  exact sampling

theorem Drained.seals {s u : State} {i b : Nat} {e x : Block} {r : Staged} {rest : List Staged} (h : Drained s i b x r rest u)
    (sampling : (s.takeAt i).sampling = true) (before : s.pool.block b = some e) :
    SealedInto s i b { x with sealedIn := true } rest ((s.takeAt i).sealedCount + 1) (s.takeAt i).firstSeq (u.sealBlock i b) := by
  have block := h.block before
  have pool := sealBlock_pool_of_block block i
  have entry := sealBlock_takeAt (s := u) (i := i) (by rw [h.entry]; exact sampling) b
  exact {
    work := h.work.trans ⟨rfl⟩
    pods := h.pods
    seq := h.seq
    sampler := h.sampler
    records := h.records
    inFlight := (congrArg Pool.inFlight pool).trans h.inFlight
    block := by rw [pool]; exact Pool.block_setBlock_same block _
    entry := by rw [entry, h.entry] }

/-- The front block dropped: the sequence begins one block later (R71). -/
theorem SealedInto.dropped {s v : State} {i b f n m : Nat} {full : Block} {rest : List Staged} (h : SealedInto s i b full rest n m v)
    (sampling : (s.takeAt i).sampling = true) (other : b ≠ f) :
    SealedInto s i b full rest (n - 1) ((m + 1) % 2 ^ 32) (v.freeFront i f) where
  work := h.work.trans ⟨rfl⟩
  pods := h.pods
  seq := h.seq
  sampler := h.sampler
  records := h.records
  inFlight := h.inFlight
  block := by
    change (v.pool.freeBlock f).block b = _
    rw [Pool.block_freeBlock, if_neg other]
    exact h.block
  entry := by
    have entry : (v.freeFront i f).takeAt i = (v.takeAt i).withoutFront := takeAt_put (h.sampling sampling) rfl
    rw [entry, h.entry]
    rfl

/-- What a step leaves that has acquired block `c` behind the seal of block `b` (R59, R72, R76). -/
structure Acquired (s : State) (i b c : Nat) (full : Block) (rest : List Staged) (n m : Nat) (more : List Nat) (v t : State) : Prop where
  block : t.pool.block b = some full
  acquired : acquiredIn s t i c
  free : t.pool.free = more
  records : t.staging.records = rest
  count : (t.takeAt i).sealedCount = n
  first : (t.takeAt i).firstSeq = m
  reason : (t.takeAt i).endReason = (s.takeAt i).endReason
  lanes : t.lanes = s.lanes
  seq : t.seq = s.seq
  sampler : t.sampler = s.sampler
  bytes : bytesKept s t storesNothing
  others : ∀ a, a ≠ c → t.pool.block a = v.pool.block a

theorem SealedInto.acquires {s v : State} {i b c n m : Nat} {full : Block} {rest : List Staged} {more : List Nat}
    (h : SealedInto s i b full rest n m v) (ready : s.ready) (sampling : (s.takeAt i).sampling = true) (free : v.pool.free = c :: more)
    (unowned : v.pool.block c = none) : Acquired s i b c full rest n m more v (v.acquire i).finish := by
  have acquires : v.acquire i = v.acquireBlock i c more := by
    unfold State.acquire
    rw [free]
  have other : b ≠ c := by
    rintro rfl
    exact Option.some_ne_none _ (h.block.symm.trans unowned)
  rw [acquires]
  have work : CaptureWork s (v.acquireBlock i c more) := h.work.trans ⟨rfl⟩
  have done := work.closes ready
  have closed := done.closed
  have pods : (v.acquireBlock i c more).finish.pods = s.pods.map Pod.applyStaged := by
    rw [closed.pods, ← h.pods]
    rfl
  have entry : (v.acquireBlock i c more).takeAt i = { v.takeAt i with acquired := ((v.takeAt i).acquired + 1) % 2 ^ 32 } :=
    takeAt_put (h.sampling sampling) rfl
  have begun : (v.acquireBlock i c more).finish.pool.block c = some (acquiredBlock (s.takeAt i) (s.pods.map Pod.applyStaged)) := by
    rw [closed.block, block_acquireBlock_same unowned, h.pods, h.entry]
    rfl
  have acquired : acquiredIn s (v.acquireBlock i c more).finish i c := by
    refine ⟨by rw [closed.writer]; rfl, pods, by rw [begun, pods]; rfl, ?_⟩
    rw [closed.takeAt, entry, h.entry]
  exact {
    block := by rw [closed.block, block_acquireBlock_ne v other]; exact h.block
    acquired := acquired
    free := closed.pool_free
    records := (congrArg Staging.records closed.staging).trans h.records
    count := by rw [closed.takeAt, entry, h.entry]
    first := by rw [closed.takeAt, entry, h.entry]
    reason := by rw [closed.takeAt, entry, h.entry]
    lanes := done.lanes
    seq := closed.seq.trans h.seq
    sampler := closed.sampler.trans h.sampler
    bytes := done.bytes
    others := fun a apart => (closed.block a).trans (block_acquireBlock_ne v apart i more) }

end Sys2Proof.Machine
end

section
/-! PROOFS. The capture writer (spec/03, spec/04): a grant to it, whole (R49, R60, R71, R72, R76). -/

namespace Sys2Proof.Machine

/-! ## A grant that fills the block (R60) -/

theorem sealFull_pretrig {s : State} {i : Nat} (render : s.render.order = none) (pre : (s.takeAt i).state = .pretrig) (b : Nat) :
    s.sealFull i b = (s.sealBlock i b).afterSealPretrig i := by
  unfold State.sealFull
  dsimp only
  rw [renderSeal_unordered (s := s.sealBlock i b) render, if_pos pre]

theorem sealFull_posttrig {s : State} {i : Nat} (render : s.render.order = none) (post : (s.takeAt i).state = .posttrig) (b : Nat) :
    s.sealFull i b = (s.sealBlock i b).afterSealPosttrig i := by
  unfold State.sealFull
  dsimp only
  rw [renderSeal_unordered (s := s.sealBlock i b) render, if_neg (by rw [post]; decide)]

theorem sealBlock_free (s : State) (i b : Nat) : (s.sealBlock i b).pool.free = s.pool.free := by
  unfold State.sealBlock
  dsimp only
  split <;> rfl

/-- The ring check of a take within its share drops nothing (R71). -/
theorem afterSealPretrig_within {s : State} {i : Nat} (within : (s.takeAt i).sealedCount ≤ (s.takeAt i).share) (free : s.pool.free ≠ []) :
    s.afterSealPretrig i = s.acquire i := by
  have keeps : s.ringCheck i = s := if_neg (Nat.not_lt.mpr within)
  unfold State.afterSealPretrig
  dsimp only
  rw [keeps, if_neg (by simpa using free)]

/-- The front block, held by nobody who is asked, goes to the tail of the free list (R71). -/
theorem dropFront_frees {s : State} {i f : Nat} {d : Block} (front : s.frontBlock i = some f) (idle : s.pool.inFlight = none)
    (block : s.pool.block f = some d) (unheld : d.revocable = false) : s.dropFront i = s.freeFront i f := by
  have noRead : s.renderReads f = false := by
    unfold State.renderReads
    rw [idle]
  have noHold : s.revocableHold f = false := by
    unfold State.revocableHold
    rw [block]
    dsimp only
    rw [unheld]
    rfl
  unfold State.dropFront
  rw [front]
  dsimp only
  rw [noRead, if_neg Bool.false_ne_true]
  unfold State.dropBlock
  rw [noHold, if_neg Bool.false_ne_true]

/-- A sequence longer than the share, or an empty free list, costs the take its front block (R71, R72). -/
theorem afterSealPretrig_drops {s : State} {i f : Nat} (drops : s.dropFront i = s.freeFront i f)
    (due : (s.takeAt i).share < (s.takeAt i).sealedCount ∨ s.pool.free = []) : s.afterSealPretrig i = (s.freeFront i f).acquire i := by
  have behind : (s.freeFront i f).pool.free.isEmpty = false := by
    change (s.pool.free ++ [f]).isEmpty = false
    simp
  unfold State.afterSealPretrig State.ringCheck
  dsimp only
  by_cases long : (s.takeAt i).share < (s.takeAt i).sealedCount
  · rw [if_pos long, drops, behind, if_neg Bool.false_ne_true]
  · have none : s.pool.free = [] := due.resolve_left long
    rw [if_neg long, none, drops]
    rfl

section
variable {s : State} {i b : Nat} {e : Block} {r : Staged} {rest : List Staged} (granted : writerGranted s i b e r rest)
include granted

/-- What a grant behind which the block holds `e.written r` has drained. -/
theorem drain_written (later : e.records ≠ []) : Drained s i b (e.written r) r rest (s.drain i b r) := by
  have drained := drain_drained granted fun first => absurd first later
  rwa [nextBlock_next later] at drained

variable (goesOn : (s.takeAt i).endReason = none) (normal : s.staging.overflow = false) (length : e.records.length + 1 = 16384)
include length

theorem drain_fills : Drained s i b (e.written r) r rest (s.drain i b r) :=
  drain_written granted (by rintro first; rw [first] at length; simp at length)

theorem drain_fills_sealed :
    SealedInto s i b { e.written r with sealedIn := true } rest ((s.takeAt i).sealedCount + 1) (s.takeAt i).firstSeq ((s.drain i b r).sealBlock i b) := by
  have drained := drain_fills granted length
  obtain ⟨-, -, sampling, -, block, -⟩ := granted
  exact drained.seals sampling block

theorem drain_fills_free : ((s.drain i b r).sealBlock i b).pool.free = s.pool.free :=
  (sealBlock_free _ _ _).trans (drain_fills granted length).free

include goesOn normal

theorem exec_writer_seals : exec .captureWriterAccess s = .next ((s.drain i b r).sealFull i b).finish := by
  have drained := drain_fills granted length
  have execs := exec_captureWriterAccess granted
  obtain ⟨-, -, -, filling, block, -⟩ := granted
  have places : (s.drain i b r).placesLeft = 0 := by
    rw [drained.placesLeft filling block]
    simp [Block.written, length]
  rw [execs, drainOne_goesOn goesOn, recoverIfDrained_normal (drained.overflow.trans normal)]
  unfold State.sealIfFull
  rw [if_pos places]

variable (render : s.render.order = none)
include render

theorem exec_writer_seals_pretrig (pre : (s.takeAt i).state = .pretrig) :
    exec .captureWriterAccess s = .next (((s.drain i b r).sealBlock i b).afterSealPretrig i).finish := by
  have drained := drain_fills granted length
  rw [exec_writer_seals granted goesOn normal length, sealFull_pretrig (by rw [drained.render]; exact render) (by rw [drained.entry]; exact pre)]

theorem exec_writer_seals_posttrig (post : (s.takeAt i).state = .posttrig) :
    exec .captureWriterAccess s = .next (((s.drain i b r).sealBlock i b).afterSealPosttrig i).finish := by
  have drained := drain_fills granted length
  rw [exec_writer_seals granted goesOn normal length, sealFull_posttrig (by rw [drained.render]; exact render) (by rw [drained.entry]; exact post)]

/-- In POSTTRIG below the depth, and in PRETRIG within the share: the head of the free list is the next filling block (R72, R76). -/
theorem exec_writer_acquires {c : Nat} {more : List Nat} (ready : s.ready) (free : s.pool.free = c :: more) (unowned : s.pool.block c = none)
    (goes : (s.takeAt i).state = .posttrig ∧ (s.takeAt i).sealedCount + 1 < (s.takeAt i).depth ∨
      (s.takeAt i).state = .pretrig ∧ (s.takeAt i).sealedCount + 1 ≤ (s.takeAt i).share) :
    ∃ t, exec .captureWriterAccess s = .next t ∧
      Acquired s i b c { e.written r with sealedIn := true } rest ((s.takeAt i).sealedCount + 1) (s.takeAt i).firstSeq more
        ((s.drain i b r).sealBlock i b) t := by
  have sealedIn := drain_fills_sealed granted length
  have free' := (drain_fills_free granted length).trans free
  have drained := drain_fills granted length
  have unowned' : ((s.drain i b r).sealBlock i b).pool.block c = none := by
    obtain ⟨-, -, -, -, block, -⟩ := granted
    have other : c ≠ b := by
      rintro rfl
      exact Option.some_ne_none _ (block.symm.trans unowned)
    rw [sealBlock_pool_of_block (drained.block block), Pool.block_setBlock_ne _ other, drained.block_ne other]
    exact unowned
  have next : exec .captureWriterAccess s = .next (((s.drain i b r).sealBlock i b).acquire i).finish := by
    rcases goes with ⟨post, below⟩ | ⟨pre, within⟩
    · rw [exec_writer_seals_posttrig granted goesOn normal length render post]
      unfold State.afterSealPosttrig
      rw [sealedIn.entry, free', if_neg (Nat.not_le.mpr below), if_neg (by simp)]
    · rw [exec_writer_seals_pretrig granted goesOn normal length render pre,
        afterSealPretrig_within (by rw [sealedIn.entry]; exact within) (by rw [free']; simp)]
  obtain ⟨-, -, sampling, -⟩ := granted
  exact ⟨_, next, sealedIn.acquires ready sampling free' unowned'⟩

omit goesOn normal render

/-- The seal of the filling block leaves the front block where it was. -/
theorem drain_fills_front {f : Nat} (front : s.frontBlock i = some f) (other : f ≠ b) : ((s.drain i b r).sealBlock i b).frontBlock i = some f := by
  have drained := drain_fills granted length
  have sealedIn := drain_fills_sealed granted length
  obtain ⟨-, -, -, -, block, -⟩ := granted
  have found : s.pool.find (s.takeAt i).id (s.takeAt i).firstSeq = some f := by
    unfold State.frontBlock at front
    split at front
    · cases front
    · exact front
  have after : (s.drain i b r).pool.find (s.takeAt i).id (s.takeAt i).firstSeq = some f := by
    rw [drained.frame]
    exact Pool.find_setBlock (p := s.pool) found other block rfl rfl
  unfold State.frontBlock
  rw [sealedIn.entry]
  dsimp only
  rw [if_neg (Nat.succ_ne_zero _), sealBlock_pool_of_block (drained.block block)]
  exact Pool.find_setBlock after other (drained.block block) rfl rfl

include goesOn normal render

/-- In PRETRIG past the share, or with no block free: the front block is dropped to the tail of the free list, and the head is the next filling block. -/
theorem exec_writer_drops {f c : Nat} {d : Block} {more : List Nat} (ready : s.ready) (pre : (s.takeAt i).state = .pretrig)
    (due : (s.takeAt i).share < (s.takeAt i).sealedCount + 1 ∨ s.pool.free = []) (front : s.frontBlock i = some f) (other : f ≠ b)
    (block : s.pool.block f = some d) (unheld : d.revocable = false) (free : s.pool.free ++ [f] = c :: more)
    (unowned : c = f ∨ s.pool.block c = none) :
    ∃ t, exec .captureWriterAccess s = .next t ∧ (c ≠ f → t.pool.block f = none) ∧
      Acquired s i b c { e.written r with sealedIn := true } rest (s.takeAt i).sealedCount (((s.takeAt i).firstSeq + 1) % 2 ^ 32) more
        (((s.drain i b r).sealBlock i b).freeFront i f) t := by
  have sealedIn := drain_fills_sealed granted length
  have free' := drain_fills_free granted length
  have drained := drain_fills granted length
  have front' := drain_fills_front granted length front other
  have next := exec_writer_seals_pretrig granted goesOn normal length render pre
  obtain ⟨-, -, sampling, -, filled, -⟩ := granted
  have apart {a : Nat} (h : a ≠ b) : ((s.drain i b r).sealBlock i b).pool.block a = s.pool.block a := by
    rw [sealBlock_pool_of_block (drained.block filled), Pool.block_setBlock_ne _ h, drained.block_ne h]
  have freed (a : Nat) : (((s.drain i b r).sealBlock i b).freeFront i f).pool.block a =
      if a = f then none else ((s.drain i b r).sealBlock i b).pool.block a := Pool.block_freeBlock _ f a
  have drops := dropFront_frees front' sealedIn.inFlight ((apart other).trans block) unheld
  rw [afterSealPretrig_drops drops (by rw [sealedIn.entry, free']; exact due)] at next
  have unowned' : (((s.drain i b r).sealBlock i b).freeFront i f).pool.block c = none := by
    rw [freed]
    rcases unowned with same | unowned
    · exact if_pos same
    · have c_ne : c ≠ b := by
        rintro rfl
        exact Option.some_ne_none _ (filled.symm.trans unowned)
      rw [apart c_ne, unowned, ite_self]
  have acquired := (sealedIn.dropped sampling other.symm).acquires ready sampling
    ((congrArg (fun l => l ++ [f]) free').trans free) unowned'
  refine ⟨_, next, fun c_ne => ?_, acquired⟩
  rw [acquired.others f c_ne.symm, freed, if_pos rfl]

/-- In POSTTRIG at the depth, or with no block free, the take reaches its ending (R76). -/
theorem exec_writer_ends (post : (s.takeAt i).state = .posttrig) (unattached : ∀ k : Fin 4, (s.lanes.get k).attached = 0)
    (due : (s.takeAt i).depth ≤ (s.takeAt i).sealedCount + 1 ∨ s.pool.free = []) :
    ∃ u, exec .captureWriterAccess s = .next u.finish ∧
      EndsShort ((s.drain i b r).sealBlock i b) i (if (s.takeAt i).depth ≤ (s.takeAt i).sealedCount + 1 then .filled else .short) u := by
  have sealedIn := drain_fills_sealed granted length
  have free' := drain_fills_free granted length
  have next := exec_writer_seals_posttrig granted goesOn normal length render post
  obtain ⟨-, -, sampling, -⟩ := granted
  have goesOn' : (((s.drain i b r).sealBlock i b).takeAt i).endReason = none := by
    rw [sealedIn.entry]
    exact goesOn
  have lanes : ∀ k : Fin 4, (((s.drain i b r).sealBlock i b).lanes.get k).attached = 0 := by
    rw [sealedIn.work.frame]
    exact unattached
  have ends {reason : EndReason} (discards : reason = .filled ∨ reason = .short) :=
    endTake_discards (sealedIn.sampling sampling) goesOn' lanes discards
  unfold State.afterSealPosttrig at next
  rw [sealedIn.entry, free'] at next
  dsimp only at next
  by_cases full : (s.takeAt i).depth ≤ (s.takeAt i).sealedCount + 1
  · rw [if_pos full] at next ⊢
    exact ⟨_, next, ends (.inl rfl)⟩
  · rw [if_neg full, due.resolve_left full] at next
    rw [if_neg full]
    exact ⟨_, next, ends (.inr rfl)⟩

end

end Sys2Proof.Machine
end

section
/-! PROOFS. The capture writer (spec/03, spec/04): a grant that ends an OVERFLOW (R46), and the last record of an ending take (R78). -/

namespace Sys2Proof.Machine

section
variable {s : State} {i b : Nat} {e : Block} {r : Staged} {rest : List Staged} (granted : writerGranted s i b e r rest) (later : e.records ≠ [])
  (length : e.records.length + 1 < 16384)
include granted later length

/-- The FIFO drained to the fill for it: GAP and ANCHOR of the present interval are behind what is staged, and staging is in NORMAL (R46). -/
theorem exec_writer_recovers (goesOn : (s.takeAt i).endReason = none) (overflow : s.staging.overflow = true) (few : rest.length ≤ 2047)
    (healthy : podsHealthy s) :
    ∃ k u, exec .captureWriterAccess s = .next u.finish ∧
      Records (s.drain i b r).normal { s.sampler with streamTime := s.intervalTime, restateDue := true } k
        (s.admitted (s.takeAt i).id s.intervalTime s.staging.gapBody ++ [⟨⟨0, .anchor s.intervalTime⟩, s.intervalTime, (s.takeAt i).id⟩]) u ∧
      u.takeAt i = ((s.drain i b r).takeAt i).recovered s.staging.triggerInLoss := by
  have drained := drain_written granted later
  have execs := exec_captureWriterAccess granted
  obtain ⟨-, -, sampling, filling, block, -⟩ := granted
  have fill : (s.drain i b r).staging.fill = rest.length := congrArg List.length drained.records
  have now : (s.drain i b r).intervalTime = s.intervalTime :=
    intervalTime_congr (by rw [drained.frame]) (by rw [drained.sampler]) (by rw [drained.sampler])
  have admitted : (s.drain i b r).admitted = s.admitted := admitted_congr (by rw [drained.sampler]) (by rw [drained.sampler])
  have gap : (s.drain i b r).staging.gapBody = s.staging.gapBody := by rw [drained.staging]; rfl
  have inLoss : (s.drain i b r).staging.triggerInLoss = s.staging.triggerInLoss := by rw [drained.staging]
  have named : ((s.drain i b r).takeAt i).id = (s.takeAt i).id := by rw [drained.entry]
  obtain ⟨⟨k, records⟩, entry⟩ := recover_records (s := s.drain i b r) (i := i) (by rw [drained.entry]; exact sampling)
    (podsHealthy_congr drained.pods healthy) (by omega)
  rw [now, admitted, gap, named, drained.sampler] at records
  rw [now, inLoss] at entry
  refine ⟨k, _, ?_, records, entry⟩
  have places : ((s.drain i b r).recover i s.intervalTime).placesLeft ≠ 0 := by
    have same : ((s.drain i b r).recover i s.intervalTime).placesLeft = (s.drain i b r).placesLeft := by rw [records.frame]; rfl
    rw [same, drained.placesLeft filling block]
    simp only [Block.written, List.length_append, List.length_singleton]
    omega
  rw [execs, drainOne_goesOn goesOn, recoverIfDrained_over (drained.overflow.trans overflow) (by omega), now]
  unfold State.sealIfFull
  rw [if_neg places]

omit length in
/-- The last record of a take that is ending in POSTTRIG: its last block is sealed (R78). -/
theorem exec_writer_settles (ending : (s.takeAt i).endReason.isSome = true) (normal : s.staging.overflow = false) (last : rest = [])
    (post : (s.takeAt i).state = .posttrig) (render : s.render.order = none) :
    exec .captureWriterAccess s = .next (((s.drain i b r).discardStaged i true).sealBlock i b).finish := by
  have drained := drain_written granted later
  have execs := exec_captureWriterAccess granted
  obtain ⟨-, -, sampling, filling, block, -⟩ := granted
  rw [execs, drainOne_ending ending, settleIfDrained_seals (b := b) (x := e.written r) (by rw [drained.entry]; exact sampling)
    (by rw [drained.entry]; exact post) (drained.overflow.trans normal) (drained.records.trans last) (by rw [drained.render]; exact render)
    (by rw [drained.writer]; exact filling) (drained.block block) (by simp [Block.written])]

end

/-! ## The obligation -/

/-- Settles O48: what a grant drains (`Drained`) is the same in every case; the cases differ in what follows the record. A full block is sealed, and then the take
ends, or acquires its next block, its front block dropped before that if the ring is due; an overflow drained far enough ends; an ending take's block is settled. -/
theorem writerDrainsOldest : Obligations.WriterDrainsOldest := by
  unfold Obligations.WriterDrainsOldest
  intro s i b e r rest ready granted
  have ⟨_, _, sampling, _, block, _⟩ := granted
  refine ⟨fun goesOn normal room plain => ?writes, fun goesOn normal length render =>
    ⟨fun post unattached due => ?ends, fun c more post below free unowned => ?next,
    fun c more pre within free unowned => ?ring, fun f d c more pre due front other front_block unheld free unowned => ?drops⟩,
    fun goesOn overflow few healthy later length => ?recovers, fun ending normal last post render later length => ?settles⟩
  case writes =>
    have drained := drain_drained granted plain
    have done := drained.work.closes ready
    have closed := done.closed
    refine ⟨_, exec_writer_writes granted goesOn normal room plain, by rw [closed.staging, drained.records], by rw [closed.writer, drained.writer],
      fun later => by rw [closed.block, drained.block block, nextBlock_next later], fun first => ?_, closed.pool_free.trans drained.free,
      by rw [closed.takeAt, drained.entry], closed.pods.trans drained.pods, done.lanes, closed.seq.trans drained.seq, closed.sampler.trans drained.sampler,
      done.gens, done.monitor, done.slots, done.panel, closed.alerts.trans drained.alerts, done.disp,
      fun c other => (closed.block c).trans (drained.block_ne other), done.bytes⟩
    exact (closed.block b).trans ((drained.block block).trans (congrArg some (nextBlock_first first s r)))
  case ends =>
    have sealedIn := drain_fills_sealed granted length
    obtain ⟨u, next, short⟩ := exec_writer_ends granted goesOn normal length render post unattached due
    have done := (sealedIn.work.trans short.work).closes ready
    have closed := done.closed
    exact ⟨_, next, by rw [closed.block, short.pool, sealedIn.block], by rw [closed.writer, short.writer]; rfl, by rw [closed.staging, short.records],
      by rw [closed.takeAt, short.entry, sealedIn.entry]; exact post, by rw [closed.takeAt, short.entry, sealedIn.entry],
      by rw [closed.takeAt, short.entry], by rw [closed.sampler, short.sampler],
      by rw [closed.pool_free, short.pool, drain_fills_free granted length], done.bytes⟩
  case next =>
    obtain ⟨t, next, acquired⟩ := exec_writer_acquires granted goesOn normal length render ready free unowned (.inl ⟨post, below⟩)
    exact ⟨t, next, acquired.block, acquired.acquired, acquired.free, acquired.records, acquired.count, acquired.first, acquired.reason.trans goesOn,
      acquired.lanes, acquired.seq, acquired.sampler, acquired.bytes⟩
  case ring =>
    obtain ⟨t, next, acquired⟩ := exec_writer_acquires granted goesOn normal length render ready free unowned (.inr ⟨pre, within⟩)
    exact ⟨t, next, acquired.block, acquired.acquired, acquired.free, acquired.count, acquired.first, acquired.bytes⟩
  case drops =>
    obtain ⟨t, next, freed, acquired⟩ :=
      exec_writer_drops granted goesOn normal length render ready pre due front other front_block unheld free unowned
    exact ⟨t, next, acquired.block, acquired.acquired, acquired.free, freed, acquired.count, acquired.first, acquired.bytes⟩
  case recovers =>
    have drained := drain_written granted later
    obtain ⟨k, u, next, records, entry⟩ := exec_writer_recovers granted later length goesOn overflow few healthy
    have work : CaptureWork s u := (drained.work.trans (v := (s.drain i b r).normal) ⟨rfl⟩).trans records.work
    have done := work.closes ready
    have closed := done.closed
    have staging : u.finish.staging = { (s.drain i b r).staging.normal with
        records := (s.drain i b r).staging.records ++
          (s.admitted (s.takeAt i).id s.intervalTime s.staging.gapBody ++ [⟨⟨0, .anchor s.intervalTime⟩, s.intervalTime, (s.takeAt i).id⟩])
        tripArmed := u.staging.tripArmed } := closed.staging.trans records.staging
    have pool : u.pool = (s.drain i b r).pool := by rw [records.frame]; rfl
    have writer : u.writer = (s.drain i b r).writer := by rw [records.frame]; rfl
    have taken : (u.finish).takeAt i = ((s.drain i b r).takeAt i).recovered s.staging.triggerInLoss := (closed.takeAt i).trans entry
    refine ⟨_, next, by rw [closed.block, pool, drained.block block], by rw [closed.writer, writer, drained.writer], ?_, by rw [staging]; rfl,
      by rw [staging]; rfl, by rw [staging]; rfl, by rw [staging]; rfl, closed.sampler.trans records.sampler, ?_, fun inLoss p placed => ?_,
      closed.pods.trans (records.pods.trans drained.pods), done.lanes, closed.seq.trans (records.seq.trans drained.seq),
      by rw [closed.pool_free, pool, drained.free], done.bytes⟩
    · rw [staging, drained.records, List.append_assoc]
      rfl
    · rw [taken, Take.recovered_gaps, drained.entry]
    · rw [taken, inLoss] at placed
      exact Take.recovered_inGap placed
  case settles =>
    have drained := drain_written granted later
    obtain ⟨n, discarded⟩ := discardStaged_takeAt (s := s.drain i b r) (i := i) (by rw [drained.entry]; exact sampling) true
    have entry := sealBlock_takeAt (s := (s.drain i b r).discardStaged i true) (i := i) (by rw [discarded, drained.entry]; exact sampling) b
    have pool := sealBlock_pool_of_block (s := (s.drain i b r).discardStaged i true) (drained.block block) i
    have work : CaptureWork s (((s.drain i b r).discardStaged i true).sealBlock i b) := drained.work.trans ⟨rfl⟩
    have done := work.closes ready
    have closed := done.closed
    rw [discarded, drained.entry] at entry
    refine ⟨_, exec_writer_settles granted later ending normal last post render, ?_, by rw [closed.writer]; rfl, by rw [closed.staging]; rfl,
      by rw [closed.takeAt, entry], by rw [closed.takeAt, entry]; exact post, by rw [closed.takeAt, entry], ?_, closed.pods.trans drained.pods, done.lanes,
      done.bytes⟩
    · rw [closed.block, pool]
      exact Pool.block_setBlock_same (p := (s.drain i b r).pool) (drained.block block) _
    · rw [closed.pool_free, pool]
      exact drained.free

end Sys2Proof.Machine
end

section
/-! PROOFS. Safety: a property that the resets, TICK and every other command keep is kept by every step; the sizes of the tables (O5) and the partition of
the blocks into owned and free ones (R57, R58; the first half of O4). -/

namespace Sys2Proof.Machine

/-! ## From commands to steps -/

/-- What every command but the resets, TICK and the failures keeps, every command keeps, if the resets bring it about and the time and the failures in store do
not matter to it. -/
theorem exec_keeps {P : State → Prop} (reset : ∀ s : State, P s.powerReset)
    (timed : ∀ (s : State) tick wraps plan, P s → P { s with tick := tick, wraps := wraps, failPlan := plan })
    (others : ∀ (c : Instr) (s t : State), movesTick c = false → (∀ a n d, c ≠ .sharedMemoryAccessFailure a n d) → P s → exec c s = .next t → P t)
    (c : Instr) : ∀ s t : State, P s → exec c s = .next t → P t := by
  induction c with
  | powerOnReset =>
    rintro s t - ⟨⟩
    exact reset s
  | partReset v =>
    by_cases h : v = 1
    · subst h
      rintro s t - ⟨⟩
      exact reset s
    · exact fun s t => others _ s t (beq_false_of_ne h) nofun
  | tick n =>
    rintro s t hs ⟨⟩
    exact timed s _ _ _ hs
  | sharedMemoryAccessFailure a n during ih =>
    intro s t hs h
    refine ih (s.willFail a n) t (timed s s.tick s.wraps _ hs) ?_
    rw [← runCommand_eq_exec]
    exact h
  | _ => exact fun s t => others _ s t rfl nofun

/-- The same of a step, where the property does not speak of the queue. -/
theorem step_keeps {P : State → Prop} (queued : ∀ s rest, P s → P { s with pending := rest })
    (commands : ∀ (c : Instr) (s t : State), P s → exec c s = .next t → P t) {s t : State} (hs : P s) (h : step s = .next t) : P t := by
  unfold step at h
  split at h
  · cases h
    exact hs
  · exact commands _ _ t (queued s _ hs) h

/-! ## Sizes -/

theorem Keeps.tablesSized {s t : State} (h : Keeps s t) (sized : s.tablesSized) : t.tablesSized := by
  obtain ⟨takes, slots, channels, image⟩ := sized
  exact ⟨h.takes.trans takes, h.slots.trans slots, h.channels.trans channels, h.image image⟩

/-- Every command but the resets and TICK only does what the operations of the part do. -/
theorem exec_next_keeps {c : Instr} {s t : State} (h : movesTick c = false) (next : exec c s = .next t) : Keeps s t := by
  obtain ⟨u, goes, kept, -⟩ := exec_goesOn c s h
  cases goes.symm.trans next
  exact kept

/-- Settles O5: the resets give the tables their sizes, and no operation changes one. -/
theorem tablesKeepTheirSizes : Obligations.TablesKeepTheirSizes := fun _ _ sized next =>
  step_keeps (P := State.tablesSized) (fun _ _ h => h)
    (exec_keeps (fun _ => reset_tablesSized) (fun _ _ _ _ h => h) fun _ _ _ moves _ h next => (exec_next_keeps moves next).tablesSized h)
    sized next

/-- Power-on and part reset leave the pool as at reset (R58). -/
theorem powerReset_pool (s : State) : s.powerReset.pool = State.reset.pool := rfl

/-- Every step keeps each block on the free list or owned, never both (R57, R58). -/
theorem step_partitioned {s t : State} (h : s.pool.partitioned) (next : step s = .next t) : t.pool.partitioned :=
  step_keeps (P := fun s => s.pool.partitioned) (fun _ _ h => h)
    (exec_keeps (fun s => (powerReset_pool s).symm ▸ reset_partitioned) (fun _ _ _ _ h => h) fun _ _ _ moves _ h next => (exec_next_keeps moves next).pool h)
    h next

end Sys2Proof.Machine
end

section
/-! PROOFS. The block pool (spec/04, R57 to R60, R66): the places of the blocks over the look-ups alone, and what each operation that moves a block does to them. -/

namespace Sys2Proof.Machine

/-! ## The places over the look-ups -/

/-- The clauses of `State.takesNamed` on single entries (R66, R67). -/
structure Named (take : Nat → Take) : Prop where
  named : ∀ i, (take i).state = .empty ↔ (take i).id = 0
  emptied : ∀ i, (take i).state = .empty → (take i).sealedCount = 0
  fresh : ∀ i, (take i).state = .waiting → (take i).firstSeq = 0 ∧ (take i).sealedCount = 0 ∧ (take i).acquired = 0
  first : ∀ i, (take i).firstSeq < 2 ^ 32
  ids : ∀ i j, (take i).id = (take j).id → (take i).id ≠ 0 → i = j
  alone : ∀ i j, (take i).capturing = true → (take j).capturing = true → i = j

/-- The clauses of `State.blocksPlaced` on single blocks: the filling block, the sealed ones and the places of the takes (R57 to R60). -/
structure Seated (block : Nat → Option Block) (filling : Option Nat) (take : Nat → Take) : Prop where
  unsealed : ∀ b e, block b = some e → (e.sealedIn = false ↔ filling = some b)
  fills : ∀ b, filling = some b → ∃ e i, block b = some e ∧ e.fillsIn (take i)
  placed : ∀ b e, block b = some e → e.sealedIn = true → ∃ i j, j < (take i).sealedCount ∧ e.sealedAt (take i) j
  held : ∀ i j, j < (take i).sealedCount → ∃! b, ∃ e, block b = some e ∧ e.sealedAt (take i) j
  next : ∀ i, (take i).sampling = true → (take i).endReason = none → filling = none →
    (take i).acquired = ((take i).firstSeq + (take i).sealedCount) % 2 ^ 32

theorem blocksPlaced_iff (s : State) :
    s.blocksPlaced ↔
      s.pool.partitioned ∧ s.takes.entries.length = 8 ∧ Named s.takeAt ∧ Seated s.pool.block s.writer.filling s.takeAt := by
  constructor
  · rintro ⟨partitioned, ⟨length, entries, ids, alone⟩, unsealed, fills, placed, held, next⟩
    exact ⟨partitioned, length,
      ⟨fun i => (entries i).1, fun i => (entries i).2.1, fun i => (entries i).2.2.1, fun i => (entries i).2.2.2, ids, alone⟩,
      unsealed, fills, placed, held, next⟩
  · rintro ⟨partitioned, length, named, seated⟩
    exact ⟨partitioned,
      ⟨length, fun i => ⟨named.named i, named.emptied i, named.fresh i, named.first i⟩, named.ids, named.alone⟩,
      seated.unsealed, seated.fills, seated.placed, seated.held, seated.next⟩

/-! ## The take table -/

theorem Take.not_empty_of_capturing {t : Take} (h : t.capturing = true) : t.state ≠ .empty := by
  intro empty
  simp [Take.capturing, empty] at h

/-- What one replaced entry leaves as it was, it leaves as it was everywhere. -/
theorem update_same {β : Sort _} (take : Nat → Take) {i : Nat} {t : Take} (f : Take → β) (same : f t = f (take i)) (j : Nat) :
    f (Function.update take i t j) = f (take j) := by
  by_cases h : j = i
  · subst h
    rw [Function.update_self, same]
  · rw [Function.update_of_ne h]

/-- What every old entry has and the new one too, every entry has. -/
theorem update_all {take : Nat → Take} {i : Nat} {t : Take} (p : Take → Prop) (new : p t) (old : ∀ j, p (take j)) (j : Nat) :
    p (Function.update take i t j) := by
  by_cases h : j = i
  · subst h
    rwa [Function.update_self]
  · rw [Function.update_of_ne h]
    exact old j

namespace Named

variable {take : Nat → Take} {i : Nat} {t : Take}

theorem id_of_capturing (h : Named take) (capturing : (take i).capturing = true) : (take i).id ≠ 0 := fun zero =>
  Take.not_empty_of_capturing capturing ((h.named i).mpr zero)

theorem id_of_place (h : Named take) {j : Nat} (place : j < (take i).sealedCount) : (take i).id ≠ 0 := by
  intro zero
  have none := h.emptied i ((h.named i).mpr zero)
  omega

/-- An entry replaced by a well-formed one with an id of its own, which captures only if no other entry does. -/
theorem update (h : Named take) (named : t.state = .empty ↔ t.id = 0) (emptied : t.state = .empty → t.sealedCount = 0)
    (fresh : t.state = .waiting → t.firstSeq = 0 ∧ t.sealedCount = 0 ∧ t.acquired = 0) (first : t.firstSeq < 2 ^ 32)
    (ids : ∀ j, j ≠ i → t.id = (take j).id → t.id = 0) (alone : ∀ j, j ≠ i → t.capturing = true → (take j).capturing = false) :
    Named (Function.update take i t) where
  named := update_all (fun x => x.state = .empty ↔ x.id = 0) named h.named
  emptied := update_all (fun x => x.state = .empty → x.sealedCount = 0) emptied h.emptied
  fresh := update_all (fun x => x.state = .waiting → x.firstSeq = 0 ∧ x.sealedCount = 0 ∧ x.acquired = 0) fresh h.fresh
  first := update_all (fun x => x.firstSeq < 2 ^ 32) first h.first
  ids j k := by
    by_cases hj : j = i <;> by_cases hk : k = i
    · exact fun _ _ => hj.trans hk.symm
    · subst hj
      rw [Function.update_self, Function.update_of_ne hk]
      exact fun same nonzero => absurd (ids k hk same) nonzero
    · subst hk
      rw [Function.update_self, Function.update_of_ne hj]
      exact fun same nonzero => absurd (ids j hj same.symm) (same ▸ nonzero)
    · rw [Function.update_of_ne hj, Function.update_of_ne hk]
      exact h.ids j k
  alone j k := by
    by_cases hj : j = i <;> by_cases hk : k = i
    · exact fun _ _ => hj.trans hk.symm
    · subst hj
      rw [Function.update_self, Function.update_of_ne hk]
      exact fun new old => absurd old (by simp [alone k hk new])
    · subst hk
      rw [Function.update_self, Function.update_of_ne hj]
      exact fun old new => absurd old (by simp [alone j hj new])
    · rw [Function.update_of_ne hj, Function.update_of_ne hk]
      exact h.alone j k

/-- An entry in use that keeps its id, and captures only if it did before. -/
theorem change (h : Named take) (id : t.id = (take i).id) (used : (take i).state ≠ .empty) (inUse : t.state ≠ .empty)
    (captures : t.capturing = true → (take i).capturing = true)
    (fresh : t.state = .waiting → t.firstSeq = 0 ∧ t.sealedCount = 0 ∧ t.acquired = 0) (first : t.firstSeq < 2 ^ 32) :
    Named (Function.update take i t) := by
  have nonzero : t.id ≠ 0 := fun zero => used ((h.named i).mpr (id ▸ zero))
  refine h.update ⟨fun empty => absurd empty inUse, fun zero => absurd zero nonzero⟩ (fun empty => absurd empty inUse) fresh first
    (fun j other same => absurd (h.ids i j (id ▸ same) (id ▸ nonzero)).symm other) (fun j other new => ?_)
  exact Bool.eq_false_iff.mpr fun both => other (h.alone i j (captures new) both).symm

end Named

/-! ## Places -/

/-- A sequence of fewer than 2^32 places numbers each of them differently. -/
theorem seqNo_inj {f n j k : Nat} (small : n < 2 ^ 32) (hj : j ≤ n) (hk : k ≤ n) (h : (f + j) % 2 ^ 32 = (f + k) % 2 ^ 32) : j = k := by omega

namespace Seated

variable {block : Nat → Option Block} {filling : Option Nat} {take : Nat → Take} {i b : Nat}

/-- There are not more places in a take's sequence than blocks. -/
theorem sealedCount_le (h : Seated block filling take) (few : ∀ b e, block b = some e → b < 4096) (i : Nat) : (take i).sealedCount ≤ 4096 := by
  by_contra more
  have seat (j : Fin 4097) : ∃ b, ∃ e, block b = some e ∧ e.sealedAt (take i) j := (h.held i j (by omega)).exists
  choose b e present sealedAt using seat
  have inj : Function.Injective (fun j => (⟨b j, few _ _ (present j)⟩ : Fin 4096)) := by
    intro j k same
    have sameBlock : b j = b k := congrArg Fin.val same
    have sameEntry : e j = e k := Option.some.inj ((present j).symm.trans (sameBlock ▸ present k))
    have sameNumber : ((take i).firstSeq + j.val) % 2 ^ 32 = ((take i).firstSeq + k.val) % 2 ^ 32 :=
      (sealedAt j).2.2.symm.trans (sameEntry ▸ (sealedAt k).2.2)
    exact Fin.ext (seqNo_inj (n := 4096) (by omega) (by omega) (by omega) sameNumber)
  simpa using Fintype.card_le_of_injective _ inj

/-- A block sealed with the id of a take has a place of that take. -/
theorem place_of_id (h : Seated block filling take) (named : Named take) {e : Block} (present : block b = some e) (isSealed : e.sealedIn = true)
    (id : e.takeId = (take i).id) : ∃ j, j < (take i).sealedCount ∧ e.sealedAt (take i) j := by
  obtain ⟨k, j, place, sealedAt⟩ := h.placed b e present isSealed
  have same : k = i := named.ids k i (sealedAt.2.1.symm.trans id) (named.id_of_place place)
  subst same
  exact ⟨j, place, sealedAt⟩

/-- Two blocks at one place are one. -/
theorem block_unique (h : Seated block filling take) {j c : Nat} {e d : Block} (place : j < (take i).sealedCount) (present : block b = some e)
    (sealedAt : e.sealedAt (take i) j) (present' : block c = some d) (sealedAt' : d.sealedAt (take i) j) : b = c :=
  (h.held i j place).unique ⟨e, present, sealedAt⟩ ⟨d, present', sealedAt'⟩

/-- A take entry replaced by one with the same places, which fills what the old one filled. -/
theorem retake (h : Seated block filling take) {t : Take} (count : t.sealedCount = (take i).sealedCount)
    (seats : (take i).sealedCount ≠ 0 → t.id = (take i).id ∧ t.firstSeq = (take i).firstSeq)
    (fills : ∀ e : Block, e.fillsIn (take i) → filling ≠ none → e.fillsIn t)
    (next : t.sampling = true → t.endReason = none → filling = none → t.acquired = (t.firstSeq + t.sealedCount) % 2 ^ 32) :
    Seated block filling (Function.update take i t) := by
  have counts := update_same take (fun t => t.sealedCount) count
  have seat {e : Block} {k j : Nat} (place : j < (take k).sealedCount) : e.sealedAt (Function.update take i t k) j ↔ e.sealedAt (take k) j := by
    by_cases same : k = i
    · subst same
      obtain ⟨id, seq⟩ := seats (by omega)
      rw [Function.update_self]
      unfold Block.sealedAt
      rw [id, seq]
    · rw [Function.update_of_ne same]
  refine ⟨h.unsealed, fun b filled => ?_, fun b e present isSealed => ?_, fun k j place => ?_,
    update_all (fun x => x.sampling = true → x.endReason = none → filling = none → x.acquired = (x.firstSeq + x.sealedCount) % 2 ^ 32) next h.next⟩
  · obtain ⟨e, j, present, fillsIn⟩ := h.fills b filled
    refine ⟨e, j, present, ?_⟩
    by_cases same : j = i
    · subst same
      rw [Function.update_self]
      exact fills e fillsIn (by simp [filled])
    · rwa [Function.update_of_ne same]
  · obtain ⟨k, j, place, sealedAt⟩ := h.placed b e present isSealed
    exact ⟨k, j, (counts k).symm ▸ place, (seat place).mpr sealedAt⟩
  · rw [counts] at place
    simpa only [seat place] using h.held k j place

end Seated

/-! ## Blocks moved -/

section
variable {block : Nat → Option Block} {filling : Option Nat} {take : Nat → Take} {i b : Nat}

/-- What a block reads after one block has changed. -/
theorem update_block_cases {x : Option Block} {c : Nat} {e : Block} (present : Function.update block b x c = some e) :
    (c = b ∧ x = some e) ∨ (c ≠ b ∧ block c = some e) := by
  by_cases same : c = b
  · subst same
    rw [Function.update_self] at present
    exact .inl ⟨rfl, present⟩
  · rw [Function.update_of_ne same] at present
    exact .inr ⟨same, present⟩

/-- A block off the free list becomes the filling block of the sampling take (R59). -/
theorem Seated.acquire (h : Seated block none take) {x : Block} (free : block b = none)
    (sampling : (take i).sampling = true) (number : (take i).acquired = ((take i).firstSeq + (take i).sealedCount) % 2 ^ 32)
    (unsealed : x.sealedIn = false) (id : x.takeId = (take i).id) (seq : x.seqNo = (take i).acquired) :
    Seated (Function.update block b (some x)) (some b)
      (Function.update take i { take i with acquired := ((take i).acquired + 1) % 2 ^ 32 }) := by
  have counts := update_same take (i := i) (t := { take i with acquired := ((take i).acquired + 1) % 2 ^ 32 }) (fun t => t.sealedCount) rfl
  have seats (e : Block) (j : Nat) :=
    update_same take (i := i) (t := { take i with acquired := ((take i).acquired + 1) % 2 ^ 32 }) (fun t => e.sealedAt t j) rfl
  have kept {c : Nat} {e : Block} (present : block c = some e) : c ≠ b ∧ Function.update block b (some x) c = some e := by
    have other : c ≠ b := fun same => by subst same; rw [free] at present; cases present
    exact ⟨other, by rw [Function.update_of_ne other, present]⟩
  have isSealed {c : Nat} {e : Block} (present : block c = some e) : e.sealedIn = true := by
    by_contra not
    simpa using (h.unsealed c e present).mp (by simpa using not)
  refine ⟨fun c e present => ?_, fun c filled => ?_, fun c e present isSealed' => ?_, fun k j place => ?_, fun _ _ _ notFilling => (nomatch notFilling)⟩
  · obtain ⟨rfl, new⟩ | ⟨other, old⟩ := update_block_cases present
    · cases new
      simp [unsealed]
    · simp [isSealed old, other.symm]
  · cases filled
    refine ⟨x, i, Function.update_self _ _ _, ?_⟩
    rw [Function.update_self]
    refine ⟨sampling, id, seq.trans number, ?_⟩
    rw [seq]
  · obtain ⟨rfl, new⟩ | ⟨other, old⟩ := update_block_cases present
    · cases new
      rw [unsealed] at isSealed'
      cases isSealed'
    · obtain ⟨k, j, place, sealedAt⟩ := h.placed c e old isSealed'
      exact ⟨k, j, (counts k).symm ▸ place, (seats e j k).symm ▸ sealedAt⟩
  · rw [counts] at place
    obtain ⟨c, ⟨e, present, sealedAt⟩, unique⟩ := h.held k j place
    refine ⟨c, ⟨e, (kept present).2, (seats e j k).symm ▸ sealedAt⟩, ?_⟩
    rintro d ⟨y, present', sealedAt'⟩
    rw [seats] at sealedAt'
    obtain ⟨rfl, new⟩ | ⟨-, old⟩ := update_block_cases present'
    · cases new
      rw [sealedAt'.1] at unsealed
      cases unsealed
    · exact unique d ⟨y, old, sealedAt'⟩

/-- The filling block is sealed at the end of its take's sequence (R60). -/
theorem Seated.seal (h : Seated block (some b) take) (named : Named take) (small : (take i).sealedCount ≤ 4096) {e : Block} (present : block b = some e)
    (fillsIn : e.fillsIn (take i)) :
    Seated (Function.update block b (some { e with sealedIn := true })) none
      (Function.update take i { take i with sealedCount := (take i).sealedCount + 1 }) := by
  obtain ⟨sampling, id, seq, acquired⟩ := fillsIn
  have seats (e : Block) (j : Nat) :=
    update_same take (i := i) (t := { take i with sealedCount := (take i).sealedCount + 1 }) (fun t => e.sealedAt t j) rfl
  have more (k : Nat) : (take k).sealedCount ≤ (Function.update take i { take i with sealedCount := (take i).sealedCount + 1 } k).sealedCount := by
    by_cases same : k = i
    · subst same
      simp
    · rw [Function.update_of_ne same]
  have unsealed : e.sealedIn = false := (h.unsealed b e present).mpr rfl
  have isSealed {c : Nat} {d : Block} (other : c ≠ b) (there : block c = some d) : d.sealedIn = true := by
    by_contra not
    exact other (Option.some.inj ((h.unsealed c d there).mp (by simpa using not))).symm
  refine ⟨fun c d there => ?_, fun c filled => (nomatch filled), fun c d there isSealed' => ?_, fun k j place => ?_, fun k samples _ _ => ?_⟩
  · obtain ⟨rfl, new⟩ | ⟨other, old⟩ := update_block_cases there
    · cases new
      simp
    · simp [isSealed other old]
  · obtain ⟨rfl, new⟩ | ⟨other, old⟩ := update_block_cases there
    · cases new
      refine ⟨i, (take i).sealedCount, by simp, ?_⟩
      rw [seats]
      exact ⟨rfl, id, seq⟩
    · obtain ⟨k, j, place, sealedAt⟩ := h.placed c d old isSealed'
      exact ⟨k, j, Nat.lt_of_lt_of_le place (more k), (seats d j k).symm ▸ sealedAt⟩
  · by_cases last : k = i ∧ j = (take i).sealedCount
    · obtain ⟨rfl, rfl⟩ := last
      refine ⟨b, ⟨_, Function.update_self _ _ _, by rw [seats]; exact ⟨rfl, id, seq⟩⟩, ?_⟩
      rintro c ⟨d, there, sealedAt⟩
      rw [seats] at sealedAt
      obtain ⟨rfl, -⟩ | ⟨other, old⟩ := update_block_cases there
      · rfl
      · obtain ⟨j', place', sealedAt'⟩ := h.place_of_id named old sealedAt.1 sealedAt.2.1
        have same := seqNo_inj (n := (take k).sealedCount) (by omega) place'.le le_rfl (sealedAt'.2.2.symm.trans sealedAt.2.2)
        omega
    · have place' : j < (take k).sealedCount := by
        by_cases same : k = i
        · subst same
          rw [Function.update_self] at place
          have : j < (take k).sealedCount + 1 := place
          omega
        · rwa [Function.update_of_ne same] at place
      obtain ⟨c, ⟨d, there, sealedAt⟩, unique⟩ := h.held k j place'
      have other : c ≠ b := by
        rintro rfl
        cases there.symm.trans present
        exact absurd sealedAt.1 (by simp [unsealed])
      refine ⟨c, ⟨d, by rw [Function.update_of_ne other, there], (seats d j k).symm ▸ sealedAt⟩, ?_⟩
      rintro c' ⟨d', there', sealedAt'⟩
      rw [seats] at sealedAt'
      obtain ⟨rfl, new⟩ | ⟨-, old⟩ := update_block_cases there'
      · cases new
        have owner : k = i := named.ids k i (sealedAt'.2.1.symm.trans id) (named.id_of_place place')
        subst owner
        have same := seqNo_inj (n := (take k).sealedCount) (by omega) place'.le le_rfl (sealedAt'.2.2.symm.trans seq)
        omega
      · exact unique c' ⟨d', old, sealedAt'⟩
  · by_cases same : k = i
    · subst same
      rw [Function.update_self]
      change (take k).acquired = ((take k).firstSeq + ((take k).sealedCount + 1)) % 2 ^ 32
      omega
    · rw [Function.update_of_ne same] at samples
      exact absurd (named.alone k i (capturing_of_sampling samples) (capturing_of_sampling sampling)) same

/-- The empty filling block of an ending take goes back to the free list (R60). -/
theorem Seated.freeFilling (h : Seated block (some b) take) (ending : ∀ i, (take i).sampling = true → (take i).endReason ≠ none) :
    Seated (Function.update block b none) none take := by
  have isSealed {c : Nat} {d : Block} (other : c ≠ b) (there : block c = some d) : d.sealedIn = true := by
    by_contra not
    exact other (Option.some.inj ((h.unsealed c d there).mp (by simpa using not))).symm
  refine ⟨fun c d there => ?_, fun c filled => (nomatch filled), fun c d there isSealed' => ?_, fun k j place => ?_,
    fun k samples goesOn _ => absurd goesOn (ending k samples)⟩
  · obtain ⟨rfl, new⟩ | ⟨other, old⟩ := update_block_cases there
    · cases new
    · simp [isSealed other old]
  · obtain ⟨rfl, new⟩ | ⟨other, old⟩ := update_block_cases there
    · cases new
    · exact h.placed c d old isSealed'
  · obtain ⟨c, ⟨d, there, sealedAt⟩, unique⟩ := h.held k j place
    have other : c ≠ b := by
      rintro rfl
      have := (h.unsealed c d there).mpr rfl
      rw [sealedAt.1] at this
      cases this
    refine ⟨c, ⟨d, by rw [Function.update_of_ne other, there], sealedAt⟩, ?_⟩
    rintro c' ⟨d', there', sealedAt'⟩
    obtain ⟨rfl, new⟩ | ⟨-, old⟩ := update_block_cases there'
    · cases new
    · exact unique c' ⟨d', old, sealedAt'⟩

/-- The front block of a take's sequence goes back to the free list (R71, R83). -/
theorem Seated.freeFront (h : Seated block filling take) (named : Named take) (small : (take i).sealedCount ≤ 4096)
    (place : 0 < (take i).sealedCount) {e : Block} (present : block b = some e) (sealedAt : e.sealedAt (take i) 0) :
    Seated (Function.update block b none) filling (Function.update take i (take i).withoutFront) := by
  have shift {d : Block} {j : Nat} : d.sealedAt (take i).withoutFront j ↔ d.sealedAt (take i) (j + 1) := by
    have number : (((take i).firstSeq + 1) % 2 ^ 32 + j) % 2 ^ 32 = ((take i).firstSeq + (j + 1)) % 2 ^ 32 := by omega
    unfold Block.sealedAt Take.withoutFront
    rw [number]
  have notFront {c j : Nat} {d : Block} (there : block c = some d) (at' : d.sealedAt (take i) (j + 1)) (place' : j + 1 < (take i).sealedCount) : c ≠ b := by
    rintro rfl
    cases there.symm.trans present
    have same := seqNo_inj (n := (take i).sealedCount) (by omega) place.le place'.le (sealedAt.2.2.symm.trans at'.2.2)
    omega
  have otherTake {k : Nat} (h : k ≠ i) : Function.update take i (take i).withoutFront k = take k := Function.update_of_ne h _ _
  refine ⟨fun c d there => ?_, fun c filled => ?_, fun c d there isSealed => ?_, fun k j place' => ?_, fun k => ?_⟩
  · obtain ⟨rfl, new⟩ | ⟨-, old⟩ := update_block_cases there
    · cases new
    · exact h.unsealed c d old
  · obtain ⟨d, k, there, sampling, id, seq, acquired⟩ := h.fills c filled
    have other : c ≠ b := by
      rintro rfl
      cases there.symm.trans present
      have := (h.unsealed c e present).mpr filled
      rw [sealedAt.1] at this
      cases this
    refine ⟨d, k, by rw [Function.update_of_ne other, there], ?_⟩
    by_cases same : k = i
    · subst same
      rw [Function.update_self]
      refine ⟨sampling, id, ?_, acquired⟩
      change d.seqNo = (((take k).firstSeq + 1) % 2 ^ 32 + ((take k).sealedCount - 1)) % 2 ^ 32
      omega
    · rw [otherTake same]
      exact ⟨sampling, id, seq, acquired⟩
  · obtain ⟨rfl, new⟩ | ⟨other, old⟩ := update_block_cases there
    · cases new
    · obtain ⟨k, j, place', at'⟩ := h.placed c d old isSealed
      by_cases same : k = i
      · subst same
        cases j with
        | zero => exact absurd (h.block_unique place' old at' present sealedAt) other
        | succ j =>
          refine ⟨k, j, ?_, ?_⟩
          · rw [Function.update_self]
            change j < (take k).sealedCount - 1
            omega
          · rw [Function.update_self]
            exact shift.mpr at'
      · refine ⟨k, j, ?_⟩
        rw [otherTake same]
        exact ⟨place', at'⟩
  · by_cases same : k = i
    · subst same
      rw [Function.update_self] at place' ⊢
      have place'' : j + 1 < (take k).sealedCount := by
        change j < (take k).sealedCount - 1 at place'
        omega
      obtain ⟨c, ⟨d, there, at'⟩, unique⟩ := h.held k (j + 1) place''
      refine ⟨c, ⟨d, by rw [Function.update_of_ne (notFront there at' place''), there], shift.mpr at'⟩, ?_⟩
      rintro c' ⟨d', there', sealedAt'⟩
      obtain ⟨rfl, new⟩ | ⟨-, old⟩ := update_block_cases there'
      · cases new
      · exact unique c' ⟨d', old, shift.mp sealedAt'⟩
    · rw [otherTake same] at place' ⊢
      obtain ⟨c, ⟨d, there, at'⟩, unique⟩ := h.held k j place'
      have other : c ≠ b := by
        rintro rfl
        cases there.symm.trans present
        exact same (named.ids k i (at'.2.1.symm.trans sealedAt.2.1) (named.id_of_place place'))
      refine ⟨c, ⟨d, by rw [Function.update_of_ne other, there], at'⟩, ?_⟩
      rintro c' ⟨d', there', sealedAt'⟩
      obtain ⟨rfl, new⟩ | ⟨-, old⟩ := update_block_cases there'
      · cases new
      · exact unique c' ⟨d', old, sealedAt'⟩
  · by_cases same : k = i
    · subst same
      rw [Function.update_self]
      intro sampling goesOn notFilling
      have number := h.next k sampling goesOn notFilling
      change (take k).acquired = (((take k).firstSeq + 1) % 2 ^ 32 + ((take k).sealedCount - 1)) % 2 ^ 32
      omega
    · rw [otherTake same]
      exact h.next k

end

end Sys2Proof.Machine
end

section
/-! PROOFS. The block pool (spec/04): the places of the blocks as the state shows them, and the operations that move no block and change no take's places. -/

namespace Sys2Proof.Machine

/-! ## What the places depend on -/

/-- A block entry with nothing but what tells its place. -/
def Block.stand (e : Block) : Block where
  sealedIn := e.sealedIn
  takeId := e.takeId
  seqNo := e.seqNo
  firstTick := 0
  lastTick := 0
  generations := Four.all 0
  holdCount := 0
  revocable := false
  records := []

/-- A take entry with nothing but what tells the places of its blocks. -/
def Take.stand (t : Take) : Take :=
  { Take.reset with
    id := t.id
    state := t.state
    firstSeq := t.firstSeq
    sealedCount := t.sealedCount
    acquired := t.acquired
    endReason := t.endReason }

/-- What is read of a block's place alone is the same in two entries at one place. -/
theorem Block.eq_of_stand {β : Sort _} (f : Block → β) {e d : Block} (same : e.stand = d.stand) (reads : ∀ e, f e.stand = f e := by exact fun _ => rfl) :
    f e = f d := by rw [← reads e, same, reads]

/-- What is read of the places of a take alone is the same in two entries with the same places. -/
theorem Take.eq_of_stand {β : Sort _} (f : Take → β) {t u : Take} (same : t.stand = u.stand) (reads : ∀ t, f t.stand = f t := by exact fun _ => rfl) :
    f t = f u := by rw [← reads t, same, reads]

/-- What `State.blocksPlaced` reads of a state. -/
structure Places where
  owned : List Nat
  block : Nat → Option Block
  free : List Nat
  filling : Option Nat
  entries : List Take

/-- The places of the blocks in a state. -/
def State.places (s : State) : Places where
  owned := s.pool.owned
  block b := (s.pool.block b).map Block.stand
  free := s.pool.free
  filling := s.writer.filling
  entries := s.takes.entries.map Take.stand

theorem takeAt_stand (s : State) (i : Nat) : (s.takeAt i).stand = s.places.entries.getD i Take.reset := by
  unfold State.takeAt State.places
  rw [List.getD_eq_getElem?_getD, List.getD_eq_getElem?_getD, List.getElem?_map]
  cases s.takes.entries[i]? <;> rfl

theorem findIdxFrom_map {α β : Type} (g : α → β) (p : β → Bool) (l : List α) (n : Nat) :
    findIdxFrom p (l.map g) n = findIdxFrom (fun x => p (g x)) l n := by
  induction l generalizing n with
  | nil => rfl
  | cons x rest ih => simp only [List.map_cons, findIdxFrom, ih]

section
variable {s u : State} (same : u.places = s.places)
include same

theorem stand_of_places (i : Nat) : (u.takeAt i).stand = (s.takeAt i).stand := by rw [takeAt_stand, takeAt_stand, same]

theorem state_of_places (i : Nat) : (u.takeAt i).state = (s.takeAt i).state := Take.eq_of_stand Take.state (stand_of_places same i)

theorem endReason_of_places (i : Nat) : (u.takeAt i).endReason = (s.takeAt i).endReason := Take.eq_of_stand Take.endReason (stand_of_places same i)

theorem capturing_of_places (i : Nat) : (u.takeAt i).capturing = (s.takeAt i).capturing := Take.eq_of_stand Take.capturing (stand_of_places same i)

theorem sampling_of_places (i : Nat) : (u.takeAt i).sampling = (s.takeAt i).sampling := Take.eq_of_stand Take.sampling (stand_of_places same i)

theorem filling_of_places : u.writer.filling = s.writer.filling := congrArg Places.filling same

theorem capIndex_of_places : u.capIndex = s.capIndex := by
  have search (s : State) : s.capIndex = findIdxFrom Take.capturing s.places.entries 0 :=
    (findIdxFrom_map Take.stand Take.capturing s.takes.entries 0).symm
  rw [search, search, same]

end

theorem Named.congr {take take' : Nat → Take} (same : ∀ i, (take' i).stand = (take i).stand) (h : Named take) : Named take' := by
  have plain (i : Nat) : (take' i).id = (take i).id ∧ (take' i).state = (take i).state ∧ (take' i).firstSeq = (take i).firstSeq ∧
      (take' i).sealedCount = (take i).sealedCount ∧ (take' i).acquired = (take i).acquired ∧ (take' i).capturing = (take i).capturing :=
    ⟨Take.eq_of_stand Take.id (same i), Take.eq_of_stand Take.state (same i), Take.eq_of_stand Take.firstSeq (same i), Take.eq_of_stand Take.sealedCount (same i),
      Take.eq_of_stand Take.acquired (same i), Take.eq_of_stand Take.capturing (same i)⟩
  refine ⟨fun i => ?_, fun i => ?_, fun i => ?_, fun i => ?_, fun i j => ?_, fun i j => ?_⟩
  all_goals obtain ⟨id, state, first, count, acquired, capturing⟩ := plain i
  · rw [id, state]
    exact h.named i
  · rw [state, count]
    exact h.emptied i
  · rw [state, first, count, acquired]
    exact h.fresh i
  · rw [first]
    exact h.first i
  · rw [id, (plain j).1]
    exact h.ids i j
  · rw [capturing, (plain j).2.2.2.2.2]
    exact h.alone i j

theorem Seated.congr {block block' : Nat → Option Block} {filling : Option Nat} {take take' : Nat → Take}
    (blocks : ∀ b, (block' b).map Block.stand = (block b).map Block.stand) (same : ∀ i, (take' i).stand = (take i).stand)
    (h : Seated block filling take) : Seated block' filling take' := by
  have look {x y : Option Block} {e : Block} (alike : x.map Block.stand = y.map Block.stand) (present : x = some e) :
      ∃ d, y = some d ∧ d.stand = e.stand := by
    subst present
    simpa [eq_comm] using alike.symm
  have count (i : Nat) : (take' i).sealedCount = (take i).sealedCount := Take.eq_of_stand Take.sealedCount (same i)
  have seat {e d : Block} (alike : d.stand = e.stand) (i j : Nat) : d.sealedAt (take i) j ↔ e.sealedAt (take' i) j := by
    change d.stand.sealedAt (take i).stand j ↔ e.stand.sealedAt (take' i).stand j
    rw [alike, same]
  have fillsIn {e d : Block} (alike : d.stand = e.stand) (i : Nat) : d.fillsIn (take i) ↔ e.fillsIn (take' i) := by
    change d.stand.fillsIn (take i).stand ↔ e.stand.fillsIn (take' i).stand
    rw [alike, same]
  have sealedIn {e d : Block} (alike : d.stand = e.stand) : d.sealedIn = e.sealedIn := Block.eq_of_stand Block.sealedIn alike
  refine ⟨fun b e present => ?_, fun b filled => ?_, fun b e present isSealed => ?_, fun i j place => ?_, fun i => ?_⟩
  · obtain ⟨d, there, alike⟩ := look (blocks b) present
    rw [← sealedIn alike]
    exact h.unsealed b d there
  · obtain ⟨d, i, there, fills⟩ := h.fills b filled
    obtain ⟨e, present, alike⟩ := look (blocks b).symm there
    exact ⟨e, i, present, (fillsIn alike.symm i).mp fills⟩
  · obtain ⟨d, there, alike⟩ := look (blocks b) present
    obtain ⟨i, j, place, sealedAt⟩ := h.placed b d there ((sealedIn alike).trans isSealed)
    exact ⟨i, j, (count i).symm ▸ place, (seat alike i j).mp sealedAt⟩
  · obtain ⟨b, ⟨d, there, sealedAt⟩, unique⟩ := h.held i j (count i ▸ place)
    obtain ⟨e, present, alike⟩ := look (blocks b).symm there
    refine ⟨b, ⟨e, present, (seat alike.symm i j).mp sealedAt⟩, ?_⟩
    rintro c ⟨e', present', sealedAt'⟩
    obtain ⟨d', there', alike'⟩ := look (blocks c) present'
    exact unique c ⟨d', there', (seat alike' i j).mpr sealedAt'⟩
  · rw [show (take' i).sampling = (take i).sampling from Take.eq_of_stand Take.sampling (same i),
      show (take' i).endReason = (take i).endReason from Take.eq_of_stand Take.endReason (same i),
      show (take' i).acquired = (take i).acquired from Take.eq_of_stand Take.acquired (same i),
      show (take' i).firstSeq = (take i).firstSeq from Take.eq_of_stand Take.firstSeq (same i), count]
    exact h.next i

/-- States with the same places are alike to `State.blocksPlaced`. -/
theorem blocksPlaced_of_places {s u : State} (same : u.places = s.places) (h : s.blocksPlaced) : u.blocksPlaced := by
  rw [blocksPlaced_iff] at h ⊢
  obtain ⟨partitioned, length, named, seated⟩ := h
  have owned : u.pool.owned = s.pool.owned := congrArg Places.owned same
  have free : u.pool.free = s.pool.free := congrArg Places.free same
  have filling : u.writer.filling = s.writer.filling := congrArg Places.filling same
  have entries : u.takes.entries.map Take.stand = s.takes.entries.map Take.stand := congrArg Places.entries same
  refine ⟨?_, ?_, named.congr (stand_of_places same), ?_⟩
  · unfold Pool.partitioned
    rw [owned, free]
    exact partitioned
  · rw [← List.length_map (f := Take.stand), entries, List.length_map, length]
  · rw [filling]
    exact seated.congr (fun b => congrFun (congrArg Places.block same) b) (stand_of_places same)

/-! ## Replaced entries -/

theorem map_putAt {α β : Type} (f : α → β) (l : List α) (i : Nat) (x d : α) (h : f x = f (l.getD i d)) : (putAt l i x).map f = l.map f := by
  induction l generalizing i with
  | nil => rfl
  | cons y rest ih =>
    cases i with
    | zero => simpa [putAt] using h
    | succ i => simpa [putAt] using ih i (by simpa using h)

/-- A take entry replaced by one with the same places. -/
theorem entries_putAt {s : State} {i : Nat} {t : Take} (h : t.stand = (s.takeAt i).stand) :
    (putAt s.takes.entries i t).map Take.stand = s.takes.entries.map Take.stand := map_putAt _ _ _ _ Take.reset h

theorem setTake_places {s : State} {i : Nat} {t : Take} (h : t.stand = (s.takeAt i).stand) : (s.setTake i t).places = s.places := by
  unfold State.places State.setTake
  dsimp only
  rw [entries_putAt h]

/-- A block entry replaced by one at the same place. -/
theorem block_setBlock_stand {p : Pool} {b : Nat} {e x : Block} (present : p.block b = some e) (h : x.stand = e.stand) (c : Nat) :
    ((p.setBlock b x).block c).map Block.stand = (p.block c).map Block.stand := by
  rw [Pool.block_setBlock]
  split
  · next same =>
    subst same
    rw [present]
    simp [h]
  · rfl

/-- The same of a state with that pool. -/
theorem setBlock_places {s u : State} {b : Nat} {e x : Block} (present : s.pool.block b = some e) (h : x.stand = e.stand)
    (pool : u.pool = s.pool.setBlock b x) (filling : u.writer.filling = s.writer.filling) (takes : u.takes = s.takes) : u.places = s.places := by
  unfold State.places
  rw [pool, filling, takes, Pool.setBlock_owned, funext (block_setBlock_stand present h)]
  rfl

/-- A state that differs in nothing the places show. -/
theorem places_of_parts {s u : State} (blocks : u.pool.blocks = s.pool.blocks) (free : u.pool.free = s.pool.free)
    (filling : u.writer.filling = s.writer.filling) (entries : u.takes.entries.map Take.stand = s.takes.entries.map Take.stand) :
    u.places = s.places := by
  unfold State.places Pool.owned Pool.block
  rw [blocks, free, filling, entries]

/-- Only the pool, the writer and the take table tell the places. -/
theorem update_places (s : State) {tick wraps disp alerts report pods monitor gens chain01 chain23 sampler staging seq lanes slots replay exporter render
    panel shared failPlan pending} :
    State.places ⟨tick, wraps, disp, alerts, report, pods, monitor, gens, chain01, chain23, sampler, staging, s.writer, s.pool, s.takes, seq, lanes, slots,
      replay, exporter, render, panel, shared, failPlan, pending⟩ = s.places := rfl

/-! ## Orders, records and lanes -/

@[simp] theorem complete_places (s : State) (o : OrderRef) (kind : OrderKind) (oc : Outcome) (r : List Word64) : (s.complete o kind oc r).places = s.places :=
  rfl

@[simp] theorem offer_places (s : State) (i : Nat) (t : Tick) (b : RecBody) : (s.offer i t b).places = s.places := by
  refine places_of_parts rfl rfl rfl ?_
  unfold State.offer
  extract_lets t b ok lost f
  cases ok with
  | true => rfl
  | false => exact entries_putAt rfl

@[simp] theorem insert_places (s : State) (t : Tick) (b : RecBody) : (s.insert t b).places = s.places := by
  unfold State.insert
  split
  · rfl
  · exact offer_places _ _ _ _

@[simp] theorem faultBegin_places (s : State) (t : Tick) (p : Fin 4) (src : FaultSource) (what : FaultAction × BitVec 8) :
    (s.faultBegin t p src what).places = s.places := by
  unfold State.faultBegin
  split
  · rfl
  · exact offer_places _ _ _ _

@[simp] theorem faultEnd_places (s : State) (t : Tick) (p : Fin 4) (src : FaultSource) (act : FaultAction) (m : BitVec 8) :
    (s.faultEnd t p src act m).places = s.places := by
  unfold State.faultEnd
  split
  · rfl
  · exact offer_places _ _ _ _

/-- A fold of operations that leave the places alone. -/
theorem foldl_places {α : Type} (f : State → α → State) (each : ∀ s x, (f s x).places = s.places) (l : List α) (s : State) :
    (l.foldl f s).places = s.places := by
  induction l generalizing s with
  | nil => rfl
  | cons x rest ih => exact (ih _).trans (each s x)

@[simp] theorem restateFaults_places (s : State) (what : SourceRec → Bool → Option (FaultAction × BitVec 8)) (t : Tick) :
    (s.restateFaults what t).places = s.places :=
  foldl_places _ (fun s p => foldl_places _ (fun s src => by
    unfold State.restateSource
    split
    · rfl
    · exact faultBegin_places _ _ _ _ _) _ s) _ s

@[simp] theorem countGap_places (s : State) (i : Nat) : (s.countGap i).places = s.places := setTake_places rfl

@[simp] theorem recover_places (s : State) (i : Nat) (t : Tick) : (s.recover i t).places = s.places := by
  have restated : (((State.offer { s with staging := s.staging.normal } i t s.staging.gapBody).offer i t (.anchor t)).restateFaults
      SourceRec.gapFault t).places = s.places := by
    rw [restateFaults_places, offer_places, offer_places]
    rfl
  unfold State.recover
  dsimp only
  generalize ((State.offer { s with staging := s.staging.normal } i t s.staging.gapBody).offer i t (.anchor t)).restateFaults SourceRec.gapFault t = x
    at restated ⊢
  have inGap : (if s.staging.triggerInLoss then x.setTake i (x.takeAt i).triggerInGap else x).places = s.places := by
    split
    · exact (setTake_places (t := (x.takeAt i).triggerInGap) rfl).trans restated
    · exact restated
  exact (countGap_places _ i).trans inGap

@[simp] theorem noteLane_places (s : State) (k : Fin 4) : (s.noteLane k).places = s.places := by
  unfold State.noteLane
  split
  · rfl
  · exact setTake_places rfl

@[simp] theorem insertFrame_places (s : State) (k : Fin 4) (t : Tick) (b : RecBody) : (s.insertFrame k t b).places = s.places :=
  (insert_places _ t b).trans (noteLane_places s k)

@[simp] theorem ringOffer_places (s : State) (k : Fin 4) (live : Bool) (units : List Word64) : (s.ringOffer k live units).places = s.places := by
  unfold State.ringOffer
  dsimp only
  split
  · rfl
  · split
    · split <;> rfl
    · rfl

@[simp] theorem emit_places (s : State) (k : Fin 4) (live : Bool) (t : Tick) (e : Emission) : (s.emit k live t e).places = s.places := by
  unfold State.emit
  dsimp only
  split
  · exact (insertFrame_places _ _ _ _).trans (ringOffer_places _ _ _ _)
  · exact ringOffer_places _ _ _ _

theorem laneOut_places (k : Fin 4) (live : Bool) (t : Tick) (x : State × BitVec 7) (o : LaneOut) : (State.laneOut k live t x o).1.places = x.1.places := by
  cases o with
  | opened =>
    change (if live then x.1.insertFrame k t (.frameOpen k) else x.1).places = _
    split
    · exact insertFrame_places _ _ _ _
    · rfl
  | raised e => rfl
  | emitted e => exact emit_places _ _ _ _ _

@[simp] theorem laneOuts_places (s : State) (k : Fin 4) (live : Bool) (t : Tick) (d : DecStep) : (s.laneOuts k live t d).1.places = s.places := by
  have each (l : List LaneOut) (x : State × BitVec 7) : (l.foldl (State.laneOut k live t) x).1.places = x.1.places := by
    induction l generalizing x with
    | nil => rfl
    | cons o rest ih => exact (ih _).trans (laneOut_places k live t x o)
  exact each _ _

@[simp] theorem raiseExcs_places (s : State) (k : Fin 4) (excs : BitVec 7) : (s.raiseExcs k excs).places = s.places := rfl

@[simp] theorem laneStep_places (s : State) (k : Fin 4) (live : Bool) (t : Tick) (d : DecStep) : (s.laneStep k live t d).places = s.places :=
  laneOuts_places s k live t d

@[simp] theorem laneInterval_places (s : State) (k : Fin 4) (live : Bool) (exp : Nat) (t : Tick) (levels unknown : Chans) :
    (s.laneInterval k live exp t levels unknown).places = s.places := laneStep_places _ _ _ _ _

@[simp] theorem laneGap_places (s : State) (k : Fin 4) (live : Bool) (t : Tick) : (s.laneGap k live t).places = s.places := laneStep_places _ _ _ _ _

@[simp] theorem closeInterrupted_places (s : State) (k : Fin 4) (live : Bool) (t : Tick) : (s.closeInterrupted k live t).1.places = s.places := by
  unfold State.closeInterrupted
  split
  · exact laneOuts_places _ _ _ _ _
  · rfl

@[simp] theorem detachLanes_places (s : State) (t : Tick) : (s.detachLanes t).places = s.places :=
  foldl_places _ (fun s k => by
    unfold State.detachLane
    split
    · rfl
    · exact closeInterrupted_places s k true t) _ s

@[simp] theorem liveInterval_places (s : State) (t : Tick) (levels unknown : Chans) : (s.liveInterval t levels unknown).places = s.places :=
  foldl_places _ (fun s k => by
    split
    · exact laneInterval_places _ _ _ _ _ _ _
    · rfl) _ s

@[simp] theorem liveGap_places (s : State) (t : Tick) : (s.liveGap t).places = s.places :=
  foldl_places _ (fun s k => by
    split
    · exact laneGap_places _ _ _ _
    · rfl) _ s

@[simp] theorem laneIdleExpiry_places (s : State) (k : Fin 4) : (s.laneIdleExpiry k).places = s.places := by
  unfold State.laneIdleExpiry
  split
  · exact laneStep_places _ _ _ _ _
  · rfl

@[simp] theorem writePending_places (s : State) (k : Fin 4) (fuel : Nat) : (s.writePending k fuel).places = s.places := by
  induction fuel generalizing s with
  | zero => rfl
  | succ fuel ih =>
    unfold State.writePending
    split
    · rfl
    · split
      · rfl
      · exact (ih _).trans rfl

@[simp] theorem handMark_places (s : State) (k : Fin 4) (mark : BitVec 32) : (s.handMark k mark).places = s.places := by
  unfold State.handMark
  split
  · exact writePending_places _ _ _
  · rfl

@[simp] theorem resumeHeld_places (s : State) (k : Fin 4) : (s.resumeHeld k).places = s.places := by
  unfold State.resumeHeld
  dsimp only
  split
  · rfl
  · split
    · rfl
    · exact closeInterrupted_places s k true _

/-! ## Holds and the port -/

@[simp] theorem placeHold_places (s : State) (b : Nat) (revocable : Bool) : (s.placeHold b revocable).places = s.places := by
  cases present : s.pool.block b with
  | none => exact places_of_parts (by simp [State.placeHold, present]) (by simp [State.placeHold, present]) rfl rfl
  | some e => exact setBlock_places present rfl (x := e.held revocable) (by simp [State.placeHold, present]) rfl rfl

@[simp] theorem dropHold_places (s : State) (b : Nat) (renderer : Bool) : (s.dropHold b renderer).places = s.places := by
  cases present : s.pool.block b with
  | none => exact places_of_parts (by simp [State.dropHold, present]) (by simp [State.dropHold, present]) rfl rfl
  | some e => exact setBlock_places present rfl (x := e.unheld renderer) (by simp [State.dropHold, present]) rfl rfl

@[simp] theorem dropHoldOpt_places (s : State) (h : Option Nat) (renderer : Bool) : (s.dropHoldOpt h renderer).places = s.places := by
  unfold State.dropHoldOpt
  split
  · rfl
  · exact dropHold_places _ _ _

@[simp] theorem endRight_places (s : State) (c : Client) (h : Option Nat) : (s.endRight c h).places = s.places := by
  unfold State.endRight
  split
  · rfl
  · exact dropHoldOpt_places _ _ _

@[simp] theorem portFree_places (s : State) : s.portFree.places = s.places := by
  unfold State.portFree
  split
  · rfl
  · exact dropHoldOpt_places _ _ _

@[simp] theorem grant_places (s : State) (waits : Client → Bool) : (s.grant waits).places = s.places := by
  refine places_of_parts ?_ ?_ rfl rfl
  all_goals
    unfold State.grant
    dsimp only
    split <;> rfl

@[simp] theorem syncReport_places (s : State) : s.syncReport.places = s.places := by
  unfold State.syncReport
  dsimp only
  split
  · rfl
  · split <;> rfl

@[simp] theorem finish_places (s : State) : s.finish.places = s.places := (syncReport_places _).trans (grant_places _ _)

/-! ## The renderer -/

@[simp] theorem endRender_places (s : State) (oc : Outcome) : (s.endRender oc).places = s.places := by
  unfold State.endRender
  dsimp only
  split <;> exact endRight_places _ _ _

@[simp] theorem renderFault_places (s : State) : s.renderFault.places = s.places := endRender_places _ _

@[simp] theorem writeColumns_places (s : State) (columns : List Nat) : (s.writeColumns columns).places = s.places := by
  unfold State.writeColumns
  dsimp only
  split
  · exact renderFault_places _
  · rfl

@[simp] theorem writeHeader_places (s : State) (from_ generation : Nat) (outOfSpan stale : Bool) :
    (s.writeHeader from_ generation outOfSpan stale).places = s.places := by
  unfold State.writeHeader
  dsimp only
  split
  · exact renderFault_places _
  · rfl

@[simp] theorem renderHolds_places (s : State) (b : Nat) : (s.renderHolds b).places = s.places :=
  (placeHold_places _ _ _).trans (dropHoldOpt_places _ _ _)

@[simp] theorem renderLetsGo_places (s : State) : s.renderLetsGo.places = s.places := dropHoldOpt_places _ _ _

@[simp] theorem renderToFront_places (s : State) : s.renderToFront.places = s.places := by
  unfold State.renderToFront
  dsimp only
  split
  · split
    · split
      · exact renderLetsGo_places s
      · split
        · exact renderLetsGo_places s
        · exact renderHolds_places _ _
    · exact renderLetsGo_places s
  · exact renderLetsGo_places s

@[simp] theorem renderPosition_places (s : State) : s.renderPosition.places = s.places := by
  unfold State.renderPosition
  split
  · rfl
  · exact renderToFront_places s

@[simp] theorem renderScanned_places (s : State) : s.renderScanned.places = s.places := by
  unfold State.renderScanned
  dsimp only
  split
  · exact renderToFront_places s
  · exact renderHolds_places _ _

@[simp] theorem renderNextBlock_places (s : State) (seq : Nat) : (s.renderNextBlock seq).places = s.places := by
  unfold State.renderNextBlock
  split
  · exact renderLetsGo_places s
  · exact renderHolds_places _ _

@[simp] theorem renderScanAccess_places (s : State) (e : Block) (rs : List TimedRec) : (s.renderScanAccess e rs).places = s.places := by
  unfold State.renderScanAccess
  dsimp only
  split
  · exact renderScanned_places _
  · split
    · exact renderNextBlock_places _ _
    · rfl

@[simp] theorem renderProgress_places (s : State) : s.renderProgress.places = s.places := writeColumns_places _ _

@[simp] theorem renderReadAccess_places (s : State) (e : Block) (rs : List TimedRec) : (s.renderReadAccess e rs).places = s.places := by
  unfold State.renderReadAccess
  dsimp only
  split
  · exact renderLetsGo_places _
  · rw [renderProgress_places]
    split
    · exact renderNextBlock_places _ _
    · rfl

@[simp] theorem renderAccess_places (s : State) : s.renderAccess.places = s.places := by
  unfold State.renderAccess
  split
  · rfl
  · split
    · rfl
    · dsimp only
      split
      · exact renderScanAccess_places _ _ _
      · exact renderReadAccess_places _ _ _

@[simp] theorem genStart_places (s : State) : s.genStart.places = s.places := rfl

@[simp] theorem genOpen_places (s : State) : s.genOpen.places = s.places := by
  unfold State.genOpen
  dsimp only
  split
  · exact writeHeader_places _ _ _ _ _
  · exact (renderPosition_places _).trans (writeHeader_places _ _ _ _ _)

@[simp] theorem genDone_places (s : State) (out stale : Bool) : (s.genDone out stale).places = s.places := rfl

@[simp] theorem genClose_places (s : State) : s.genClose.places = s.places := by
  unfold State.genClose
  dsimp only
  split
  · exact writeColumns_places _ _
  · split
    · exact (writeHeader_places _ _ _ _ _).trans (writeColumns_places _ _)
    · split <;> simp

@[simp] theorem renderRun_places (s : State) (fuel : Nat) : (s.renderRun fuel).places = s.places := by
  induction fuel generalizing s with
  | zero => rfl
  | succ fuel ih =>
    unfold State.renderRun
    split
    · rfl
    · split
      · rfl
      · split
        · rfl
        · exact (ih _).trans (genClose_places s)
      · split
        · rw [ih]
          split <;> simp
        · rfl

@[simp] theorem renderRecheck_places (s : State) : s.renderRecheck.places = s.places := by
  unfold State.renderRecheck
  split
  · exact (renderRun_places _ _).trans (genOpen_places _)
  · rfl

@[simp] theorem renderSeal_places (s : State) (id : Nat) : (s.renderSeal id).places = s.places := by
  unfold State.renderSeal
  split
  · exact renderRun_places _ _
  · rfl

@[simp] theorem renderFinal_places (s : State) (id : Nat) : (s.renderFinal id).places = s.places := by
  unfold State.renderFinal
  split
  · exact renderRun_places _ _
  · rfl

@[simp] theorem renderAccessed_places (s : State) : s.renderAccessed.places = s.places := (renderRun_places _ _).trans (renderAccess_places s)

@[simp] theorem renderResume_places (s : State) : s.renderResume.places = s.places := by
  unfold State.renderResume
  split
  · exact (renderRun_places _ _).trans (renderPosition_places s)
  · rfl

@[simp] theorem revoke_places (s : State) (b : Nat) : (s.revoke b).places = s.places := by
  unfold State.revoke
  split
  · rfl
  · next e present => exact setBlock_places present rfl (x := e.unheld true) rfl rfl rfl

@[simp] theorem renderAfterDrop_places (s : State) : s.renderAfterDrop.places = s.places := (renderRun_places _ _).trans (renderPosition_places s)

@[simp] theorem renderStart_places (s : State) (o : OrderRef) (p : RenderP) (i : Nat) : (s.renderStart o p i).places = s.places := by
  unfold State.renderStart
  dsimp only
  rw [renderRun_places]
  split
  · exact genOpen_places _
  · rfl

/-! ## Records of the filling block -/

theorem Take.placedBy_stand (t : Take) (body : RecBody) (seq idx : Nat) : (t.placedBy body seq idx).stand = t.stand := by
  rw [Take.placedBy_eq]
  rfl

@[simp] theorem putRecord_places (s : State) (i b : Nat) (r : CapRec) (t : Tick) : (s.putRecord i b r t).places = s.places := by
  unfold State.putRecord
  split
  · rfl
  · next e present =>
    have moved : State.places { s with pool := s.pool.setBlock b (e.append r t), writer := { s.writer with lastTime := t } } = s.places :=
      setBlock_places present rfl (x := e.append r t) rfl rfl rfl
    refine Eq.trans ?_ moved
    unfold State.places
    dsimp only
    rw [entries_putAt (Take.placedBy_stand _ _ _ _)]

@[simp] theorem writeRecord_places (s : State) (i b : Nat) (r : CapRec) (t : Tick) : (s.writeRecord i b r t).places = s.places := by
  unfold State.writeRecord
  split
  · rfl
  · split <;> simp

@[simp] theorem closingGap_places (s : State) (i : Nat) : (s.closingGap i).places = s.places := by
  unfold State.closingGap
  split
  · rfl
  · dsimp only
    repeat' split
    all_goals simp

@[simp] theorem discardStaged_places (s : State) (i : Nat) (counted : Bool) : (s.discardStaged i counted).places = s.places :=
  places_of_parts rfl rfl rfl (entries_putAt rfl)

@[simp] theorem dropWaits_places (s : State) (b : Nat) : (s.dropWaits b).places = s.places := rfl

@[simp] theorem completeArm_places (s : State) (t : Take) : (s.completeArm t).places = s.places := by
  unfold State.completeArm
  split <;> rfl

@[simp] theorem completeStops_places (s : State) (os : List OrderRef) : (s.completeStops os).places = s.places :=
  foldl_places (fun s o => s.complete o .stop .ok []) (fun s o => complete_places s o .stop .ok []) os s

/-- Clearing the revocable flags moves no block. -/
theorem unrevocable_block (p : Pool) (id b : Nat) : ((p.unrevocable id).block b).map Block.stand = (p.block b).map Block.stand := by
  unfold Pool.unrevocable Pool.block
  dsimp only
  rw [List.find?_map, Option.map_map, Option.map_map, Option.map_map]
  congr 1
  funext e
  dsimp only [Function.comp]
  split <;> rfl

theorem unrevocable_places {s u : State} {id : Nat} (pool : u.pool = s.pool.unrevocable id) (filling : u.writer.filling = s.writer.filling)
    (takes : u.takes = s.takes) : u.places = s.places := by
  have owned : (s.pool.unrevocable id).owned = s.pool.owned := by
    unfold Pool.unrevocable Pool.owned
    rw [List.map_map]
    rfl
  unfold State.places
  rw [pool, filling, takes, owned, funext (unrevocable_block s.pool id)]
  rfl

end Sys2Proof.Machine
end

section
/-! PROOFS. The block pool and the take table (spec/04): the operations that move a block or change a take's places keep every block in its place. -/

namespace Sys2Proof.Machine

/-! ## Searches -/

theorem findIdxFrom_some {α : Type} {p : α → Bool} {l : List α} {n i : Nat} (d : α) (h : findIdxFrom p l n = some i) :
    ∃ j, i = n + j ∧ j < l.length ∧ p (l.getD j d) = true := by
  induction l generalizing n with
  | nil => cases h
  | cons x rest ih =>
    unfold findIdxFrom at h
    split at h
    · next holds =>
      cases h
      exact ⟨0, rfl, Nat.zero_lt_succ _, holds⟩
    · obtain ⟨j, rfl, short, holds⟩ := ih h
      exact ⟨j + 1, by omega, Nat.succ_lt_succ short, holds⟩

theorem findIdxFrom_eq_none {α : Type} {p : α → Bool} {l : List α} {n : Nat} : findIdxFrom p l n = none ↔ ∀ x ∈ l, p x = false := by
  induction l generalizing n with
  | nil => simp [findIdxFrom]
  | cons x rest ih =>
    unfold findIdxFrom
    split
    · next holds => simp [holds]
    · next fails => simp [ih, fails]

/-- An entry of the table, or the EMPTY one that a look-up past its end answers. -/
theorem takeAt_mem (s : State) (i : Nat) : s.takeAt i ∈ s.takes.entries ∨ s.takeAt i = Take.reset := by
  unfold State.takeAt
  by_cases inTable : i < s.takes.entries.length
  · rw [List.getD_eq_getElem _ _ inTable]
    exact .inl (List.getElem_mem _)
  · exact .inr (List.getD_eq_default _ _ (by omega))

theorem capIndex_none {s : State} (h : s.capIndex = none) (i : Nat) : (s.takeAt i).capturing = false := by
  obtain listed | reset := takeAt_mem s i
  · exact findIdxFrom_eq_none.mp h _ listed
  · rw [reset]
    rfl

theorem capIndex_some {s : State} {i : Nat} (h : s.capIndex = some i) : i < s.takes.entries.length ∧ (s.takeAt i).capturing = true := by
  obtain ⟨j, rfl, short, holds⟩ := findIdxFrom_some Take.reset h
  rw [Nat.zero_add]
  exact ⟨short, holds⟩

theorem takeIndex_some {s : State} {id i : Nat} (h : s.takeIndex id = some i) :
    i < s.takes.entries.length ∧ (s.takeAt i).id = id ∧ id ≠ 0 := by
  obtain ⟨j, rfl, short, holds⟩ := findIdxFrom_some Take.reset h
  rw [Nat.zero_add]
  exact ⟨short, by simpa [State.takeAt] using holds⟩

/-- An entry that is not EMPTY is one of the table. -/
theorem inTable_of_used {s : State} {i : Nat} (used : (s.takeAt i).state ≠ .empty) : i < s.takes.entries.length := by
  by_contra beyond
  apply used
  unfold State.takeAt
  rw [List.getD_eq_default _ _ (by omega)]
  rfl

/-- The look-up of a table in which one entry is replaced. -/
theorem takeAt_update {s u : State} {i : Nat} {t : Take} (entries : u.takes.entries = putAt s.takes.entries i t) (inTable : i < s.takes.entries.length) :
    u.takeAt = Function.update s.takeAt i t := by
  funext j
  unfold State.takeAt
  rw [entries, getD_putAt]
  by_cases same : j = i
  · subst same
    rw [Function.update_self, if_pos ⟨rfl, inTable⟩]
  · rw [Function.update_of_ne same, if_neg (fun both => same both.1)]

/-! ## What the places tell -/

/-- Block `b` is sealed at the first place of the sequence of take entry `i`. -/
def State.atFront (s : State) (i b : Nat) : Prop := 0 < (s.takeAt i).sealedCount ∧ ∃ e, s.pool.block b = some e ∧ e.sealedAt (s.takeAt i) 0

theorem atFront_of_places {s u : State} (same : u.places = s.places) {i b : Nat} (front : s.atFront i b) : u.atFront i b := by
  obtain ⟨place, e, present, sealedAt⟩ := front
  have stand := stand_of_places same i
  have blocks : (u.pool.block b).map Block.stand = (s.pool.block b).map Block.stand := congrFun (congrArg Places.block same) b
  rw [present, Option.map_some, Option.map_eq_some_iff] at blocks
  obtain ⟨d, there, alike⟩ := blocks
  refine ⟨(Take.eq_of_stand Take.sealedCount stand).symm ▸ place, d, there, ?_⟩
  change d.stand.sealedAt (u.takeAt i).stand 0
  rw [alike, stand]
  exact sealedAt

section
variable {s : State} (h : s.blocksPlaced)
include h

theorem State.blocksPlaced.named : Named s.takeAt := ((blocksPlaced_iff s).mp h).2.2.1

theorem State.blocksPlaced.seated : Seated s.pool.block s.writer.filling s.takeAt := ((blocksPlaced_iff s).mp h).2.2.2

/-- What an operation of the part leaves is in place if its single takes and blocks are. -/
theorem State.blocksPlaced.of_keeps {u : State} (kept : Keeps s u) (named : Named u.takeAt) (seated : Seated u.pool.block u.writer.filling u.takeAt) :
    u.blocksPlaced := by
  obtain ⟨partitioned, length, -, -⟩ := (blocksPlaced_iff s).mp h
  exact (blocksPlaced_iff u).mpr ⟨kept.pool partitioned, kept.takes.trans length, named, seated⟩

theorem State.blocksPlaced.nodup : (s.pool.owned ++ s.pool.free).Nodup := h.1.nodup_iff.mpr List.nodup_range

theorem block_lt {b : Nat} {e : Block} (present : s.pool.block b = some e) : b < 4096 := by
  have owned := Pool.owned_of_block _ _ _ present
  have listed := h.1.mem_iff.mp (List.mem_append_left _ owned)
  simpa [Config.blockCount] using listed

theorem State.blocksPlaced.small (i : Nat) : (s.takeAt i).sealedCount ≤ 4096 := h.seated.sealedCount_le (fun _ _ => block_lt h) i

/-- A block on the free list has no entry (R58). -/
theorem block_of_free {b : Nat} (free : b ∈ s.pool.free) : s.pool.block b = none := by
  by_contra present
  obtain ⟨e, present⟩ := Option.ne_none_iff_exists'.mp present
  exact (List.disjoint_of_nodup_append h.nodup) (Pool.owned_of_block _ _ _ present) free

/-- The entry that a search by take and number finds is the one its index names. -/
theorem block_of_find {id seq b : Nat} (found : s.pool.find id seq = some b) :
    ∃ e, s.pool.block b = some e ∧ e.takeId = id ∧ e.seqNo = seq := by
  obtain ⟨⟨c, e⟩, first, rfl⟩ := Option.map_eq_some_iff.mp found
  have holds := List.find?_some first
  have listed := List.mem_of_find?_eq_some first
  simp only [Bool.and_eq_true, beq_iff_eq] at holds
  refine ⟨e, ?_, holds⟩
  have keys : (s.pool.blocks.map Prod.fst).Nodup := h.nodup.of_append_left
  unfold Pool.block
  cases look : s.pool.blocks.find? (fun x => x.1 == c) with
  | none => exact absurd (List.find?_eq_none.mp look _ listed) (by simp)
  | some x =>
    have key : x.1 = c := by simpa using List.find?_some look
    have same : x = (c, e) := List.inj_on_of_nodup_map keys (List.mem_of_find?_eq_some look) listed key
    rw [same]
    rfl

/-- The front block of a take is sealed at the first place of its sequence (R60). -/
theorem atFront_of_frontBlock {i b : Nat} (front : s.frontBlock i = some b) : s.atFront i b := by
  unfold State.frontBlock at front
  split at front
  · cases front
  · next some =>
    have place : 0 < (s.takeAt i).sealedCount := Nat.pos_of_ne_zero some
    have small := h.small i
    have first := h.named.first i
    obtain ⟨e, present, id, seq⟩ := block_of_find h front
    refine ⟨place, e, present, ?_, id, by omega⟩
    by_contra unsealed
    obtain ⟨d, j, there, -, id', seq', -⟩ := h.seated.fills b ((h.seated.unsealed b e present).mp (by simpa using unsealed))
    cases there.symm.trans present
    have same : i = j := h.named.ids i j (id.symm.trans id') (h.named.id_of_place place)
    subst same
    omega

/-- A take that holds a filling block is the capturing one. -/
theorem fillsIn_of_filling {i b : Nat} (capturing : (s.takeAt i).capturing = true) (filling : s.writer.filling = some b) :
    ∃ e, s.pool.block b = some e ∧ e.fillsIn (s.takeAt i) := by
  obtain ⟨e, j, present, fillsIn⟩ := h.seated.fills b filling
  have same : j = i := h.named.alone j i (capturing_of_sampling fillsIn.1) capturing
  subst same
  exact ⟨e, present, fillsIn⟩

/-- While a take waits for its pods no block is filling. -/
theorem filling_of_waiting {i : Nat} (waits : (s.takeAt i).state = .waiting) : s.writer.filling = none := by
  by_contra filling
  obtain ⟨b, filling⟩ := Option.ne_none_iff_exists'.mp filling
  obtain ⟨-, -, sampling, -⟩ := fillsIn_of_filling h (i := i) (by simp [Take.capturing, waits]) filling
  exact not_waiting_of_sampling sampling waits

end

/-! ## Take entries replaced -/

/-- An entry in use that goes on in use with the same blocks. -/
theorem retake_placed {s u : State} (h : s.blocksPlaced) {i : Nat} {t : Take} (pool : u.pool = s.pool) (filling : u.writer.filling = s.writer.filling)
    (entries : u.takes.entries = putAt s.takes.entries i t) (used : (s.takeAt i).state ≠ .empty) (inUse : t.state ≠ .empty)
    (waits : t.state = .waiting → (s.takeAt i).state = .waiting)
    (same : t.id = (s.takeAt i).id ∧ t.firstSeq = (s.takeAt i).firstSeq ∧ t.sealedCount = (s.takeAt i).sealedCount ∧ t.acquired = (s.takeAt i).acquired)
    (captures : t.capturing = true → (s.takeAt i).capturing = true)
    (fills : (s.takeAt i).sampling = true → s.writer.filling ≠ none → t.sampling = true)
    (next : t.sampling = true → t.endReason = none → s.writer.filling = none →
      (s.takeAt i).acquired = ((s.takeAt i).firstSeq + (s.takeAt i).sealedCount) % 2 ^ 32) :
    u.blocksPlaced := by
  obtain ⟨id, first, count, acquired⟩ := same
  have look : u.takeAt = Function.update s.takeAt i t := takeAt_update entries (inTable_of_used used)
  rw [blocksPlaced_iff, look, pool, filling, entries, putAt_length]
  refine ⟨h.1, ((blocksPlaced_iff s).mp h).2.1, ?_, ?_⟩
  · exact h.named.change id used inUse captures (fun waiting => by rw [first, count, acquired]; exact h.named.fresh i (waits waiting))
      (first ▸ h.named.first i)
  · refine h.seated.retake count (fun _ => ⟨id, first⟩) (fun e fillsIn filling => ?_) (fun sampling goesOn notFilling => ?_)
    · obtain ⟨sampling, takeId, seq, number⟩ := fillsIn
      exact ⟨fills sampling filling, takeId.trans id.symm, by rw [first, count, seq], acquired.trans number⟩
    · rw [acquired, first, count]
      exact next sampling goesOn notFilling

/-- A RELEASING take without a block is EMPTY (R83). -/
theorem emptyIfDone_placed {s : State} (h : s.blocksPlaced) (i : Nat) : (s.emptyIfDone i).blocksPlaced := by
  unfold State.emptyIfDone
  split
  · next done =>
    obtain ⟨releasing, none⟩ := done
    have used : (s.takeAt i).state ≠ .empty := by simp [releasing]
    have look : (s.setTake i Take.reset).takeAt = Function.update s.takeAt i Take.reset := takeAt_update rfl (inTable_of_used used)
    refine h.of_keeps (setTake_keeps s i _ (Keeps.refl s)) ?_ ?_
    · rw [look]
      exact h.named.update (by decide) (fun _ => rfl) nofun (by decide) (fun _ _ _ => rfl) (fun _ _ captures => absurd captures (by decide))
    · rw [look]
      refine h.seated.retake none.symm (fun some => absurd none some) (fun e fillsIn _ => ?_) (fun sampling => absurd sampling (by decide))
      have sampling := fillsIn.1
      simp [Take.sampling, releasing] at sampling
  · exact h

/-! ## Blocks acquired, sealed and freed -/

theorem acquire_placed {s : State} (h : s.blocksPlaced) {i : Nat} (notFilling : s.writer.filling = none) (sampling : (s.takeAt i).sampling = true)
    (number : (s.takeAt i).acquired = ((s.takeAt i).firstSeq + (s.takeAt i).sealedCount) % 2 ^ 32) : (s.acquire i).blocksPlaced := by
  have kept := acquire_keeps s i (Keeps.refl s)
  unfold State.acquire at kept ⊢
  split at kept
  · exact h
  · next b rest free =>
    have used := Take.not_empty_of_capturing (capturing_of_sampling sampling)
    have none := block_of_free h (b := b) (by simp [free])
    have look : (s.acquireBlock i b rest).takeAt = Function.update s.takeAt i { s.takeAt i with acquired := ((s.takeAt i).acquired + 1) % 2 ^ 32 } :=
      takeAt_update rfl (inTable_of_used used)
    have blocks : (s.acquireBlock i b rest).pool.block =
        Function.update s.pool.block b (some (acquiredBlock (s.takeAt i) (s.pods.map Pod.applyStaged))) := by
      funext c
      by_cases same : c = b
      · subst same
        rw [Function.update_self, block_acquireBlock_same none]
      · rw [Function.update_of_ne same, block_acquireBlock_ne _ same]
    refine h.of_keeps kept ?_ ?_
    · rw [look]
      exact h.named.change rfl used used id (fun waits => absurd waits (not_waiting_of_sampling sampling)) (h.named.first i)
    · rw [look, blocks]
      have seated := h.seated
      rw [notFilling] at seated
      exact seated.acquire none sampling number rfl rfl rfl

/-- The next block of a take that goes on takes the number behind its sequence (R59). -/
theorem acquire_next_placed {s : State} (h : s.blocksPlaced) {i : Nat} (notFilling : s.writer.filling = none) (sampling : (s.takeAt i).sampling = true)
    (goesOn : (s.takeAt i).endReason = none) : (s.acquire i).blocksPlaced :=
  acquire_placed h notFilling sampling (h.seated.next i sampling goesOn notFilling)

theorem sealBlock_placed {s : State} (h : s.blocksPlaced) {i b : Nat} (capturing : (s.takeAt i).capturing = true) (filling : s.writer.filling = some b) :
    (s.sealBlock i b).blocksPlaced := by
  obtain ⟨e, present, fillsIn⟩ := fillsIn_of_filling h capturing filling
  have used := Take.not_empty_of_capturing capturing
  have look : (s.sealBlock i b).takeAt = Function.update s.takeAt i { s.takeAt i with sealedCount := (s.takeAt i).sealedCount + 1 } :=
    takeAt_update rfl (inTable_of_used used)
  have blocks : (s.sealBlock i b).pool.block = Function.update s.pool.block b (some { e with sealedIn := true }) := by
    have pool : (s.sealBlock i b).pool = s.pool.setBlock b { e with sealedIn := true } := by simp [State.sealBlock, present]
    funext c
    rw [pool]
    by_cases same : c = b
    · subst same
      rw [Function.update_self, Pool.block_setBlock_same present]
    · rw [Function.update_of_ne same, Pool.block_setBlock_ne _ same]
  refine h.of_keeps (sealBlock_keeps s i b (Keeps.refl s)) ?_ ?_
  · rw [look]
    exact h.named.change rfl used used id (fun waits => absurd waits (not_waiting_of_sampling fillsIn.1)) (h.named.first i)
  · rw [look, blocks]
    have seated := h.seated
    rw [filling] at seated
    exact seated.seal h.named (h.small i) present fillsIn

/-- The entries of the pool without one block. -/
theorem block_freeBlock (p : Pool) (b : Nat) : (p.freeBlock b).block = Function.update p.block b none := by
  funext c
  rw [Pool.block_freeBlock]
  by_cases same : c = b
  · subst same
    rw [Function.update_self, if_pos rfl]
  · rw [Function.update_of_ne same, if_neg same]

theorem freeFilling_placed {s : State} (h : s.blocksPlaced) {i b : Nat} (capturing : (s.takeAt i).capturing = true)
    (ending : (s.takeAt i).endReason ≠ none) (filling : s.writer.filling = some b) : (s.freeFilling b).blocksPlaced := by
  obtain ⟨e, present, -⟩ := fillsIn_of_filling h capturing filling
  refine h.of_keeps (freeFilling_keeps s b (Pool.owned_of_block _ _ _ present) (Keeps.refl s)) h.named ?_
  change Seated (s.pool.freeBlock b).block none s.takeAt
  rw [block_freeBlock]
  have seated := h.seated
  rw [filling] at seated
  refine seated.freeFilling fun j samples => ?_
  rwa [h.named.alone j i (capturing_of_sampling samples) capturing]

theorem freeFront_placed {s : State} (h : s.blocksPlaced) {i b : Nat} (front : s.atFront i b) : (s.freeFront i b).blocksPlaced := by
  obtain ⟨place, e, present, sealedAt⟩ := front
  have used : (s.takeAt i).state ≠ .empty := fun empty => h.named.id_of_place place ((h.named.named i).mp empty)
  have look : (s.freeFront i b).takeAt = Function.update s.takeAt i (s.takeAt i).withoutFront := takeAt_update rfl (inTable_of_used used)
  refine h.of_keeps (freeFront_keeps s i b (Pool.owned_of_block _ _ _ present) (Keeps.refl s)) ?_ ?_
  · rw [look]
    refine h.named.change rfl used used id (fun waits => ?_) (Nat.mod_lt _ (by decide))
    have none := (h.named.fresh i waits).2.1
    omega
  · rw [look]
    change Seated (s.pool.freeBlock b).block s.writer.filling _
    rw [block_freeBlock]
    exact h.seated.freeFront h.named (h.small i) place present sealedAt

/-! ## What drops and seals leave of a take -/

/-- The filling block stands, and every take goes on as it was: what a drop leaves alone. -/
structure TakesGoOn (s u : State) : Prop where
  filling : u.writer.filling = s.writer.filling
  state : ∀ j, (u.takeAt j).state = (s.takeAt j).state
  endReason : ∀ j, (u.takeAt j).endReason = (s.takeAt j).endReason

theorem TakesGoOn.of_places {s u : State} (same : u.places = s.places) : TakesGoOn s u :=
  ⟨filling_of_places same, state_of_places same, endReason_of_places same⟩

theorem TakesGoOn.trans {s u v : State} (h : TakesGoOn s u) (g : TakesGoOn u v) : TakesGoOn s v :=
  ⟨g.filling.trans h.filling, fun j => (g.state j).trans (h.state j), fun j => (g.endReason j).trans (h.endReason j)⟩

theorem TakesGoOn.sampling {s u : State} (h : TakesGoOn s u) (i : Nat) : (u.takeAt i).sampling = (s.takeAt i).sampling := by
  unfold Take.sampling
  rw [h.state]

theorem TakesGoOn.capturing {s u : State} (h : TakesGoOn s u) (i : Nat) : (u.takeAt i).capturing = (s.takeAt i).capturing := by
  unfold Take.capturing
  rw [h.state]

/-- What one replaced entry leaves as it was is as it was in the table. -/
theorem takeAt_putAt_same {β : Sort _} {s u : State} {i : Nat} {t : Take} (entries : u.takes.entries = putAt s.takes.entries i t) (f : Take → β)
    (same : f t = f (s.takeAt i)) (j : Nat) : f (u.takeAt j) = f (s.takeAt j) := by
  unfold State.takeAt at *
  rw [entries, getD_putAt]
  split
  · next both => rw [same, both.1]
  · rfl

theorem freeFront_takesGoOn (s : State) (i b : Nat) : TakesGoOn s (s.freeFront i b) :=
  ⟨rfl, takeAt_putAt_same (i := i) (t := (s.takeAt i).withoutFront) rfl Take.state rfl,
    takeAt_putAt_same (i := i) (t := (s.takeAt i).withoutFront) rfl Take.endReason rfl⟩

theorem dropBlock_takesGoOn (s : State) (i b : Nat) : TakesGoOn s (s.dropBlock i b) := by
  unfold State.dropBlock
  split
  · exact ((TakesGoOn.of_places (revoke_places s b)).trans (freeFront_takesGoOn _ i b)).trans (.of_places (renderAfterDrop_places _))
  · exact freeFront_takesGoOn s i b

theorem dropFront_takesGoOn (s : State) (i : Nat) : TakesGoOn s (s.dropFront i) := by
  unfold State.dropFront
  split
  · exact .of_places rfl
  · split
    · exact .of_places rfl
    · exact dropBlock_takesGoOn _ _ _

theorem ringCheck_takesGoOn (s : State) (i : Nat) : TakesGoOn s (s.ringCheck i) := by
  unfold State.ringCheck
  split
  · exact dropFront_takesGoOn s i
  · exact .of_places rfl

/-! ## Drops (R71) -/

/-- A block that can be freed is the front block of its take (R83). -/
theorem frontBlock_of_freeable {s : State} {i b : Nat} (h : s.freeable i = some b) :
    (s.takeAt i).state = .releasing ∧ s.frontBlock i = some b := by
  unfold State.freeable at h
  split at h
  · cases h
  · next releasing =>
    split at h
    · cases h
    · next c front =>
      split at h
      · cases h
      · split at h
        · cases h
          exact ⟨not_not.mp releasing, front⟩
        · cases h

theorem dropBlock_placed {s : State} (h : s.blocksPlaced) {i b : Nat} (front : s.atFront i b) : (s.dropBlock i b).blocksPlaced := by
  unfold State.dropBlock
  split
  · have revoked := revoke_places s b
    exact blocksPlaced_of_places (renderAfterDrop_places _) (freeFront_placed (blocksPlaced_of_places revoked h) (atFront_of_places revoked front))
  · exact freeFront_placed h front

theorem dropFront_placed {s : State} (h : s.blocksPlaced) (i : Nat) : (s.dropFront i).blocksPlaced := by
  unfold State.dropFront
  split
  · exact h
  · next b front =>
    split
    · exact h
    · exact dropBlock_placed h (atFront_of_frontBlock h front)

theorem ringCheck_placed {s : State} (h : s.blocksPlaced) (i : Nat) : (s.ringCheck i).blocksPlaced := by
  unfold State.ringCheck
  split
  · exact dropFront_placed h i
  · exact h

theorem dropWaited_placed {s : State} (h : s.blocksPlaced) (b : Nat) : (s.dropWaited b).blocksPlaced := by
  unfold State.dropWaited
  split
  · exact h
  · split
    · exact h
    · split
      · next front => exact dropBlock_placed h (atFront_of_frontBlock h front)
      · exact h

/-! ## The ending of a take (R77, R78) -/

theorem settleLast_placed {s : State} (h : s.blocksPlaced) {i : Nat} (capturing : (s.takeAt i).capturing = true) (ending : (s.takeAt i).endReason ≠ none) :
    (s.settleLast i).blocksPlaced := by
  unfold State.settleLast
  split
  · exact h
  · next b filling =>
    split
    · exact h
    · split
      · exact freeFilling_placed h capturing ending filling
      · have settled := blocksPlaced_of_places (renderSeal_places _ (s.takeAt i).id) (sealBlock_placed h capturing filling)
        dsimp only
        split
        · exact ringCheck_placed settled i
        · exact settled

theorem settleIfDrained_placed {s : State} (h : s.blocksPlaced) {i : Nat} (capturing : (s.takeAt i).capturing = true)
    (ending : (s.takeAt i).endReason ≠ none) : (s.settleIfDrained i).blocksPlaced := by
  unfold State.settleIfDrained
  split
  · have same : ((s.closingGap i).discardStaged i true).places = s.places := by simp
    exact settleLast_placed (blocksPlaced_of_places same h) (capturing_of_places same i ▸ capturing) (endReason_of_places same i ▸ ending)
  · exact h

/-- The lanes leave the take, and the sequencer its claim, before the take's entry is written (R77). -/
def State.sharersLeave (s : State) (i : Nat) : State := State.detachLanes { s with seq := s.seq.atTakeEnd (s.takeAt i).id } (s.endingTime i)

theorem sharersLeave_places (s : State) (i : Nat) : (s.sharersLeave i).places = s.places := detachLanes_places _ _

theorem takeEnding_entries (s : State) (i : Nat) (reason : EndReason) :
    (s.takeEnding i reason).takes.entries = putAt (s.sharersLeave i).takes.entries i
      { (s.sharersLeave i).takeAt i with
        endReason := some reason, endTime := s.endingTime i, openPods := (s.sharersLeave i).openFaultPods } := rfl

theorem takeEnding_pool (s : State) (i : Nat) (reason : EndReason) : (s.takeEnding i reason).pool = (s.sharersLeave i).pool := rfl

theorem takeEnding_writer (s : State) (i : Nat) (reason : EndReason) : (s.takeEnding i reason).writer = (s.sharersLeave i).writer := rfl

theorem takeEnding_state (s : State) (i : Nat) (reason : EndReason) (j : Nat) : ((s.takeEnding i reason).takeAt j).state = (s.takeAt j).state :=
  (takeAt_putAt_same (takeEnding_entries s i reason) Take.state rfl j).trans (state_of_places (sharersLeave_places s i) j)

theorem takeEnding_endReason {s : State} {i : Nat} (used : (s.takeAt i).state ≠ .empty) (reason : EndReason) :
    ((s.takeEnding i reason).takeAt i).endReason = some reason := by
  have used' : ((s.sharersLeave i).takeAt i).state ≠ .empty := state_of_places (sharersLeave_places s i) i ▸ used
  rw [takeAt_update (takeEnding_entries s i reason) (inTable_of_used used'), Function.update_self]

theorem takeEnding_filling (s : State) (i : Nat) (reason : EndReason) : (s.takeEnding i reason).writer.filling = s.writer.filling := by
  rw [takeEnding_writer]
  exact filling_of_places (sharersLeave_places s i)

/-- A take entry in use gets an end reason. -/
theorem reasoned_placed {s u : State} (h : s.blocksPlaced) {i : Nat} {reason : EndReason} {at_ : Tick} {pods : BitVec 4} (pool : u.pool = s.pool)
    (filling : u.writer.filling = s.writer.filling)
    (entries : u.takes.entries = putAt s.takes.entries i { s.takeAt i with endReason := some reason, endTime := at_, openPods := pods })
    (used : (s.takeAt i).state ≠ .empty) : u.blocksPlaced :=
  retake_placed (t := { s.takeAt i with endReason := some reason, endTime := at_, openPods := pods }) h pool filling entries used used id
    ⟨rfl, rfl, rfl, rfl⟩ id (fun sampling _ => sampling) (fun _ goesOn => nomatch goesOn)

theorem takeEnding_placed {s : State} (h : s.blocksPlaced) {i : Nat} (used : (s.takeAt i).state ≠ .empty) (reason : EndReason) :
    (s.takeEnding i reason).blocksPlaced := by
  have left := sharersLeave_places s i
  exact reasoned_placed (blocksPlaced_of_places left h) (takeEnding_pool s i reason) (congrArg Writer.filling (takeEnding_writer s i reason))
    (takeEnding_entries s i reason) (state_of_places left i ▸ used)

theorem endedEntry_eq (s : State) (i : Nat) :
    ∃ trigger, s.endedEntry i = { s.takeAt i with trigger := trigger, state := .ended, armOrder := none, stops := [] } := ⟨_, rfl⟩

/-- A take without a filling block enters ENDED (R78). -/
theorem enterEnded_placed {s : State} (h : s.blocksPlaced) {i : Nat} (used : (s.takeAt i).state ≠ .empty) (notFilling : s.writer.filling = none) :
    (s.enterEnded i).blocksPlaced := by
  have entry : (s.setTake i (s.endedEntry i)).blocksPlaced := by
    obtain ⟨trigger, ended⟩ := endedEntry_eq s i
    rw [ended]
    exact retake_placed (t := { s.takeAt i with trigger := trigger, state := .ended, armOrder := none, stops := [] }) h rfl rfl rfl used nofun nofun
      ⟨rfl, rfl, rfl, rfl⟩ nofun (fun _ filling => absurd notFilling filling) nofun
  unfold State.enterEnded
  dsimp only
  refine blocksPlaced_of_places (renderFinal_places _ _) (blocksPlaced_of_places (s := s.setTake i (s.endedEntry i)) ?_ entry)
  refine Eq.trans (completeStops_places _ _) (Eq.trans (completeArm_places _ _) ?_)
  exact unrevocable_places rfl rfl rfl

theorem endTake_placed {s : State} (h : s.blocksPlaced) (i : Nat) (reason : EndReason) : (s.endTake i reason).blocksPlaced := by
  unfold State.endTake
  split
  · exact h
  · next goesOn =>
    have capturing : (s.takeAt i).capturing = true := by
      by_contra not
      simp [not] at goesOn
    have used := Take.not_empty_of_capturing capturing
    have ending := takeEnding_placed h used reason
    have capturing' : ((s.takeEnding i reason).takeAt i).capturing = true := by
      unfold Take.capturing at *
      rwa [takeEnding_state]
    have reasoned : ((s.takeEnding i reason).takeAt i).endReason ≠ none := by simp [takeEnding_endReason used]
    dsimp only
    split
    · next waits =>
      refine enterEnded_placed ending ?_ ((takeEnding_filling s i reason).trans (filling_of_waiting h waits))
      rwa [takeEnding_state]
    · cases reason with
      | filled => exact blocksPlaced_of_places (discardStaged_places _ _ _) ending
      | short => exact blocksPlaced_of_places (discardStaged_places _ _ _) ending
      | stopped => exact settleIfDrained_placed ending capturing' reasoned
      | faulted => exact settleIfDrained_placed ending capturing' reasoned

theorem endIfReady_placed {s : State} (h : s.blocksPlaced) : s.endIfReady.blocksPlaced := by
  unfold State.endIfReady
  split
  · exact h
  · next i captures =>
    split
    · next ready =>
      refine enterEnded_placed h (Take.not_empty_of_capturing (capIndex_some captures).2) ?_
      unfold State.readyToEnd at ready
      simp only [Bool.and_eq_true, Option.isNone_iff_eq_none] at ready
      exact ready.1.2
    · exact h

/-! ## The capture writer (R49, R60, R71, R72, R76) -/

theorem afterSealPretrig_placed {s : State} (h : s.blocksPlaced) {i : Nat} (sampling : (s.takeAt i).sampling = true)
    (goesOn : (s.takeAt i).endReason = none) (notFilling : s.writer.filling = none) : (s.afterSealPretrig i).blocksPlaced := by
  have checked := ringCheck_placed h i
  have kept := ringCheck_takesGoOn s i
  unfold State.afterSealPretrig
  dsimp only
  split
  · have kept := kept.trans (dropFront_takesGoOn (s.ringCheck i) i)
    exact acquire_next_placed (dropFront_placed checked i) (kept.filling.trans notFilling) ((kept.sampling i).trans sampling)
      ((kept.endReason i).trans goesOn)
  · exact acquire_next_placed checked (kept.filling.trans notFilling) ((kept.sampling i).trans sampling) ((kept.endReason i).trans goesOn)

theorem afterSealPosttrig_placed {s : State} (h : s.blocksPlaced) {i : Nat} (sampling : (s.takeAt i).sampling = true)
    (goesOn : (s.takeAt i).endReason = none) (notFilling : s.writer.filling = none) : (s.afterSealPosttrig i).blocksPlaced := by
  unfold State.afterSealPosttrig
  split
  · exact endTake_placed h i _
  · split
    · exact endTake_placed h i _
    · exact acquire_next_placed h notFilling sampling goesOn

theorem sealFull_placed {s : State} (h : s.blocksPlaced) {i b : Nat} (capturing : (s.takeAt i).capturing = true) (goesOn : (s.takeAt i).endReason = none)
    (filling : s.writer.filling = some b) : (s.sealFull i b).blocksPlaced := by
  obtain ⟨-, -, sampling, -⟩ := fillsIn_of_filling h capturing filling
  have rendered := renderSeal_places (s.sealBlock i b) (s.takeAt i).id
  have placed := blocksPlaced_of_places rendered (sealBlock_placed h capturing filling)
  have sealing : TakesGoOn { s with writer := { s.writer with filling := none } } (s.sealBlock i b) :=
    ⟨rfl, takeAt_putAt_same (i := i) (t := { s.takeAt i with sealedCount := (s.takeAt i).sealedCount + 1 }) rfl Take.state rfl,
      takeAt_putAt_same (i := i) (t := { s.takeAt i with sealedCount := (s.takeAt i).sealedCount + 1 }) rfl Take.endReason rfl⟩
  have kept := sealing.trans (.of_places rendered)
  have sampling' := (kept.sampling i).trans sampling
  have goesOn' := (kept.endReason i).trans goesOn
  unfold State.sealFull
  dsimp only
  split
  · exact afterSealPretrig_placed placed sampling' goesOn' kept.filling
  · exact afterSealPosttrig_placed placed sampling' goesOn' kept.filling

theorem drainOne_placed {s : State} (h : s.blocksPlaced) {i b : Nat} (capturing : (s.takeAt i).capturing = true) (filling : s.writer.filling = some b)
    (e : Staged) : (s.drainOne i b e).blocksPlaced := by
  have written : (State.writeRecord (s.withStaging s.staging.drained) i b e.record e.time).places = s.places := writeRecord_places _ _ _ _ _
  unfold State.drainOne
  dsimp only
  generalize State.writeRecord (s.withStaging s.staging.drained) i b e.record e.time = s1 at written ⊢
  have placed := blocksPlaced_of_places written h
  split
  · next ending =>
    refine settleIfDrained_placed placed (capturing_of_places written i ▸ capturing) ?_
    rw [endReason_of_places written]
    exact Option.isSome_iff_ne_none.mp ending
  · next goesOn =>
    have recovered : (if s1.staging.overflow && s1.staging.fill ≤ Config.recoveryFill then s1.recover i s1.intervalTime else s1).places = s.places := by
      split
      · exact (recover_places _ _ _).trans written
      · exact written
    generalize (if s1.staging.overflow && s1.staging.fill ≤ Config.recoveryFill then s1.recover i s1.intervalTime else s1) = s2 at recovered ⊢
    split
    · exact sealFull_placed (blocksPlaced_of_places recovered h) (capturing_of_places recovered i ▸ capturing)
        (endReason_of_places recovered i ▸ by simpa using goesOn) ((filling_of_places recovered).trans filling)
    · exact blocksPlaced_of_places recovered h

theorem writerAccess_placed {s : State} (h : s.blocksPlaced) : s.writerAccess.blocksPlaced := by
  unfold State.writerAccess
  split
  · next i b e rest captures filling staged => exact drainOne_placed h (capIndex_some captures).2 filling e
  · exact h

end Sys2Proof.Machine
end

section
/-! PROOFS. The take table (spec/04, R66 to R75): the id of a new take, ARM, the entry to PRETRIG and the trigger keep every block in its place. -/

namespace Sys2Proof.Machine

/-! ## The next free id (R66) -/

theorem idsFrom_nodup (n : Nat) : (idsFrom n).Nodup := by
  unfold idsFrom
  refine List.Nodup.map_on (fun j hj k hk same => ?_) List.nodup_range
  rw [List.mem_range] at hj hk
  omega

/-- Eight entries hold at most eight of the 255 ids, so that one is free. -/
theorem exists_free_id (t : TakeTable) (length : t.entries.length = 8) :
    ∃ id, (idsFrom t.nextId).find? (fun n => !t.entries.any (fun e => e.id == n)) = some id := by
  rw [← Option.isSome_iff_exists, List.find?_isSome]
  by_contra none
  have held : idsFrom t.nextId ⊆ t.entries.map (fun e => e.id) := by
    intro n listed
    by_contra free
    refine none ⟨n, listed, ?_⟩
    simpa using free
  have few := ((idsFrom_nodup t.nextId).subperm held).length_le
  simp [idsFrom, length] at few

/-- An accepted ARM takes the first id from the next one on that no entry holds (R66). -/
theorem freshId_fresh {s : State} (length : s.takes.entries.length = 8) : freshTakeId s s.takes.freshId := by
  obtain ⟨id, first⟩ := exists_free_id s.takes length
  have fresh : s.takes.freshId = id := by simp [TakeTable.freshId, first]
  rw [fresh]
  obtain ⟨free, j, short, position, before⟩ := List.find?_eq_some_iff_getElem.mp first
  have short' : j < 255 := by simpa [idsFrom] using short
  refine ⟨by simpa using free, j, short', by simpa [idsFrom] using position.symm, fun h less => ?_⟩
  have taken := before h less
  simpa [idsFrom] using taken

theorem freshTakeId_pos {s : State} {id : Nat} (h : freshTakeId s id) : id ≠ 0 := by
  obtain ⟨-, j, -, position, -⟩ := h
  omega

/-! ## ARM (R68) -/

/-- A new take waits in an entry that was EMPTY, under an id of its own (R66, R68). -/
theorem armed_placed {s : State} (h : s.blocksPlaced) (o : OrderRef) (p : ArmP) {i : Nat} (noTake : s.capIndex = none)
    (empty : findIdxFrom (fun t => t.state == .empty) s.takes.entries 0 = some i) : (s.armed o p i).blocksPlaced := by
  obtain ⟨j, rfl, inTable, isEmpty⟩ := findIdxFrom_some Take.reset empty
  rw [Nat.zero_add] at *
  replace isEmpty : (s.takeAt j).state = .empty := by simpa [State.takeAt] using isEmpty
  have fresh := freshId_fresh ((blocksPlaced_iff s).mp h).2.1
  have nonzero := freshTakeId_pos fresh
  have look : (s.armed o p j).takeAt = Function.update s.takeAt j (armEntry o p s.takes.freshId) := takeAt_update rfl inTable
  have none : (s.takeAt j).sealedCount = 0 := h.named.emptied j isEmpty
  refine h.of_keeps ((Keeps.refl s).upd rfl rfl rfl id id (putAt_length _ _ _) rfl rfl rfl id) ?_ ?_
  · rw [look]
    refine h.named.update ⟨nofun, fun zero => absurd zero nonzero⟩ nofun (fun _ => ⟨rfl, rfl, rfl⟩) (Nat.zero_lt_succ _) (fun k _ same => ?_)
      (fun k _ _ => capIndex_none noTake k)
    obtain listed | unused := takeAt_mem s k
    · exact absurd same.symm (fresh.1 _ listed)
    · exact same.trans (by rw [unused]; rfl)
  · rw [look]
    refine h.seated.retake none.symm (fun some => absurd none some) (fun e fillsIn _ => ?_) nofun
    have sampling := fillsIn.1
    simp [Take.sampling, isEmpty] at sampling

/-! ## The entry to PRETRIG (R70) -/

theorem beginRun_places (s : State) (t : Take) : (s.beginRun t).places = s.places := by
  unfold State.beginRun
  split <;> rfl

/-- A waiting take starts, with its first block if one is free (R59, R70). -/
theorem firstBlock_placed {s : State} (h : s.blocksPlaced) {i : Nat} (waits : (s.takeAt i).state = .waiting) :
    ((s.setTake i { s.takeAt i with state := .pretrig }).acquire i).blocksPlaced := by
  have used : (s.takeAt i).state ≠ .empty := by simp [waits]
  obtain ⟨first, none, acquired⟩ := h.named.fresh i waits
  have number : (s.takeAt i).acquired = ((s.takeAt i).firstSeq + (s.takeAt i).sealedCount) % 2 ^ 32 := by simp [first, none, acquired]
  have started : (s.setTake i { s.takeAt i with state := .pretrig }).blocksPlaced :=
    retake_placed (t := { s.takeAt i with state := .pretrig }) h rfl rfl rfl used nofun nofun ⟨rfl, rfl, rfl, rfl⟩
      (fun _ => by simp [Take.capturing, waits]) (fun _ _ => rfl) (fun _ _ _ => number)
  have entry : (s.setTake i { s.takeAt i with state := .pretrig }).takeAt i = { s.takeAt i with state := .pretrig } := by
    rw [setTake_takeAt, if_pos ⟨rfl, inTable_of_used used⟩]
  have notFilling : (s.setTake i { s.takeAt i with state := .pretrig }).writer.filling = Option.none := by
    rw [setTake_writer]
    exact filling_of_waiting h waits
  exact acquire_placed started notFilling (by rw [entry]; rfl) (by rw [entry]; exact number)

theorem enterPretrig_placed {s : State} (h : s.blocksPlaced) {i : Nat} (waits : (s.takeAt i).state = .waiting) : (s.enterPretrig i).blocksPlaced := by
  have placed := firstBlock_placed h waits
  unfold State.enterPretrig
  dsimp only
  generalize (s.setTake i { s.takeAt i with state := .pretrig }).acquire i = s1 at placed ⊢
  generalize s1.sampler.started (s.takeAt i) s.tick s1.latchedPods = sampler
  have restated : (State.restateFaults { s1 with sampler := sampler } SourceRec.entryFault s.tick).places = s1.places := restateFaults_places _ _ _
  generalize State.restateFaults { s1 with sampler := sampler } SourceRec.entryFault s.tick = s3 at restated ⊢
  have begun := (beginRun_places s3 (s.takeAt i)).trans restated
  generalize s3.beginRun (s.takeAt i) = s4 at begun ⊢
  have attached : ((s4.attachLanes (s.takeAt i).channels (s.takeAt i).id).hands (s4.attachedUnits (s.takeAt i).channels (s.takeAt i).id)).blocksPlaced :=
    blocksPlaced_of_places (s := s4) rfl (blocksPlaced_of_places begun placed)
  split
  · exact endTake_placed attached i _
  · exact attached

theorem podIsOn_placed {s : State} (h : s.blocksPlaced) : s.podIsOn.blocksPlaced := by
  unfold State.podIsOn
  split
  · exact h
  · split
    · next both => exact enterPretrig_placed h both.1
    · exact h

/-! ## The trigger (R73) -/

@[simp] theorem wakePods_places (s : State) : s.wakePods.places = s.places := rfl

theorem Take.triggerable_state {t : Take} (h : t.triggerable = true) : t.state = .pretrig ∧ t.endReason = none := by
  simpa [Take.triggerable] using h

theorem trigger_placed {s : State} (h : s.blocksPlaced) {i : Nat} (pretrig : (s.takeAt i).triggerable = true) (src : TrigSource) (stage : Nat) (t : Tick) :
    (s.trigger i src stage t).blocksPlaced := by
  obtain ⟨state, goesOn⟩ := Take.triggerable_state pretrig
  have sampling : (s.takeAt i).sampling = true := by simp [Take.sampling, state]
  generalize placed : (⟨t, src, none, s.sampler.state == .waking⟩ : TrigPos) = position
  have entry : (s.setTake i { s.takeAt i with state := .posttrig, trigger := some position }).blocksPlaced :=
    retake_placed (t := { s.takeAt i with state := .posttrig, trigger := some position }) h rfl rfl rfl (by simp [state]) nofun nofun
      ⟨rfl, rfl, rfl, rfl⟩ (fun _ => capturing_of_sampling sampling) (fun _ _ => rfl) (fun _ _ => h.seated.next i sampling goesOn)
  have marked := insert_places (s.setTake i { s.takeAt i with state := .posttrig, trigger := some position }) t (.mark stage false)
  unfold State.trigger
  dsimp only
  rw [placed]
  generalize (s.setTake i { s.takeAt i with state := .posttrig, trigger := some position }).insert t (.mark stage false) = s2 at marked ⊢
  generalize (if s2.seq.state = .running ∧ s2.seq.serving = .capture ∧ s2.seq.servingTake = (s.takeAt i).id then s2.seq.finished else s2.seq) = seq
  have done : State.places { s2 with seq := seq, sampler := s2.sampler.triggered, alerts := s2.alerts.raise .take } = s2.places := rfl
  have placed := blocksPlaced_of_places (done.trans marked) entry
  generalize ({ s2 with seq := seq, sampler := s2.sampler.triggered, alerts := s2.alerts.raise .take } : State) = s3 at placed ⊢
  split
  · exact blocksPlaced_of_places ((wakePods_places _).trans (liveGap_places s3 t)) placed
  · exact placed

end Sys2Proof.Machine
end

section
/-! PROOFS. The whole part: every operation of the other units keeps every block in its place, most of them because they move none. -/

namespace Sys2Proof.Machine

theorem State.blocksPlaced.via {s u : State} (h : s.blocksPlaced) (same : u.places = s.places) : u.blocksPlaced := blocksPlaced_of_places same h

/-- A fold of operations that keep every block in its place. -/
theorem foldl_placed {α : Type} (f : State → α → State) (each : ∀ s x, s.blocksPlaced → (f s x).blocksPlaced) (l : List α) {s : State} (h : s.blocksPlaced) :
    (l.foldl f s).blocksPlaced := by
  induction l generalizing s with
  | nil => exact h
  | cons x rest ih => exact ih (each s x h)

/-! ## Generators -/

@[simp] theorem stimulate_places (s : State) (g : Fin 4) (act : StimAction) : (s.stimulate g act).1.places = s.places := by
  unfold State.stimulate
  repeat' split
  all_goals rfl

@[simp] theorem stageStimulus_places (s : State) (a : Option (Bool × Fin 4)) : (s.stageStimulus a).places = s.places := by
  unfold State.stageStimulus
  split
  · rfl
  · exact stimulate_places _ _ _

@[simp] theorem podSilences_places (s : State) (p : Fin 4) : (s.podSilences p).places = s.places := rfl

@[simp] theorem podOffStops_places (s : State) (p : Fin 4) : (s.podOffStops p).places = s.places := by
  unfold State.podOffStops
  split <;> rfl

@[simp] theorem unitPeriodEnd_places (s : State) (u : Fin 4) : (s.unitPeriodEnd u).places = s.places := by
  unfold State.unitPeriodEnd
  dsimp only
  split <;> rfl

@[simp] theorem unitEnds_places (s : State) (g : Fin 4) : (s.unitEnds g).places = s.places := by
  unfold State.unitEnds
  split
  · exact unitPeriodEnd_places s g
  · rfl

@[simp] theorem setChained_places (s : State) (g : Fin 4) (b : Bool) : (s.setChained g b).places = s.places := by
  unfold State.setChained
  split <;> rfl

@[simp] theorem writeSettings_places (s : State) (g : Fin 4) (a : GenSettings) : (s.writeSettings g a).places = s.places := by
  unfold State.writeSettings
  dsimp only
  repeat' split
  all_goals rfl

theorem setStimulusOrder_places (p : SetStimulusP) (s : State) : (setStimulusOrder p s).state.places = s.places := by
  have chained : (if p.chaining = 0 then s else s.setChained (fin4 p.generator) (p.chaining == 1)).places = s.places := by
    split
    · rfl
    · simp
  unfold setStimulusOrder
  split
  · rfl
  split
  · rfl
  dsimp only [accept]
  split
  · simpa using chained
  · exact chained

theorem runStimulusOrder_places (p : RunStimulusP) (s : State) : (runStimulusOrder p s).state.places = s.places := by
  unfold runStimulusOrder
  split
  · rfl
  · exact stimulate_places _ _ _

/-! ## The sequencer at work -/

@[simp] theorem flagTake_places (s : State) : s.flagTake.places = s.places := by
  unfold State.flagTake
  split
  · rfl
  · split
    · exact setTake_places rfl
    · rfl

theorem fire_placed {s : State} (h : s.blocksPlaced) (t : Tick) (stage : Nat) : (s.fire t stage).blocksPlaced := by
  unfold State.fire
  split
  · exact h
  · split
    · next triggerable => exact trigger_placed h triggerable _ _ _
    · exact h

theorem seqOut_placed (search : Bool) (t : Tick) (s : State) (o : SeqOut) (h : s.blocksPlaced) : (State.seqOut search t s o).blocksPlaced := by
  cases o with
  | markStage n => exact h.via (insert_places _ _ _)
  | stimulus a => exact h.via (stageStimulus_places _ _)
  | fire n =>
    change (if search then s.hit t n else s.fire t n).blocksPlaced
    split
    · exact h
    · exact fire_placed h t n

theorem seqStep_placed {s : State} (h : s.blocksPlaced) (search : Bool) (t : Tick) (x : SeqStep) : (s.seqStep search t x).blocksPlaced :=
  foldl_placed _ (seqOut_placed search t) x.outs (h.via (flagTake_places (s.seqTo x.seq)))

theorem seqJudge_placed {s : State} (h : s.blocksPlaced) (search : Bool) (k : Nat) (t : Tick) (fuel : Nat) : (s.seqJudge search k t fuel).blocksPlaced := by
  induction fuel generalizing s with
  | zero => exact h
  | succ fuel ih =>
    unfold State.seqJudge
    split
    · exact ih (seqStep_placed h _ _ _)
    · exact h

theorem seqJudgeTo_placed {s : State} (h : s.blocksPlaced) (search : Bool) (k : Nat) (t : Tick) : (s.seqJudgeTo search k t).blocksPlaced :=
  seqJudge_placed h search k t _

theorem seqEarlier_placed {s : State} (h : s.blocksPlaced) (t : Tick) : (s.seqEarlier t).blocksPlaced := by
  unfold State.seqEarlier
  split
  · exact seqJudgeTo_placed h _ _ _
  · exact h

theorem seqVector_placed {s : State} (h : s.blocksPlaced) (t : Tick) (levels unknown : Chans) : (s.seqVector t levels unknown).blocksPlaced := by
  have earlier := seqEarlier_placed h t
  unfold State.seqVector
  dsimp only
  split
  · exact seqStep_placed earlier _ _ _
  · exact earlier

theorem seqFlush_placed {s : State} (h : s.blocksPlaced) : s.seqFlush.blocksPlaced := by
  unfold State.seqFlush
  split
  · exact seqStep_placed h _ _ _
  · unfold State.dropGapEvents
    split <;> exact h

theorem seqFlushEnding_placed {s : State} (h : s.blocksPlaced) : s.seqFlushEnding.blocksPlaced := by
  unfold State.seqFlushEnding
  split
  · exact seqStep_placed h _ _ _
  · exact h

theorem seqMaximum_placed {s : State} (h : s.blocksPlaced) : s.seqMaximum.blocksPlaced := by
  unfold State.seqMaximum
  split
  · exact seqJudgeTo_placed h _ _ _
  · exact h

theorem searchVector_placed {s : State} (h : s.blocksPlaced) (k : Nat) (t : Tick) (levels unknown : Chans) : (s.searchVector k t levels unknown).blocksPlaced := by
  unfold State.searchVector
  split
  · exact seqStep_placed (seqJudgeTo_placed h _ _ _) _ _ _
  · exact h

theorem searchSpan_placed {s : State} (h : s.blocksPlaced) (k : Nat) (t : Tick) : (s.searchSpan k t).blocksPlaced := by
  unfold State.searchSpan
  split
  · exact seqJudgeTo_placed h _ _ _
  · exact h

theorem finish_placed {s : State} (h : s.blocksPlaced) : s.finish.blocksPlaced := h.via (finish_places s)

theorem finishEvents_placed {s : State} (h : s.blocksPlaced) : s.finishEvents.blocksPlaced := finish_placed (seqFlush_placed h)

/-! ## Pods -/

@[simp] theorem isolate_places (s : State) (p : Fin 4) (src : FaultSource) : (s.isolate p src).places = s.places := by
  unfold State.isolate
  dsimp only
  split <;> rfl

@[simp] theorem announce_places (s : State) (p : Fin 4) (src : FaultSource) : (s.announce p src).places = s.places := faultBegin_places _ _ _ _ _

@[simp] theorem endSource_places (s : State) (p : Fin 4) (src : FaultSource) : (s.endSource p src).places = s.places := by
  have after (x : State) (r : SourceRec) (c : Prop) [Decidable c] :
      State.places (if c then x.setSource p src r else (x.setSource p src r).noteWaking p) = x.places := by
    split <;> rfl
  unfold State.endSource
  dsimp only
  cases ((s.pods.get p).sources.get src).openRec with
  | none => exact after s _ _
  | some a =>
    dsimp only
    rw [after]
    split
    · exact faultEnd_places _ _ _ _ _ _
    · rfl

theorem markEnds_placed {s : State} (h : s.blocksPlaced) (p : Fin 4) (m : BitVec 8) : (s.markEnds p m).blocksPlaced := by
  unfold State.markEnds
  split
  · exact h
  · split
    · exact endTake_placed (seqFlushEnding_placed h) _ _
    · exact h

theorem actSource_placed {s : State} (h : s.blocksPlaced) (p : Fin 4) (src : FaultSource) : (s.actSource p src).blocksPlaced := by
  unfold State.actSource
  split
  · exact h
  · exact h.via (announce_places _ _ _)
  · exact markEnds_placed (h.via (announce_places _ _ _)) _ _
  · exact h.via ((announce_places _ _ _).trans (isolate_places _ _ _))

theorem evalSource_placed {s : State} (h : s.blocksPlaced) (p : Fin 4) (src : FaultSource) (hits : BitVec 8) (recovered : Bool) :
    (s.evalSource p src hits recovered).blocksPlaced := by
  unfold State.evalSource
  dsimp only
  repeat' split
  · exact actSource_placed (s := s.setSource p src _) h p src
  · exact h
  · exact actSource_placed (s := s.setSource p src _) h p src
  · exact h.via (endSource_places _ _ _)
  · exact h

theorem evalSense_placed {s : State} (h : s.blocksPlaced) (p : Fin 4) (src : FaultSource) (sense : Bool) : (s.evalSense p src sense).blocksPlaced := by
  unfold State.evalSense
  dsimp only
  repeat' split
  · exact actSource_placed (s := s.setSource p src _) h p src
  · exact h.via (endSource_places _ _ _)
  · exact h

theorem evalSenses_placed {s : State} (h : s.blocksPlaced) (p : Fin 4) : (s.evalSenses p).blocksPlaced :=
  evalSense_placed (evalSense_placed h p _ _) p _ _

theorem evalPod_placed (s : State) (p : Fin 4) (h : s.blocksPlaced) : (s.evalPod p).blocksPlaced := by
  unfold State.evalPod
  split
  · exact evalSource_placed (evalSource_placed (evalSource_placed h p _ _ _) p _ _ _) p _ _ _
  · exact h

theorem evalPods_placed {s : State} (h : s.blocksPlaced) : s.evalPods.blocksPlaced := by
  unfold State.evalPods
  exact foldl_placed (fun s p => s.evalPod p) evalPod_placed fourOrder h

theorem monitorExpiry_placed {s : State} (h : s.blocksPlaced) (analog : List Int) : (s.monitorExpiry analog).blocksPlaced := by
  rw [monitorExpiry_eq]
  exact evalPods_placed (h.via (update_places s))

@[simp] theorem powerOff_places (s : State) (p : Fin 4) : (s.powerOff p).places = s.places := by
  unfold State.powerOff
  dsimp only
  rw [podOffStops_places]
  exact foldl_places (fun s src => if ((s.pods.get p).sources.get src).active then s.endSource p src else s)
    (fun s src => by
      split
      · exact endSource_places _ _ _
      · rfl) _ s

theorem powerPodOrder_placed (p : PowerPodP) {s : State} (h : s.blocksPlaced) : (powerPodOrder p s).state.blocksPlaced := by
  unfold powerPodOrder
  split
  · exact h
  · split
    · change State.blocksPlaced (if _ then _ else _)
      split
      · exact evalSenses_placed (s := s.setPodAt _ _) h _
      · exact h
    · split
      · exact h
      · change State.blocksPlaced (if _ then _ else _)
        split
        · exact h
        · exact h.via (powerOff_places _ _)

theorem clearPodOrder_places (p : ClearPodP) (s : State) : (clearPodOrder p s).state.places = s.places := by
  have closed : (s.closeIsolates (fin4 p.pod)).places = s.places :=
    foldl_places _ (fun s src => by
      split
      · exact faultEnd_places _ _ _ _ _ _
      · rfl) _ s
  unfold clearPodOrder
  repeat' split
  · rfl
  · rfl
  · rfl
  · exact closed

theorem warmOver_placed {s : State} (h : s.blocksPlaced) (p : Fin 4) : (s.warmOver p).blocksPlaced := podIsOn_placed h

theorem wakeOver_placed {s : State} (h : s.blocksPlaced) (p : Fin 4) : (s.wakeOver p).blocksPlaced := podIsOn_placed h

/-! ## The sampler -/

@[simp] theorem changeRecord_places (s : State) (t : Tick) (presented : Chans) (due : Bool) : (s.changeRecord t presented due).places = s.places := by
  unfold State.changeRecord
  split
  · exact insert_places _ _ _
  · rfl

theorem immediate_placed {s : State} (h : s.blocksPlaced) (t : Tick) : (s.immediate t).blocksPlaced := by
  unfold State.immediate
  split
  · exact h
  · split
    · next both => exact trigger_placed h both.2 _ _ _
    · exact h

theorem sampleVector_placed {s : State} (h : s.blocksPlaced) (t : Tick) (levels : Chans) : (s.sampleVector t levels).blocksPlaced := by
  have sampled (sampler : Sampler) : State.blocksPlaced { s with sampler := sampler } := h
  unfold State.sampleVector
  dsimp only
  exact immediate_placed (State.blocksPlaced.via (seqVector_placed (State.blocksPlaced.via (sampled _) (liveInterval_places _ _ _ _)) _ _ _)
    (changeRecord_places _ _ _ _)) _

theorem watchVector_placed {s : State} (h : s.blocksPlaced) (t : Tick) : (s.watchVector t).blocksPlaced :=
  seqVector_placed (h.via (liveInterval_places _ _ _ _)) _ _ _

@[simp] theorem resume_places (s : State) (t : Tick) : (s.resume t).places = s.places := by
  unfold State.resume
  split
  · rfl
  · next i _ =>
    have restated : ((((s.offer i t s.sampler.wakeGap).countGap i).offer i t (.anchor t)).restateFaults SourceRec.gapFault t).places = s.places := by simp
    dsimp only
    generalize (((s.offer i t s.sampler.wakeGap).countGap i).offer i t (.anchor t)).restateFaults SourceRec.gapFault t = s3 at restated ⊢
    exact restated

theorem wakingInterval_placed {s : State} (h : s.blocksPlaced) (levels : Chans) : (s.wakingInterval levels).blocksPlaced := by
  unfold State.wakingInterval
  split
  · exact sampleVector_placed (h.via (resume_places _ _)) _ _
  · exact h

theorem sampleInterval_placed {s : State} (h : s.blocksPlaced) (levels : Chans) : (s.sampleInterval levels).blocksPlaced := by
  unfold State.sampleInterval
  split
  · exact h
  · exact sampleVector_placed (s := s.forming) h _ _
  · exact watchVector_placed (s := s.forming.formLevels levels) h _
  · exact wakingInterval_placed (seqEarlier_placed (s := s.forming) h _) _

@[simp] theorem enterWatch_places (s : State) : s.enterWatch.places = s.places := insert_places _ _ _

theorem woken_places (s : State) : State.places { s.seqGap.wakePods with sampler := s.seqGap.wakePods.sampler.wakes } = s.places := rfl

theorem wakeEdge_placed {s : State} (h : s.blocksPlaced) (levels : Chans) : (s.wakeEdge levels).blocksPlaced := by
  unfold State.wakeEdge
  dsimp only
  have waked := State.blocksPlaced.via
    (s := { s with sampler := { s.sampler.sampled levels (s.presented levels &&& s.sampler.channels) s.latchedPods with
      wakeLatch := some (s.presented levels &&& s.sampler.channels, s.intervalTime) } }) h
    (insert_places _ s.intervalTime (.wake (s.presented levels &&& s.sampler.channels)))
  have handed := seqVector_placed (waked.via (liveInterval_places _ s.intervalTime (s.presented levels &&& s.sampler.channels) s.unknownNow))
    s.intervalTime (s.presented levels &&& s.sampler.channels) s.unknownNow
  split
  · exact (seqFlush_placed (handed.via (liveGap_places _ s.intervalTime))).via (woken_places _)
  · exact handed

end Sys2Proof.Machine
end

section
/-! PROOFS. The whole part: the readers, the panel and the dispatcher keep every block in its place, and so does every step (O4). -/

namespace Sys2Proof.Machine

/-! ## The replay engine -/

@[simp] theorem endSearch_places (s : State) : s.endSearch.places = s.places := by
  unfold State.endSearch
  split <;> rfl

@[simp] theorem laneDone_places (s : State) (k : Fin 4) : (s.laneDone k).places = s.places := rfl

@[simp] theorem laneCancelled_places (s : State) (k : Fin 4) : (s.laneCancelled k).places = s.places := rfl

@[simp] theorem replayIdle_places (s : State) : s.replayIdle.places = s.places := endRight_places _ _ _

@[simp] theorem replayComplete_places (s : State) (oc : Outcome) : (s.replayComplete oc).places = s.places := by
  unfold State.replayComplete
  split <;> simp

theorem searchLast_placed {s : State} (h : s.blocksPlaced) : s.searchLast.blocksPlaced := by
  unfold State.searchLast
  split
  · exact searchSpan_placed h _ _
  · exact h

theorem replayStops_placed {s : State} (h : s.blocksPlaced) : s.replayStops.blocksPlaced := by
  have cancelled := foldl_places (fun s k => if s.replay.doneLanes.getLsbD k.val then s else s.laneCancelled k) (fun s k => by split <;> simp)
    (lanesIn s.replay.lanes) s
  unfold State.replayStops
  generalize (lanesIn s.replay.lanes).foldl (fun s k => if s.replay.doneLanes.getLsbD k.val then s else s.laneCancelled k) s = s1 at cancelled ⊢
  exact (searchLast_placed (h.via cancelled)).via (endSearch_places _)

theorem replayCancel_placed {s : State} (h : s.blocksPlaced) : s.replayCancel.blocksPlaced := by
  unfold State.replayCancel
  split
  · exact (replayStops_placed h).via (replayComplete_places _ _)
  · exact h

theorem replayAbandon_placed {s : State} (h : s.blocksPlaced) : s.replayAbandon.blocksPlaced := by
  unfold State.replayAbandon
  split
  · exact (replayStops_placed h).via (replayIdle_places _)
  · exact h

@[simp] theorem replayFinish_places (s : State) : s.replayFinish.places = s.places := by
  have done := foldl_places (fun s k => if s.replay.doneLanes.getLsbD k.val || (s.lanes.get k).pauses then s else s.laneDone k)
    (fun s k => by split <;> simp) (lanesIn s.replay.lanes) s
  unfold State.replayFinish
  split
  · dsimp only
    generalize (lanesIn s.replay.lanes).foldl
      (fun s k => if s.replay.doneLanes.getLsbD k.val || (s.lanes.get k).pauses then s else s.laneDone k) s = s1 at done ⊢
    split
    · simp [done]
    · exact done
  · rfl

@[simp] theorem laneRangeEnd_places (s : State) (t : Tick) (k : Fin 4) : (s.laneRangeEnd t k).places = s.places := closeInterrupted_places _ _ _ _

theorem searchFlush_placed {s : State} (h : s.blocksPlaced) : s.searchFlush.blocksPlaced := by
  unfold State.searchFlush
  repeat' split
  · exact h
  · exact h
  · exact seqStep_placed h _ _ _
  · exact h

theorem replayClose_placed {s : State} (h : s.blocksPlaced) : s.replayClose.blocksPlaced := by
  unfold State.replayClose
  split
  · dsimp only
    refine State.blocksPlaced.via (searchSpan_placed (searchFlush_placed ?_) _ _) (replayFinish_places _)
    exact State.blocksPlaced.via (h.via (update_places s)) (foldl_places _ (fun s k => laneRangeEnd_places _ _ _) _ _)
  · exact h.via (replayFinish_places s)

@[simp] theorem replayHolds_places (s : State) (b : Nat) : (s.replayHolds b).places = s.places :=
  (placeHold_places _ _ _).trans (dropHoldOpt_places _ _ _)

@[simp] theorem replayFront_places (s : State) : s.replayFront.places = s.places := by
  unfold State.replayFront
  repeat' split
  all_goals simp

@[simp] theorem replayResume_places (s : State) : s.replayResume.places = s.places := by
  unfold State.replayResume
  split <;> simp

@[simp] theorem replayScanned_places (s : State) : s.replayScanned.places = s.places := (replayFront_places _).trans (update_places s)

@[simp] theorem replayNextBlock_places (s : State) (e : Block) : (s.replayNextBlock e).places = s.places := by
  unfold State.replayNextBlock
  split <;> simp

@[simp] theorem replayLead_places (s : State) : s.replayLead.places = s.places := update_places s

@[simp] theorem replayAccess_places (s : State) : s.replayAccess.places = s.places := by
  have moved (r : Replay) (c : Prop) [Decidable c] (e : Block) :
      (if c then State.replayNextBlock { s with replay := r } e else { s with replay := r }).places = s.places := by
    split
    · exact (replayNextBlock_places _ _).trans (update_places s)
    · exact update_places s
  unfold State.replayAccess
  split
  · rfl
  · split
    · rfl
    · dsimp only
      split
      · split
        · exact (replayScanned_places _).trans (update_places s)
        · exact moved _ _ _
      · split
        · exact (replayLead_places _).trans (moved _ _ _)
        · exact moved _ _ _

@[simp] theorem replayNotice_places (s : State) (g : GapSpan) : (s.replayNotice g).places = s.places := by
  have noticed (k : State) : (State.searchGap k).places = k.places := update_places k
  unfold State.replayNotice
  dsimp only
  exact (update_places _).trans ((noticed _).trans (foldl_places _ (fun s k => laneGap_places _ _ _ _) _ s))

theorem replayVector_placed {s : State} (h : s.blocksPlaced) : s.replayVector.blocksPlaced := by
  unfold State.replayVector
  dsimp only
  have handed (r : Replay) (f : State → Fin 4 → State) (each : ∀ s k, (f s k).places = s.places) (n k : Nat) (t : Tick) (levels unknown : Chans) :
      (State.searchVector (State.replayPodEvents ((lanesIn s.replay.lanes).foldl f { s with replay := r }) n) k t levels unknown).blocksPlaced :=
    searchVector_placed ((h.via (update_places s)).via ((update_places _).trans (foldl_places f each _ _))) _ _ _ _
  split
  · exact searchSpan_placed (handed _ _ (fun _ _ => laneInterval_places _ _ _ _ _ _ _) _ _ _ _ _) _ _
  · exact handed _ _ (fun _ _ => laneInterval_places _ _ _ _ _ _ _) _ _ _ _ _

theorem replayInterval_placed {s : State} (h : s.blocksPlaced) : s.replayInterval.blocksPlaced := by
  unfold State.replayInterval
  split
  · refine replayClose_placed ?_
    split
    · exact h.via (replayNotice_places _ _)
    · exact replayVector_placed h
  · exact h

theorem replayOrder_places (o : OrderRef) (p : ReplayP) (s : State) : (replayOrder o p s).state.places = s.places := by
  have started (r : Replay) (l : Four Lane) (q : Sequencer) : (State.replayFront { s with replay := r, lanes := l, seq := q }).places = s.places :=
    (replayFront_places _).trans (update_places s)
  unfold replayOrder
  repeat' split
  any_goals rfl
  exact started _ _ _

/-! ## The exporter and the release of a take -/

@[simp] theorem exportEnds_places (s : State) (oc : Outcome) : (s.exportEnds oc).places = s.places := by
  unfold State.exportEnds
  split
  · rfl
  · exact (update_places _).trans (endRight_places _ _ _)

@[simp] theorem segmentStart_places (s : State) (j : ExportJob) (b : Nat) (e : Block) : (s.segmentStart j b e).places = s.places := by
  unfold State.segmentStart
  dsimp only
  split
  · exact (exportEnds_places _ _).trans ((update_places _).trans (placeHold_places s b false))
  · exact (update_places _).trans (placeHold_places s b false)

@[simp] theorem exportRun_places (s : State) (fuel : Nat) : (s.exportRun fuel).places = s.places := by
  induction fuel generalizing s with
  | zero => rfl
  | succ fuel ih =>
    unfold State.exportRun
    repeat' split
    · rfl
    · rfl
    · exact (ih _).trans (exportEnds_places _ _)
    · exact (ih _).trans (exportEnds_places _ _)
    · exact (ih _).trans (segmentStart_places _ _ _ _)
    · rfl

@[simp] theorem exportAccess_places (s : State) : s.exportAccess.places = s.places := by
  unfold State.exportAccess
  split
  · split
    · rfl
    · dsimp only
      split
      · exact (exportRun_places _ _).trans ((exportEnds_places _ _).trans (update_places s))
      · split
        · exact update_places s
        · exact (exportRun_places _ _).trans ((update_places _).trans ((dropHold_places _ _ _).trans (update_places s)))
  · rfl

theorem exportOrder_places (o : OrderRef) (p : ExportP) (s : State) : (exportOrder o p s).state.places = s.places := by
  have joined (j : ExportJob) : (s.exportJoin j).places = s.places := (exportRun_places _ _).trans (update_places s)
  unfold exportOrder
  repeat' split
  any_goals rfl
  exact joined _

@[simp] theorem exportCancel_places (s : State) (id : Nat) : (s.exportCancel id).places = s.places := by
  have cancelled (u : State) (js : List ExportJob) : (u.cancelQueued js).places = u.places :=
    foldl_places (fun (s : State) (j : ExportJob) => s.complete j.order .exportOrder .cancelled (exportResult 0 0 0)) (fun _ _ => complete_places _ _ _ _ _) js u
  unfold State.exportCancel
  split
  · rfl
  · dsimp only
    rw [exportRun_places, cancelled]
    split
    · exact (exportEnds_places _ _).trans (update_places s)
    · exact update_places s

@[simp] theorem exportAbandon_places (s : State) : s.exportAbandon.places = s.places := (update_places _).trans (endRight_places _ _ _)

@[simp] theorem renderCancel_places (s : State) (id : Nat) : (s.renderCancel id).places = s.places := by
  unfold State.renderCancel
  split
  · exact endRender_places _ _
  · rfl

theorem replayCancelOf_placed {s : State} (h : s.blocksPlaced) (id : Nat) : (s.replayCancelOf id).blocksPlaced := by
  unfold State.replayCancelOf
  split
  · exact replayCancel_placed h
  · exact h

/-- An ENDED take goes to RELEASING with the blocks it has (R81). -/
theorem releasing_placed {s : State} (h : s.blocksPlaced) {i : Nat} (used : (s.takeAt i).state ≠ .empty) (ended : (s.takeAt i).capturing = false) :
    (s.setTake i { s.takeAt i with state := .releasing }).blocksPlaced := by
  have notSampling : (s.takeAt i).sampling ≠ true := fun sampling => by simp [capturing_of_sampling sampling] at ended
  exact retake_placed (t := { s.takeAt i with state := .releasing }) h rfl rfl rfl used nofun nofun ⟨rfl, rfl, rfl, rfl⟩ nofun
    (fun sampling => absurd sampling notSampling) nofun

theorem releaseTakeOrder_placed (p : TakeIdP) {s : State} (h : s.blocksPlaced) : (releaseTakeOrder p s).state.blocksPlaced := by
  unfold releaseTakeOrder
  split
  · exact h
  · split
    · exact h
    · next i named =>
      obtain ⟨-, id, nonzero⟩ := takeIndex_some named
      have used : (s.takeAt i).state ≠ .empty := fun empty => nonzero (id ▸ (h.named.named i).mp empty)
      split
      · exact h
      · next ended =>
        split
        · exact h
        · have released := releasing_placed h used (by simpa using ended)
          exact emptyIfDone_placed
            ((replayCancelOf_placed released p.takeId).via ((renderCancel_places _ _).trans (exportCancel_places _ _))) i

theorem freeOne_placed {s : State} (h : s.blocksPlaced) (id : Nat) : (s.freeOne id).blocksPlaced := by
  unfold State.freeOne
  split
  · exact h
  · next i _ =>
    split
    · exact h
    · next b freeable => exact emptyIfDone_placed (freeFront_placed h (atFront_of_frontBlock h (frontBlock_of_freeable freeable).2)) i

/-! ## Readers -/

theorem readerTakes_places (s : State) (r : Reader) : (s.readerTakes r).places = s.places := by
  cases r with
  | replay => exact replayAccess_places s
  | exporter => exact exportAccess_places s
  | renderer => exact renderAccessed_places s

theorem readerResumes_places (s : State) (r : Reader) : (s.readerResumes r).places = s.places := by
  cases r with
  | replay => exact replayResume_places s
  | exporter => exact exportRun_places s _
  | renderer => exact renderResume_places s

theorem readerDone_placed {s : State} (h : s.blocksPlaced) (r : Reader) : (s.readerDone r).blocksPlaced := by
  have freed := h.via (portFree_places s)
  unfold State.readerDone
  split
  · exact (dropWaited_placed freed _).via (readerResumes_places _ r)
  · split
    · exact freed.via (readerResumes_places _ r)
    · exact freed.via (readerTakes_places _ r)

/-! ## The panel and the renderer's order -/

@[simp] theorem completeShow_places (s : State) (oc : Outcome) (letGo : Option Nat) : (s.completeShow oc letGo).places = s.places := by
  unfold State.completeShow
  split
  · rfl
  · exact update_places s

@[simp] theorem showPending_places (s : State) : s.showPending.places = s.places := by
  unfold State.showPending
  split
  · rfl
  · exact (completeShow_places _ _ _).trans (update_places s)

@[simp] theorem drawFrame_places (s : State) : s.drawFrame.places = s.places := by
  unfold State.drawFrame
  dsimp only
  split <;> rfl

@[simp] theorem frame_places (s : State) (now : Tick) : (s.frame now).places = s.places := by
  unfold State.frame
  dsimp only
  exact (renderRecheck_places _).trans ((update_places _).trans ((drawFrame_places _).trans ((showPending_places _).trans (update_places s))))

theorem frameIfDue_places (s : State) : s.frameIfDue.places = s.places := by
  unfold State.frameIfDue
  split
  · exact frame_places _ _
  · rfl

theorem setPanelOrder_places (p : SetPanelP) (s : State) : (setPanelOrder p s).state.places = s.places := by
  unfold setPanelOrder
  split
  · rfl
  · split
    · split
      · exact update_places s
      · exact (frame_places _ _).trans (update_places s)
    · exact (renderRecheck_places _).trans ((completeShow_places _ _ _).trans (update_places s))

theorem showOrder_places (o : OrderRef) (p : ShowP) (s : State) : (showOrder o p s).state.places = s.places := by
  unfold showOrder
  repeat' split
  any_goals rfl
  exact (update_places _).trans (completeShow_places _ _ _)

theorem renderOrder_places (o : OrderRef) (p : RenderP) (s : State) : (renderOrder o p s).state.places = s.places := by
  unfold renderOrder
  repeat' split
  any_goals rfl
  exact (renderStart_places _ _ _ _).trans (endRender_places _ _)

end Sys2Proof.Machine
end

section
/-! PROOFS. The whole part: the orders, the dispatcher and every command keep every block in its place (O4). -/

namespace Sys2Proof.Machine

/-! ## Orders -/

theorem Reply.finish_placed {r : Reply} (o : OrderRef) (kind : OrderKind) (h : r.state.blocksPlaced) : (r.finish o kind).blocksPlaced := by
  unfold Reply.finish
  split
  · exact h
  · exact h.via (complete_places _ _ _ _ _)

theorem setAlertsOrder_places (p : SetAlertsP) (s : State) : (setAlertsOrder p s).state.places = s.places := by
  unfold setAlertsOrder
  split
  · rfl
  · refine places_of_parts ?_ ?_ rfl rfl
    all_goals
      dsimp only [accept]
      split <;> rfl

theorem setPodOrder_places (p : SetPodP) (s : State) : (setPodOrder p s).state.places = s.places := by
  unfold setPodOrder
  split
  · rfl
  · exact update_places s

theorem setSequenceOrder_places (p : SetSequenceP) (s : State) : (setSequenceOrder p s).state.places = s.places := by
  unfold setSequenceOrder
  repeat' split
  any_goals rfl

theorem setLaneOrder_places (p : SetLaneP) (s : State) : (setLaneOrder p s).state.places = s.places := by
  unfold setLaneOrder
  repeat' split
  any_goals rfl

theorem snapshotLaneOrder_places (p : SnapshotLaneP) (s : State) : (snapshotLaneOrder p s).state.places = s.places := by
  unfold snapshotLaneOrder
  split <;> rfl

theorem resumeLaneOrder_places (p : ResumeLaneP) (s : State) : (resumeLaneOrder p s).state.places = s.places := by
  unfold resumeLaneOrder
  split
  · rfl
  · split
    · rfl
    · dsimp only [accept]
      split
      · exact (resumeHeld_places _ _).trans (update_places s)
      · exact update_places s

theorem setMatchOrder_places (p : SetMatchP) (s : State) : (setMatchOrder p s).state.places = s.places := by
  unfold setMatchOrder
  repeat' split
  any_goals rfl

theorem takeStatusOrder_places (p : TakeIdP) (s : State) : (takeStatusOrder p s).state.places = s.places := by
  unfold takeStatusOrder
  repeat' split
  any_goals rfl

/-- A search of the take table finds one of its entries. -/
theorem inTable_of_found {s : State} {f : Take → Bool} {i : Nat} (found : findIdxFrom f s.takes.entries 0 = some i) : i < s.takes.entries.length := by
  obtain ⟨j, rfl, short, -⟩ := findIdxFrom_some Take.reset found
  omega

/-- The entry that ARM fills holds the take WAITING. -/
theorem takeAt_armed {s : State} {i : Nat} (o : OrderRef) (p : ArmP) (inTable : i < s.takes.entries.length) :
    (s.armed o p i).takeAt i = armEntry o p s.takes.freshId := by
  rw [takeAt_update (s := s) (t := armEntry o p s.takes.freshId) rfl inTable, Function.update_self]

theorem armOrder_placed (o : OrderRef) (p : ArmP) {s : State} (h : s.blocksPlaced) : (armOrder o p s).state.blocksPlaced := by
  unfold armOrder
  dsimp only
  split
  · exact h
  split
  · exact h
  next free =>
  have noTake : s.capIndex = none := by
    simp only [Bool.or_eq_true, not_or, Option.not_isSome_iff_eq_none] at free
    exact free.1
  split
  · exact h
  next i empty =>
  have inTable := inTable_of_found empty
  have armed := armed_placed h o p noTake empty
  have entry := takeAt_armed o p inTable
  generalize s.armed o p i = u at armed entry ⊢
  split
  · exact h
  split
  · exact h
  split
  · exact h
  split
  · exact armed
  · exact enterPretrig_placed armed (entry ▸ rfl)

theorem stopOrder_placed (o : OrderRef) {s : State} (h : s.blocksPlaced) : (stopOrder o s).state.blocksPlaced := by
  unfold stopOrder
  split
  · exact h
  · next i _ =>
    have waits : (s.setTake i { s.takeAt i with stops := (s.takeAt i).stops ++ [o] }).blocksPlaced := h.via (setTake_places rfl)
    exact endTake_placed waits _ _

theorem forceOrder_placed {s : State} (h : s.blocksPlaced) : (forceOrder s).state.blocksPlaced := by
  unfold forceOrder
  split
  · exact h
  · split
    · next triggerable => exact trigger_placed h triggerable _ _ _
    · exact h

/-- Every unit's answer to an order leaves every block in its place. -/
theorem unitReply_placed {s : State} (h : s.blocksPlaced) (o : OrderRef) (us : List Word64) (kind : OrderKind) : (unitReply s o us kind).state.blocksPlaced := by
  cases kind with
  | note => exact h
  | halt => exact h
  | setAlerts => exact h.via (setAlertsOrder_places _ s)
  | setPod => exact h.via (setPodOrder_places _ s)
  | powerPod => exact powerPodOrder_placed _ h
  | clearPod => exact h.via (clearPodOrder_places _ s)
  | setStimulus => exact h.via (setStimulusOrder_places _ s)
  | runStimulus => exact h.via (runStimulusOrder_places _ s)
  | arm => exact armOrder_placed o _ h
  | stop => exact stopOrder_placed o h
  | force => exact forceOrder_placed h
  | takeStatus => exact h.via (takeStatusOrder_places _ s)
  | releaseTake => exact releaseTakeOrder_placed _ h
  | setSequence => exact h.via (setSequenceOrder_places _ s)
  | setLane => exact h.via (setLaneOrder_places _ s)
  | snapshotLane => exact h.via (snapshotLaneOrder_places _ s)
  | resumeLane => exact h.via (resumeLaneOrder_places _ s)
  | setMatch => exact h.via (setMatchOrder_places _ s)
  | replay => exact h.via (replayOrder_places o _ s)
  | exportOrder => exact h.via (exportOrder_places o _ s)
  | render => exact h.via (renderOrder_places o _ s)
  | showTable => exact h.via (showOrder_places o _ s)
  | setPanel => exact h.via (setPanelOrder_places _ s)

/-! ## The dispatcher -/

theorem afterUnit_placed {s : State} (h : s.blocksPlaced) (kind : OrderKind) : (s.afterUnit kind).blocksPlaced := by
  unfold State.afterUnit
  split
  · exact replayClose_placed h
  · exact h

theorem handUnit_placed {s : State} (h : s.blocksPlaced) (o : OrderRef) (kind : OrderKind) : (s.handUnit o kind).blocksPlaced := by
  have read : (s.paramsRead kind).blocksPlaced := by
    unfold State.paramsRead
    split <;> exact h
  unfold State.handUnit
  dsimp only
  split
  · exact read.via (complete_places ((s.paramsRead kind).raise .link) _ _ _ _)
  · exact afterUnit_placed (Reply.finish_placed o kind (unitReply_placed read o _ kind)) kind

@[simp] theorem retireCursor_places (s : State) (next : Nat) : (s.retireCursor next).places = s.places := by
  unfold State.retireCursor
  repeat' split
  any_goals rfl

@[simp] theorem haltOrder_places (s : State) (o : OrderRef) : (s.haltOrder o).places = s.places := by
  have halted (u : State) : (u.halt o).places = u.places := by
    unfold State.halt
    split
    · exact retireCursor_places _ _
    · exact Eq.trans rfl (retireCursor_places u o.addr)
  unfold State.haltOrder
  split
  · exact syncReport_places s
  · exact (halted _).trans (syncReport_places s)

theorem handOrder_placed {s : State} (h : s.blocksPlaced) (o : OrderRef) (kind : OrderKind) : (s.handOrder o kind).blocksPlaced := by
  unfold State.handOrder
  split
  · exact h.via (haltOrder_places s o)
  · exact handUnit_placed (h.via (update_places s)) o kind

@[simp] theorem takeRecord_places (s : State) (addr : Nat) : (s.takeRecord addr).places = s.places := by
  unfold State.takeRecord
  dsimp only
  split
  · rfl
  · split
    · rfl
    · split <;> exact (update_places _).trans ((retireCursor_places _ _).trans (update_places s))

theorem handTaken_placed {s : State} (h : s.blocksPlaced) (m : Mem) (addr : Nat) : (s.handTaken m addr).blocksPlaced := by
  unfold State.handTaken
  split
  · exact h
  · dsimp only
    split
    · exact h.via ((complete_places _ _ _ _ _).trans (update_places s))
    · split
      · exact h.via (update_places s)
      · exact handOrder_placed h _ _

theorem takeOrder_placed {s : State} (h : s.blocksPlaced) : s.takeOrder.blocksPlaced := by
  have read : s.linkRead.blocksPlaced := by
    unfold State.linkRead
    split <;> exact h
  unfold State.takeOrder
  split
  · dsimp only
    split
    · exact read.via (update_places _)
    · split
      · exact handTaken_placed (read.via (takeRecord_places _ _)) _ _
      · exact read.via (update_places _)
  · exact h

theorem waitEnds_placed {s : State} (h : s.blocksPlaced) : s.waitEnds.blocksPlaced := by
  unfold State.waitEnds
  split
  · split
    · exact h
    · split
      · exact h
      · exact handOrder_placed h _ _
  · exact h

theorem handMarks_placed {s : State} (h : s.blocksPlaced) : s.handMarks.blocksPlaced :=
  replayClose_placed (h.via (foldl_places _ (fun _ _ => handMark_places _ _ _) _ s))

theorem retryLink_places (s : State) : s.retryLink.places = s.places := by
  have read : s.linkRead.places = s.places := by
    unfold State.linkRead
    split <;> rfl
  unfold State.retryLink
  split
  · rfl
  · split
    · exact (update_places _).trans read
    · split <;> exact (update_places _).trans read

theorem takeCount_places (s : State) (value : BitVec 32) : (s.takeCount value).places = s.places := by
  unfold State.takeCount
  split <;> exact update_places s

theorem nudge_placed {s : State} (h : s.blocksPlaced) (value : BitVec 32) : (s.nudge value).blocksPlaced := by
  unfold State.nudge
  split
  · unfold State.nudgeHalted
    dsimp only
    repeat' split
    · exact h.via (update_places s)
    · exact h.via (update_places s)
    · exact h.via (update_places s)
    · exact h.via (update_places s)
    · exact handMarks_placed (h.via (update_places s))
  · unfold State.nudgeRunning
    dsimp only
    have counted := h.via (takeCount_places s value)
    split
    · exact counted.via (update_places _)
    · exact (handMarks_placed (counted.via (update_places _))).via (retryLink_places _)

/-! ## Resets -/

theorem abandoned_stand (l : List Take) : (l.map Take.abandoned).map Take.stand = l.map Take.stand := by
  rw [List.map_map]
  rfl

theorem linkReset_placed {s : State} (h : s.blocksPlaced) : s.linkReset.blocksPlaced := by
  have left := (replayAbandon_placed h).via (exportAbandon_places _)
  unfold State.linkReset
  generalize s.replayAbandon.exportAbandon = u at left ⊢
  have abandoned : u.renderAbandon.places = u.places := (update_places _).trans (endRight_places _ _ _)
  dsimp only
  generalize u.renderAbandon = v at abandoned ⊢
  exact (left.via abandoned).via (places_of_parts rfl rfl rfl (abandoned_stand _))

theorem powerReset_blocksPlaced (s : State) : s.powerReset.blocksPlaced := reset_blocksPlaced.via (update_places State.reset)

/-! ## Commands -/

/-- A command leaves every block in its place. -/
def placesBlocks (r : Result) : Prop := ∀ t, r = .next t → t.blocksPlaced

theorem placesBlocks_finish {s : State} (h : s.blocksPlaced) : placesBlocks (.next s.finish) := by
  rintro t ⟨⟩
  exact finish_placed h

theorem placesBlocks_finishEvents {s : State} (h : s.blocksPlaced) : placesBlocks (.next s.finishEvents) := by
  rintro t ⟨⟩
  exact finishEvents_placed h

theorem placesBlocks_order {r : Reply} (o : OrderRef) (kind : OrderKind) (h : r.state.blocksPlaced) : placesBlocks (orderResult r o kind) :=
  placesBlocks_finish (Reply.finish_placed o kind h)

theorem placed_ite {c : Prop} [Decidable c] {x y : State} (hx : x.blocksPlaced) (hy : y.blocksPlaced) : (if c then x else y).blocksPlaced := by
  split <;> assumption

/-- Every command but the resets, TICK and the failures. -/
theorem exec_placesBlocks {s : State} (h : s.blocksPlaced) (c : Instr) (moves : movesTick c = false)
    (whole : ∀ a n d, c ≠ .sharedMemoryAccessFailure a n d) : placesBlocks (exec c s) := by
  cases c with
  | powerOnReset => simp [movesTick] at moves
  | partReset v => rw [exec_partReset_ignored s (by simpa [movesTick] using moves)]; exact placesBlocks_finish h
  | tick n => simp [movesTick] at moves
  | sharedMemoryAccessFailure a n d => exact absurd rfl (whole a n d)
  | linkReset => exact placesBlocks_finish (linkReset_placed h)
  | linkBaseWrite v => exact placesBlocks_finish (s := s.writeLinkBase v) (h.via (update_places s))
  | nudge v st => exact placesBlocks_finishEvents (nudge_placed (s := s.hostStores st) (h.via (update_places s)) v)
  | alertCauseWrite v => exact placesBlocks_finish (h.via (update_places s))
  | alertMaskWrite v => exact placesBlocks_finish (h.via (update_places s))
  | orderTake st => exact placesBlocks_finishEvents (takeOrder_placed (s := s.hostStores st) (h.via (update_places s)))
  | dispatcherWaitEnds => exact placesBlocks_finishEvents (waitEnds_placed h)
  | halt o => exact placesBlocks_finish (h.via (haltOrder_places s o))
  | powerPod o p => exact placesBlocks_finishEvents (Reply.finish_placed _ _ (powerPodOrder_placed p h))
  | resumeLane o p => exact placesBlocks_finishEvents (afterUnit_placed (Reply.finish_placed _ _ (h.via (resumeLaneOrder_places p s))) _)
  | warmTimerExpiry p => exact placesBlocks_finish (placed_ite (warmOver_placed h p) h)
  | wakeTimerExpiry p => exact placesBlocks_finish (placed_ite (wakeOver_placed h p) h)
  | monitorPeriodExpiry a => exact placesBlocks_finishEvents (placed_ite (monitorExpiry_placed h a) h)
  | podSenseChange p a b =>
    have sensed : (s.senses p a b).blocksPlaced := h.via (update_places s)
    exact placesBlocks_finishEvents (placed_ite sensed (evalSenses_placed sensed p))
  | periodEnd g => exact placesBlocks_finish (placed_ite (h.via (unitPeriodEnd_places s g)) h)
  | unitEnd g => exact placesBlocks_finish (placed_ite (h.via (unitEnds_places s g)) h)
  | sampleInterval v => exact placesBlocks_finishEvents (sampleInterval_placed h v)
  | frameIdleExpiry k => exact placesBlocks_finishEvents (searchFlush_placed (h.via (laneIdleExpiry_places s k)))
  | windowMaximumJudged => exact placesBlocks_finishEvents (seqMaximum_placed h)
  | idleTimerExpiry => exact placesBlocks_finish (placed_ite (h.via (enterWatch_places s)) h)
  | wakeEdge v => exact placesBlocks_finishEvents (placed_ite (wakeEdge_placed h v) (h.via (update_places s)))
  | captureWriterAccess => exact placesBlocks_finish (placed_ite (writerAccess_placed (h.via (portFree_places s))) h)
  | takeEntersEnded => exact placesBlocks_finish (endIfReady_placed h)
  | readerAccessComplete r => exact placesBlocks_finish (placed_ite (readerDone_placed h r) h)
  | replayInterval => exact placesBlocks_finish (replayInterval_placed h)
  | blockFreed i => exact placesBlocks_finish (freeOne_placed h i)
  | frameStart st => exact placesBlocks_finish (h.via ((frameIfDue_places _).trans (update_places s)))
  | stageReportDelayExpiry => exact placesBlocks_finish h
  | note o => exact placesBlocks_order o _ h
  | setAlerts o p => exact placesBlocks_order o _ (h.via (setAlertsOrder_places p s))
  | setPod o p => exact placesBlocks_order o _ (h.via (setPodOrder_places p s))
  | clearPod o p => exact placesBlocks_order o _ (h.via (clearPodOrder_places p s))
  | setStimulus o p => exact placesBlocks_order o _ (h.via (setStimulusOrder_places p s))
  | runStimulus o p => exact placesBlocks_order o _ (h.via (runStimulusOrder_places p s))
  | arm o p => exact placesBlocks_order o _ (armOrder_placed o p h)
  | stop o => exact placesBlocks_order o _ (stopOrder_placed o h)
  | force o => exact placesBlocks_order o _ (forceOrder_placed h)
  | takeStatus o p => exact placesBlocks_order o _ (h.via (takeStatusOrder_places p s))
  | releaseTake o p => exact placesBlocks_order o _ (releaseTakeOrder_placed p h)
  | setSequence o p => exact placesBlocks_order o _ (h.via (setSequenceOrder_places p s))
  | setLane o p => exact placesBlocks_order o _ (h.via (setLaneOrder_places p s))
  | snapshotLane o p => exact placesBlocks_order o _ (h.via (snapshotLaneOrder_places p s))
  | setMatch o p => exact placesBlocks_order o _ (h.via (setMatchOrder_places p s))
  | replay o p => exact placesBlocks_order o _ (h.via (replayOrder_places o p s))
  | exportOrder o p => exact placesBlocks_order o _ (h.via (exportOrder_places o p s))
  | render o p => exact placesBlocks_order o _ (h.via (renderOrder_places o p s))
  | showTable o p => exact placesBlocks_order o _ (h.via (showOrder_places o p s))
  | setPanel o p => exact placesBlocks_order o _ (h.via (setPanelOrder_places p s))

/-- Every step keeps each owned block FILLING as the writer's alone, or SEALED at one place of one take's sequence. -/
theorem step_blocksPlaced {s t : State} (h : s.blocksPlaced) (next : step s = .next t) : t.blocksPlaced :=
  step_keeps (P := State.blocksPlaced) (fun s _ h => h.via (update_places s))
    (exec_keeps powerReset_blocksPlaced (fun s _ _ _ h => h.via (update_places s)) fun c _ t moves whole h => exec_placesBlocks h c moves whole t) h next

/-- Settles O4: no operation puts a block in two places, or in none. -/
theorem blocksStayPartitioned : Obligations.BlocksStayPartitioned := by
  constructor
  · exact fun _ _ h next => step_partitioned h next
  · exact fun _ _ h next => step_blocksPlaced h next

end Sys2Proof.Machine
end

section
/-! PROOFS. ARM (spec/04, R66, R68, R70): its refusals in their order (O39), and the take it leaves in WAITING (O40). -/

namespace Sys2Proof.Machine

/-! ## Members of four, and pods by channel list -/

theorem mem_fourOrder (q : Fin 4) : q ∈ fourOrder := by
  fin_cases q <;> decide

theorem somePodOf_iff {s : State} {m : Chans} {f : Pod → Bool} : s.somePodOf m f = true ↔ ∃ q, podIn q m = true ∧ f (s.pods.get q) = true := by
  simp [State.somePodOf, mem_fourOrder]

/-! ## What ARM answers (R68) -/

section
variable {s : State} {o : OrderRef} {p : ArmP} (valid : p.valid = true)
include valid

theorem armOrder_busy (busy : s.capIndex.isSome = true ∨ s.seq.serving = .search) : armOrder o p s = refuse s .busy := by
  unfold armOrder
  rw [if_neg (by simp [valid]), if_pos (by simpa using busy)]

variable (idle : ¬ (s.capIndex.isSome = true ∨ s.seq.serving = .search))
include idle

theorem armOrder_full (full : ∀ e ∈ s.takes.entries, e.state ≠ .empty) : armOrder o p s = refuse s .noTakeSlot := by
  have none : findIdxFrom (fun t => t.state == .empty) s.takes.entries 0 = Option.none := findIdxFrom_eq_none.mpr (by simpa using full)
  unfold armOrder
  rw [if_neg (by simp [valid]), if_neg (by simpa using idle), none]

variable {i : Nat} (empty : findIdxFrom (fun t => t.state == .empty) s.takes.entries 0 = some i)
include empty

/-- ARM with an entry for its take. -/
theorem armOrder_slot : armOrder o p s =
    if s.pool.freeCount < 2 then refuse s .noBlocks
    else if s.somePodOf (BitVec.ofNat 32 p.channels) (fun pod => pod.power == .off || pod.latch) then refuse s .podOff
    else if p.mode = 0 ∧ s.seq.state = .unloaded then refuse s .wrongState
    else if s.somePodOf (BitVec.ofNat 32 p.channels) Pod.settling then inFlight (s.armed o p i)
    else inFlight ((s.armed o p i).enterPretrig i) := by
  unfold armOrder
  rw [if_neg (by simp [valid]), if_neg (by simpa using idle), empty]

theorem armOrder_noBlocks (few : s.pool.freeCount < 2) : armOrder o p s = refuse s .noBlocks := by
  rw [armOrder_slot valid idle empty, if_pos few]

variable (blocks : 2 ≤ s.pool.freeCount)
include blocks

theorem armOrder_podOff (off : ∃ q, podIn q (BitVec.ofNat 32 p.channels) = true ∧ ((s.pods.get q).power = .off ∨ (s.pods.get q).latch = true)) :
    armOrder o p s = refuse s .podOff := by
  rw [armOrder_slot valid idle empty, if_neg (Nat.not_lt.mpr blocks), if_pos (somePodOf_iff.mpr (by simpa using off))]

variable (powered : ¬ ∃ q, podIn q (BitVec.ofNat 32 p.channels) = true ∧ ((s.pods.get q).power = .off ∨ (s.pods.get q).latch = true))
include powered

/-- ARM with a place for its take and its pods powered. -/
theorem armOrder_powered : armOrder o p s =
    if p.mode = 0 ∧ s.seq.state = .unloaded then refuse s .wrongState
    else if s.somePodOf (BitVec.ofNat 32 p.channels) Pod.settling then inFlight (s.armed o p i)
    else inFlight ((s.armed o p i).enterPretrig i) := by
  rw [armOrder_slot valid idle empty, if_neg (Nat.not_lt.mpr blocks), if_neg (fun off => powered (by simpa using somePodOf_iff.mp off))]

theorem armOrder_unloaded (mode : p.mode = 0) (unloaded : s.seq.state = .unloaded) : armOrder o p s = refuse s .wrongState := by
  rw [armOrder_powered valid idle empty blocks powered, if_pos ⟨mode, unloaded⟩]

end

/-- Settles O39: each refusal is the answer of the first check that fails. -/
theorem armRefusals : Obligations.ArmRefusals := by
  intro s o p ready clear valid
  dsimp only
  have answers (oc : Outcome) (h : armOrder o p s = refuse s oc) : ∃ t, exec (.arm o p) s = .next t ∧ completedFrom s t o .arm oc [] := by
    change ∃ t, orderResult (armOrder o p s) o .arm = .next t ∧ _
    rw [h]
    exact orderResult_completed oc ready clear
  have slot (room : ¬ ∀ e ∈ s.takes.entries, e.state ≠ .empty) : ∃ i, findIdxFrom (fun t => t.state == .empty) s.takes.entries 0 = some i := by
    rw [← Option.ne_none_iff_exists']
    exact fun none => room (by simpa using findIdxFrom_eq_none.mp none)
  refine ⟨fun busy => answers _ (armOrder_busy valid busy), fun idle full => answers _ (armOrder_full valid idle full), fun idle room few => ?_,
    fun idle room blocks off => ?_, fun idle room blocks powered mode unloaded => ?_⟩
  · obtain ⟨i, empty⟩ := slot room
    exact answers _ (armOrder_noBlocks valid idle empty few)
  · obtain ⟨i, empty⟩ := slot room
    exact answers _ (armOrder_podOff valid idle empty blocks off)
  · obtain ⟨i, empty⟩ := slot room
    exact answers _ (armOrder_unloaded valid idle empty blocks powered mode unloaded)

/-! ## An accepted ARM -/

section
variable {s : State} {p : ArmP} {i : Nat} (accepted : armAccepted s p i)
include accepted

theorem armAccepted.inTable : i < s.takes.entries.length := by
  obtain ⟨-, -, -, empty, -⟩ := accepted
  exact inTable_of_found empty

/-- An accepted ARM waits for its pods or starts at once. -/
theorem armOrder_accepted (o : OrderRef) : armOrder o p s =
    if s.somePodOf (BitVec.ofNat 32 p.channels) Pod.settling then inFlight (s.armed o p i) else inFlight ((s.armed o p i).enterPretrig i) := by
  obtain ⟨valid, noTake, serves, empty, blocks, powered, loaded⟩ := accepted
  rw [armOrder_powered valid (by simp [noTake, serves]) empty blocks]
  · exact if_neg (fun both => loaded both.1 both.2)
  · rintro ⟨q, listed, off | latched⟩
    · exact (powered q listed).1 off
    · simp [(powered q listed).2] at latched

end

theorem Pod.settling_iff {x : Pod} : x.settling = true ↔ x.power = .warming ∨ x.power = .watch := by
  simp [Pod.settling]

/-- Settles O40: the new take waits in the first EMPTY entry. -/
theorem armWaitsForPods : Obligations.ArmWaitsForPods := by
  rintro s o p i ready ⟨length, -⟩ accepted ⟨q, listed, settling⟩
  have inTable := armAccepted.inTable accepted
  have waits : armOrder o p s = inFlight (s.armed o p i) := by
    rw [armOrder_accepted accepted, if_pos (somePodOf_iff.mpr ⟨q, listed, Pod.settling_iff.mpr settling⟩)]
  have closes : closedFrom (s.armed o p i) (s.armed o p i).finish := finish_closes (u := s.armed o p i) ready
  refine ⟨(s.armed o p i).finish, ?_, ?_⟩
  · change orderResult (armOrder o p s) o .arm = _
    rw [waits]
    rfl
  have entry : (s.armed o p i).finish.takeAt i = armEntry o p s.takes.freshId := by
    rw [closes.takeAt, takeAt_armed o p inTable]
  have others (j : Nat) (other : j ≠ i) : (s.armed o p i).finish.takeAt j = s.takeAt j := by
    rw [closes.takeAt, takeAt_update (s := s) (t := armEntry o p s.takes.freshId) rfl inTable, Function.update_of_ne other]
  rw [entry, closes.takes, closes.seq]
  refine ⟨closes, freshId_fresh length, rfl, rfl, rfl, rfl, rfl, rfl, rfl, rfl, rfl, rfl, others, fun mode => ?_, fun mode => ?_⟩
  · exact if_pos mode
  · exact if_neg mode

end Sys2Proof.Machine
end

section
/-! PROOFS. The start of a capture (spec/04, R59, R68, R70; O41): with the listed pods ON and every pod healthy, ARM enters PRETRIG at once. -/

namespace Sys2Proof.Machine

/-! ## Healthy pods -/

/-- With every source inactive and every latch clear there is nothing to restate at the entry to PRETRIG (R17). -/
theorem restateFaults_entry_healthy {s : State} (healthy : podsHealthy s) (t : Tick) : s.restateFaults SourceRec.entryFault t = s := by
  have nothing (p : Fin 4) (src : FaultSource) : State.restateSource SourceRec.entryFault t p s src = s := by
    obtain ⟨latch, inactive⟩ := healthy p
    have silent : SourceRec.entryFault ((s.pods.get p).sources.get src) (s.pods.get p).latch = none := by
      simp [SourceRec.entryFault, latch, inactive src]
    unfold State.restateSource
    rw [silent]
  simp [State.restateFaults, State.restatePod, fourOrder, FaultSource.order, nothing]

/-- An inactive source ends no take (R18). -/
theorem podsEnd_healthy {s : State} (healthy : podsHealthy s) (m : Chans) : s.podsEnd m = false := by
  have silent (p : Fin 4) (src : FaultSource) : ((s.pods.get p).sources.get src).active = false := (healthy p).2 src
  have goesOn (p : Fin 4) : (s.pods.get p).endsTake p m = false := by
    have overLimit := silent p .overLimit
    have under := silent p .under
    have middle := silent p .middle
    have lost := silent p .lost
    have hot := silent p .hot
    simp only [Five.get] at overLimit under middle lost hot
    simp [Pod.endsTake, Five.toList, overLimit, under, middle, lost, hot]
  simp [State.podsEnd, goesOn]

theorem Four.get_map {α β : Type} (f : Four α) (g : α → β) (i : Fin 4) : (f.map g).get i = g (f.get i) := by
  fin_cases i <;> rfl

/-- The staged comparator sets do not touch the faults (R9). -/
theorem podsHealthy_applyStaged {s u : State} (h : u.pods = s.pods.map Pod.applyStaged) (healthy : podsHealthy s) : podsHealthy u := by
  have faults (x : Pod) : x.applyStaged.latch = x.latch ∧ x.applyStaged.sources = x.sources := by
    unfold Pod.applyStaged
    split <;> exact ⟨rfl, rfl⟩
  intro p
  rw [h, Four.get_map, (faults _).1, (faults _).2]
  exact healthy p

/-! ## The entry to PRETRIG (R70) -/

/-- Take entry `i` in PRETRIG with its first block, `b`. -/
def State.opened (s : State) (i b : Nat) (rest : List Nat) : State := (s.setTake i { s.takeAt i with state := .pretrig }).acquireBlock i b rest

theorem beginRun_frame (s : State) (t : Take) :
    ∃ report, s.beginRun t = { s with seq := if t.mode = .sequence then s.seq.begin .capture t.id s.tick else s.seq, report := report } := by
  unfold State.beginRun
  split
  · exact ⟨_, rfl⟩
  · exact ⟨_, rfl⟩

/-- A take whose pods are all healthy and for which a block is free enters PRETRIG and goes on. -/
theorem enterPretrig_healthy {s : State} {i b : Nat} {rest : List Nat} (healthy : podsHealthy s) (free : s.pool.free = b :: rest) :
    ∃ report, s.enterPretrig i = { s.opened i b rest with
      sampler := s.sampler.started (s.takeAt i) s.tick (s.opened i b rest).latchedPods
      seq := if (s.takeAt i).mode = .sequence then s.seq.begin .capture (s.takeAt i).id s.tick else s.seq
      lanes := s.lanes.map (fun l => l.considered (s.takeAt i).channels (s.takeAt i).id)
      report := report } := by
  have acquires : (s.setTake i { s.takeAt i with state := .pretrig }).acquire i = s.opened i b rest := by
    unfold State.acquire State.opened
    rw [setTake_pool, free]
  have wellOpened : podsHealthy (s.opened i b rest) := podsHealthy_applyStaged rfl healthy
  have nothing (sampler : Sampler) : State.restateFaults { s.opened i b rest with sampler := sampler } SourceRec.entryFault s.tick =
      { s.opened i b rest with sampler := sampler } :=
    restateFaults_entry_healthy (s := { s.opened i b rest with sampler := sampler }) wellOpened s.tick
  have sampler : (s.opened i b rest).sampler = s.sampler := rfl
  unfold State.enterPretrig
  dsimp only
  rw [acquires, sampler, nothing]
  obtain ⟨report, begun⟩ :=
    beginRun_frame { s.opened i b rest with sampler := s.sampler.started (s.takeAt i) s.tick (s.opened i b rest).latchedPods } (s.takeAt i)
  generalize State.beginRun _ (s.takeAt i) = s4 at begun ⊢
  have goesOn : s4.podsEnd (s.takeAt i).channels = false := by
    rw [begun]
    exact podsEnd_healthy (s := s.opened i b rest) wellOpened _
  split
  · next ends => exact absurd (goesOn.symm.trans ends) Bool.false_ne_true
  · rw [begun]
    exact ⟨_, rfl⟩

theorem opened_takeAt {s : State} {i b : Nat} {rest : List Nat} (inTable : i < s.takes.entries.length) :
    (s.opened i b rest).takeAt = Function.update s.takeAt i { s.takeAt i with state := .pretrig, acquired := ((s.takeAt i).acquired + 1) % 2 ^ 32 } := by
  have entered : (s.setTake i { s.takeAt i with state := .pretrig }).takeAt = _ := takeAt_update (s := s) rfl inTable
  have acquired : (s.opened i b rest).takeAt = _ := takeAt_update (s := s.setTake i { s.takeAt i with state := .pretrig }) rfl
    ((putAt_length _ _ _).symm ▸ inTable)
  rw [acquired, entered, Function.update_self, Function.update_idem]

/-- Settles O41: the new take waits for no pod, so it enters PRETRIG in the step of its ARM. -/
theorem armStartsCapture : Obligations.ArmStartsCapture := by
  rintro s o p i b rest ready ⟨length, -⟩ accepted healthy powered free
  have inTable := armAccepted.inTable accepted
  have settled : ¬ s.somePodOf (BitVec.ofNat 32 p.channels) Pod.settling = true := by
    rw [somePodOf_iff]
    rintro ⟨q, listed, settling⟩
    rw [Pod.settling_iff, powered q listed] at settling
    simp at settling
  have starts : armOrder o p s = inFlight ((s.armed o p i).enterPretrig i) := by
    rw [armOrder_accepted accepted, if_neg settled]
  obtain ⟨report, enters⟩ := enterPretrig_healthy (s := s.armed o p i) (i := i) healthy free
  rw [takeAt_armed o p inTable] at enters
  have takes := opened_takeAt (s := s.armed o p i) (i := i) (b := b) (rest := rest) (by simpa [State.armed, putAt_length] using inTable)
  rw [takeAt_armed o p inTable] at takes
  have closes : closedFrom ((s.armed o p i).enterPretrig i) ((s.armed o p i).enterPretrig i).finish := finish_closes (by rw [enters]; exact ready)
  have step : exec (.arm o p) s = .next ((s.armed o p i).enterPretrig i).finish := by
    change orderResult (armOrder o p s) o .arm = _
    rw [starts]
    rfl
  generalize (s.armed o p i).enterPretrig i = u at enters closes step
  generalize u.finish = t at closes step
  refine ⟨t, step, ?_⟩
  have table : u.takeAt = ((s.armed o p i).opened i b rest).takeAt := by rw [enters]; rfl
  have entry : t.takeAt i = { armEntry o p s.takes.freshId with state := .pretrig, acquired := 1 } := by
    rw [closes.takeAt, table, takes, Function.update_self]
    rfl
  have others (j : Nat) (other : j ≠ i) : t.takeAt j = s.takeAt j := by
    rw [closes.takeAt, table, takes, Function.update_of_ne other,
      takeAt_update (s := s) (t := armEntry o p s.takes.freshId) rfl inTable, Function.update_of_ne other]
  rw [entry, closes.takes, closes.writer, closes.pool_free, closes.sampler, closes.seq, closes.lanes, closes.staging, closes.gens, closes.monitor,
    closes.slots, closes.panel, closes.disp]
  have bytes : bytesKept s t storesNothing := bytesKept_of_same (by rw [enters]; rfl) (by rw [enters]; rfl) closes.2
  rw [enters]
  refine ⟨freshId_fresh length, rfl, rfl, rfl, rfl, rfl, rfl, rfl, rfl, rfl, rfl, rfl, rfl, rfl, fun mode => ?_, rfl, others, rfl, rfl, rfl, rfl, rfl,
    rfl, bytes⟩
  have sequence : (armEntry o p s.takes.freshId).mode = .sequence := by simp [armEntry, mode, trigModeOf]
  rw [if_pos sequence]
  exact ⟨rfl, rfl, rfl, rfl⟩

end Sys2Proof.Machine
end

section
/-! PROOFS. The orders about takes (spec/04, R77 to R83): STOP (O42), TAKE STATUS and RELEASE TAKE (O44), a block freed (O45), the entry to ENDED (O49). -/

namespace Sys2Proof.Machine

/-! ## STOP (R79) -/

/-- The capturing take with one more STOP waiting on it. -/
def State.stopNoted (s : State) (o : OrderRef) (i : Nat) : State := s.setTake i { s.takeAt i with stops := (s.takeAt i).stops ++ [o] }

theorem stopNoted_takeAt {s : State} {i : Nat} (inTable : i < s.takes.entries.length) (o : OrderRef) :
    (s.stopNoted o i).takeAt = Function.update s.takeAt i { s.takeAt i with stops := (s.takeAt i).stops ++ [o] } := takeAt_update rfl inTable

/-- An ending STOPPED that leaves staged records to drain settles nothing yet (R77). -/
theorem endTake_stopped_drains {s : State} {i : Nat} (sampling : (s.takeAt i).sampling = true) (goesOn : (s.takeAt i).endReason = none)
    (unattached : ∀ k : Fin 4, (s.lanes.get k).attached = 0) (staged : s.staging.records ≠ []) (places : s.placesLeft ≠ 0) :
    s.endTake i .stopped = s.takeEnding i .stopped := by
  have ending := takeEnding_unattached sampling unattached .stopped
  have left : (s.takeEnding i .stopped).settleIfDrained i = s.takeEnding i .stopped := by
    have records : (s.takeEnding i .stopped).staging.records = s.staging.records := by rw [ending]
    have room : (s.takeEnding i .stopped).placesLeft = s.placesLeft := by rw [ending]; rfl
    unfold State.settleIfDrained
    rw [records, room, if_neg (by simp [staged, places])]
  unfold State.endTake
  rw [capturing_of_sampling sampling, goesOn, if_neg (by simp)]
  dsimp only
  rw [if_neg (not_waiting_of_sampling sampling), left]

/-- Settles O42: the units are told of the ending, and the drain is left to the writer. -/
theorem stopEndsTake : Obligations.StopEndsTake := by
  intro s o ready clear
  refine ⟨fun noTake => ?_, fun i capturing sampling goesOn unattached staged places => ?_⟩
  · change ∃ t, orderResult (stopOrder o s) o .stop = .next t ∧ _
    unfold stopOrder
    rw [noTake]
    exact orderResult_completed _ ready clear
  have inTable := takeAt_present sampling
  have noted := stopNoted_takeAt inTable o
  have entry : (s.stopNoted o i).takeAt i = { s.takeAt i with stops := (s.takeAt i).stops ++ [o] } := by rw [noted, Function.update_self]
  have sampling' : ((s.stopNoted o i).takeAt i).sampling = true := by rw [entry]; exact sampling
  have ends : stopOrder o s = inFlight ((s.stopNoted o i).takeEnding i .stopped) := by
    rw [← endTake_stopped_drains sampling' (by rw [entry]; exact goesOn) unattached staged places]
    unfold stopOrder
    rw [capturing]
    rfl
  have ending := takeEnding_unattached sampling' unattached .stopped
  have step : exec (.stop o) s = .next ((s.stopNoted o i).takeEnding i .stopped).finish := by
    change orderResult (stopOrder o s) o .stop = _
    rw [ends]
    rfl
  have closes : closedFrom ((s.stopNoted o i).takeEnding i .stopped) ((s.stopNoted o i).takeEnding i .stopped).finish :=
    finish_closes (by rw [ending]; exact ready)
  have table := takeAt_update (s := s.stopNoted o i) (congrArg (fun u => u.takes.entries) ending) (takeAt_present sampling')
  generalize (s.stopNoted o i).takeEnding i .stopped = u at ending step closes table
  have bytes : bytesKept s u.finish storesNothing := bytesKept_of_same (by rw [ending]; rfl) (by rw [ending]; rfl) closes.2
  have others (j : Nat) (other : j ≠ i) : u.finish.takeAt j = s.takeAt j := by
    rw [closes.takeAt, table, Function.update_of_ne other, noted, Function.update_of_ne other]
  refine ⟨u.finish, step, ?_⟩
  rw [closes.takeAt, table, Function.update_self, closes.sampler, closes.staging, closes.writer, closes.disp, closes.gens, closes.monitor, closes.slots,
    closes.lanes, closes.panel, closes.alerts, closes.pool_blocks, closes.pool_free, closes.seq, entry]
  rw [ending] at others bytes ⊢
  refine ⟨rfl, rfl, rfl, rfl, rfl, rfl, rfl, rfl, rfl, rfl, rfl, rfl, rfl, rfl, rfl, others, bytes, fun serving own => ?_⟩
  have released : (s.stopNoted o i).seq.atTakeEnd ((s.stopNoted o i).takeAt i).id = s.seq.released := by
    rw [entry]
    exact if_pos ⟨serving, own⟩
  dsimp only
  rw [released]
  exact ⟨rfl, rfl⟩

/-! ## TAKE STATUS (R80) -/

section
variable {s : State} {p : TakeIdP} (valid : p.takeId ≤ 255)
include valid

theorem takeStatusOrder_none (none : s.statusIndex p.takeId = none) : takeStatusOrder p s = refuse s .noSuchTake := by
  unfold takeStatusOrder
  rw [none, if_neg (by simp [inRange, valid])]

theorem takeStatusOrder_some {i : Nat} (named : s.statusIndex p.takeId = some i) :
    takeStatusOrder p s = ⟨s, some .ok, (s.takeAt i).summary s.writer.filling.isSome⟩ := by
  unfold takeStatusOrder
  rw [named, if_neg (by simp [inRange, valid])]

/-! ## RELEASE TAKE (R81 to R83) -/

variable (positive : 1 ≤ p.takeId)
include positive

theorem releaseTakeOrder_none (none : s.takeIndex p.takeId = none) : releaseTakeOrder p s = refuse s .noSuchTake := by
  unfold releaseTakeOrder
  rw [none, if_neg (by simp [inRange, valid, positive])]

variable {i : Nat} (named : s.takeIndex p.takeId = some i)
include named

theorem releaseTakeOrder_some : releaseTakeOrder p s =
    if (s.takeAt i).capturing then refuse s .wrongState
    else if (s.takeAt i).state = .releasing then accept s
    else accept (((((s.setTake i { s.takeAt i with state := .releasing }).replayCancelOf p.takeId).exportCancel p.takeId).renderCancel p.takeId).emptyIfDone
      i) := by
  unfold releaseTakeOrder
  rw [named, if_neg (by simp [inRange, valid, positive])]

end

theorem not_capturing_of_releasing {t : Take} (h : t.state = .releasing) : t.capturing = false := by
  simp [Take.capturing, h]

theorem not_capturing_of_ended {t : Take} (h : t.state = .ended) : t.capturing = false := by
  simp [Take.capturing, h]

/-- With no reader at work a release cancels no reader's order (R82). -/
theorem cancels_unread {s : State} (replay : s.replay.running = false) (queue : s.exporter.queue = []) (render : s.render.order = none) (id : Nat) :
    ((s.replayCancelOf id).exportCancel id).renderCancel id = s := by
  have replays : s.replayCancelOf id = s := by
    unfold State.replayCancelOf State.replayCancel
    rw [replay, if_neg Bool.false_ne_true, ite_self]
  have exports : s.exportCancel id = s := by
    unfold State.exportCancel
    rw [queue]
  unfold State.renderCancel
  rw [replays, exports, render]
  rfl

@[simp] theorem putAt_putAt {α : Type} (l : List α) (i : Nat) (x y : α) : putAt (putAt l i x) i y = putAt l i y := by
  induction l generalizing i with
  | nil => rfl
  | cons z rest ih =>
    cases i with
    | zero => rfl
    | succ i => exact congrArg (z :: ·) (ih i)

/-- A take that enters RELEASING is EMPTY at once if it holds no block (R83). -/
theorem emptyIfDone_releasing {s : State} {i : Nat} (inTable : i < s.takes.entries.length) :
    (s.setTake i { s.takeAt i with state := .releasing }).emptyIfDone i =
      s.setTake i (if (s.takeAt i).sealedCount = 0 then Take.reset else { s.takeAt i with state := .releasing }) := by
  have entry : (s.setTake i { s.takeAt i with state := .releasing }).takeAt i = { s.takeAt i with state := .releasing } := by
    rw [setTake_takeAt, if_pos ⟨rfl, inTable⟩]
  unfold State.emptyIfDone
  rw [entry]
  by_cases none : (s.takeAt i).sealedCount = 0
  · rw [if_pos ⟨rfl, none⟩, if_pos none]
    unfold State.setTake
    dsimp only
    rw [putAt_putAt]
  · rw [if_neg (fun both => none both.2), if_neg none]

/-- Settles O44: the answers follow the take's state. -/
theorem takeStatusAndRelease : Obligations.TakeStatusAndRelease := by
  intro s o p ready valid
  refine ⟨fun clear => ⟨fun none => ?_, fun i named => ?_⟩, fun clear positive => ⟨fun none => ?_, fun i named => ⟨fun capturing => ?_,
    fun releasing => ?_, fun ended replay queue render => ?_⟩⟩⟩
  · change ∃ t, orderResult (takeStatusOrder p s) o .takeStatus = .next t ∧ _
    rw [takeStatusOrder_none valid none]
    exact ⟨_, rfl, complete_finish (r := []) ready.1 ready.2 ⟨clear.1, by have := clear.2.1; simp; omega, by
      obtain ⟨-, -, halted | ⟨page, outside⟩⟩ := clear
      · exact .inl halted
      · exact .inr ⟨page, by simp; omega⟩⟩⟩
  · change ∃ t, orderResult (takeStatusOrder p s) o .takeStatus = .next t ∧ _
    rw [takeStatusOrder_some valid named]
    exact ⟨_, rfl, complete_finish ready.1 ready.2 clear⟩
  · change ∃ t, orderResult (releaseTakeOrder p s) o .releaseTake = .next t ∧ _
    rw [releaseTakeOrder_none valid positive none]
    exact orderResult_completed _ ready clear
  · change ∃ t, orderResult (releaseTakeOrder p s) o .releaseTake = .next t ∧ _
    rw [releaseTakeOrder_some valid positive named, if_pos capturing]
    exact orderResult_completed _ ready clear
  · change ∃ t, orderResult (releaseTakeOrder p s) o .releaseTake = .next t ∧ _
    rw [releaseTakeOrder_some valid positive named, if_neg (by simp [not_capturing_of_releasing releasing]), if_pos releasing]
    exact orderResult_completed _ ready clear
  · change ∃ t, orderResult (releaseTakeOrder p s) o .releaseTake = .next t ∧ _
    rw [releaseTakeOrder_some valid positive named, if_neg (by simp [not_capturing_of_ended ended]), if_neg (by simp [ended]),
      cancels_unread (s := s.setTake i _) replay queue render, emptyIfDone_releasing (takeIndex_some named).1]
    exact orderResult_completed (u := s.setTake i _) _ ready clear

/-! ## A block freed (R83) -/

/-- The EMPTY entry is left only when the last block goes. -/
theorem emptyIfDone_freeFront {s : State} {i b : Nat} (inTable : i < s.takes.entries.length) (releasing : (s.takeAt i).state = .releasing)
    (held : 0 < (s.takeAt i).sealedCount) :
    (s.freeFront i b).emptyIfDone i =
      (if (s.takeAt i).sealedCount = 1 then (s.freeFront i b).setTake i Take.reset else s.freeFront i b) := by
  have entry : (s.freeFront i b).takeAt i = (s.takeAt i).withoutFront := by
    rw [takeAt_update (s := s) (t := (s.takeAt i).withoutFront) rfl inTable, Function.update_self]
  unfold State.emptyIfDone
  rw [entry]
  refine if_congr ?_ rfl rfl
  change (s.takeAt i).state = .releasing ∧ (s.takeAt i).sealedCount - 1 = 0 ↔ _
  constructor
  · rintro ⟨-, last⟩
    omega
  · exact fun last => ⟨releasing, by omega⟩

theorem frontBlock_held {s : State} {i b : Nat} (h : s.frontBlock i = some b) : 0 < (s.takeAt i).sealedCount := by
  unfold State.frontBlock at h
  split at h
  · cases h
  · omega

/-- A closed step that differs from `s` in pool, take table and page differs from it in pool and take table, the page apart. -/
theorem closedFrom_of_poolTakes {s t : State} {pool : Pool} {takes : TakeTable} {report : Report}
    (h : closedFrom { s with pool := pool, takes := takes, report := report } t) : closedFrom { s with pool := t.pool, takes := t.takes } t := by
  obtain ⟨frame, bytes⟩ := h
  refine ⟨frame.trans ?_, bytes⟩
  rw [frame]

/-- Settles O45: the block is freed to the tail, and the entry's sequence begins one block later. -/
theorem blockFreedGoesToTail : Obligations.BlockFreedGoesToTail := by
  intro s id i b ready named freeable inTable
  obtain ⟨releasing, front⟩ := frontBlock_of_freeable freeable
  have held := frontBlock_held front
  have frees : s.freeOne id = (s.freeFront i b).emptyIfDone i := by
    unfold State.freeOne
    rw [named]
    dsimp only
    rw [freeable]
  have entry : (s.freeFront i b).takeAt i = (s.takeAt i).withoutFront := by
    rw [takeAt_update (s := s) (t := (s.takeAt i).withoutFront) rfl inTable, Function.update_self]
  obtain ⟨takes, does⟩ : ∃ takes, s.freeOne id = { s.freeFront i b with takes := takes } := by
    rw [frees, emptyIfDone_freeFront inTable releasing held]
    split
    · exact ⟨_, rfl⟩
    · exact ⟨_, rfl⟩
  have closes : closedFrom (s.freeOne id) (s.freeOne id).finish := finish_closes (by rw [does]; exact ready)
  refine ⟨(s.freeOne id).finish, rfl, ?_, ?_, ?_, fun last => ?_, fun more => ?_⟩
  · refine closedFrom_of_poolTakes (s := s) (pool := (s.freeFront i b).pool) (takes := takes) (report := (s.freeFront i b).report) ?_
    rw [does] at closes ⊢
    exact closes
  · rw [closes.pool_free, does]
    rfl
  · unfold Pool.owned
    rw [closes.pool_blocks, does]
    simp [State.freeFront, Pool.freeBlock, Pool.rearm]
  · rw [closes.takeAt, frees, emptyIfDone_freeFront inTable releasing held, if_pos last, setTake_takeAt, if_pos ⟨rfl, (putAt_length _ _ _).symm ▸ inTable⟩]
  · rw [closes.takeAt, frees, emptyIfDone_freeFront inTable releasing held, if_neg (by omega), entry]
    rfl

/-! ## The entry to ENDED (R78) -/

theorem renderFinal_unordered {s : State} (h : s.render.order = none) (id : Nat) : s.renderFinal id = s := by
  unfold State.renderFinal State.renderBound
  rw [h]
  rfl

theorem Alerts.raiseIf_raise (a : Alerts) (b : Bool) (c d : Cause) : (a.raiseIf b d).raise c = (a.raise c).raiseIf b d := by
  cases b with
  | false => rfl
  | true => simp [Alerts.raise, Alerts.raiseIf, BitVec.or_assoc, BitVec.or_comm (bit 8 d.index)]

/-- Raising a cause and completing an order do not touch each other. -/
theorem complete_raise (s : State) (o : OrderRef) (kind : OrderKind) (oc : Outcome) (r : List Word64) (c : Cause) :
    (s.complete o kind oc r).raise c = (s.raise c).complete o kind oc r := by
  unfold State.raise State.complete State.completeAs
  dsimp only
  rw [Alerts.raiseIf_raise, Alerts.raiseIf_raise]
  rfl

theorem armOutcome_eq (r : Option EndReason) : armOutcome r = if r = some .filled ∨ r = some .stopped then .ok else .partly := by
  rcases r with _ | _ | _ | _ | _ <;> rfl

/-- Take entry `i` in ENDED, its blocks no longer revocable and TAKE raised, before its ARM completes. -/
def State.endMarked (s : State) (i : Nat) : State :=
  { s.setTake i (s.endedEntry i) with pool := s.pool.unrevocable (s.takeAt i).id, alerts := s.alerts.raise .take }

/-- With no render bound, what is left of an entry to ENDED is the completion. -/
theorem complete_raise_renderFinal {s : State} (render : s.render.order = none) (o : OrderRef) (kind : OrderKind) (oc : Outcome) (r : List Word64)
    (c : Cause) (id : Nat) : ((s.complete o kind oc r).raise c).renderFinal id = (s.raise c).complete o kind oc r := by
  rw [complete_raise]
  exact renderFinal_unordered (s := (s.raise c).complete o kind oc r) render id

/-- The entry to ENDED of a take that no STOP waits on and no render is bound to. -/
theorem enterEnded_armed {s : State} {i : Nat} {o : OrderRef} (arm : (s.takeAt i).armOrder = some o) (stops : (s.takeAt i).stops = [])
    (render : s.render.order = none) :
    s.enterEnded i = (s.endMarked i).complete o .arm (armOutcome (s.takeAt i).endReason) ((s.endedEntry i).summary false) := by
  unfold State.enterEnded State.completeArm
  dsimp only
  rw [arm, stops]
  exact complete_raise_renderFinal (s := { s.setTake i (s.endedEntry i) with pool := s.pool.unrevocable (s.takeAt i).id }) render _ _ _ _ _ _

/-- Settles O49: the ARM order is completed with the summary of the ENDED entry. -/
theorem takeEndsCompletesArm : Obligations.TakeEndsCompletesArm := by
  intro s i o ready capturing inTable drained arm stops render clear
  have ends : s.endIfReady = (s.endMarked i).complete o .arm (armOutcome (s.takeAt i).endReason) ((s.endedEntry i).summary false) := by
    unfold State.endIfReady
    rw [capturing]
    dsimp only
    rw [if_pos drained, enterEnded_armed arm stops render]
  have done := complete_finish (u := s.endMarked i) (o := o) (kind := .arm) (oc := armOutcome (s.takeAt i).endReason)
    (r := (s.endedEntry i).summary false) ready.1 ready.2 clear
  have table : (s.endMarked i).takeAt = Function.update s.takeAt i (s.endedEntry i) := takeAt_update rfl inTable
  refine ⟨s.endIfReady.finish, rfl, ?_⟩
  rw [ends]
  have entry := (done.takeAt i).trans (congrFun table i)
  rw [Function.update_self] at entry
  rw [entry, ← armOutcome_eq]
  refine ⟨?_, rfl, rfl, fun j other => ?_⟩
  · rw [done.takes]
    exact done
  · rw [done.takeAt, table, Function.update_of_ne other]

end Sys2Proof.Machine
end

section
/-! PROOFS. FORCE and the trigger (spec/04, R73, R75; O43): what the decode lanes and the record stream leave alone, the trigger, and the order. -/

namespace Sys2Proof.Machine

/-! ## Causes once raised -/

theorem Alerts.raise_of_raised {a : Alerts} {n : Nat} (h : a.causes.getLsbD n = true) (c : Cause) : (a.raise c).causes.getLsbD n = true := by
  simp [Alerts.raise, h]

theorem Alerts.raiseIf_of_raised {a : Alerts} {n : Nat} (h : a.causes.getLsbD n = true) (b : Bool) (c : Cause) :
    (a.raiseIf b c).causes.getLsbD n = true := by
  cases b with
  | false => exact h
  | true => exact Alerts.raise_of_raised h c

theorem Alerts.raise_take (a : Alerts) : (a.raise .take).causes.getLsbD Cause.take.index = true := by
  have own : (bit 8 Cause.take.index).getLsbD Cause.take.index = true := by decide
  simp [Alerts.raise, own]

/-! ## What the decode lanes and the record stream leave alone -/

/-- `u` comes from `s` by records inserted into the stream and by what the lanes' decoders give out: of the sampler only the stream time, of the sequencer only
its waiting events, and of the pods, the pool, the generators and the panel nothing differs. -/
structure LaneWork (s u : State) : Prop where
  frame : u = { s with
    shared := u.shared, failPlan := u.failPlan, lanes := u.lanes, staging := u.staging, takes := u.takes, alerts := u.alerts, report := u.report
    sampler := { s.sampler with streamTime := u.sampler.streamTime }
    seq := { s.seq with events := u.seq.events } }
  trigger : ∀ j, (u.takeAt j).trigger = (s.takeAt j).trigger
  raised : ∀ n, s.alerts.causes.getLsbD n = true → u.alerts.causes.getLsbD n = true

theorem LaneWork.refl (s : State) : LaneWork s s := ⟨rfl, fun _ => rfl, fun _ => id⟩

theorem LaneWork.trans {s u v : State} (h : LaneWork s u) (g : LaneWork u v) : LaneWork s v where
  frame := g.frame.trans (by rw [h.frame])
  trigger j := (g.trigger j).trans (h.trigger j)
  raised n set := g.raised n (h.raised n set)

theorem laneWork_setLaneAt (s : State) (k : Fin 4) (l : Lane) : LaneWork s (s.setLaneAt k l) := ⟨rfl, fun _ => rfl, fun _ => id⟩

theorem laneWork_offer (s : State) (i : Nat) (t : Tick) (b : RecBody) : LaneWork s (s.offer i t b) where
  frame := rfl
  trigger j := by
    obtain ⟨n, entry⟩ := offer_takeAt s i t b j
    rw [entry]
  raised _ set := Alerts.raiseIf_of_raised set _ _

theorem laneWork_insert (s : State) (t : Tick) (b : RecBody) : LaneWork s (s.insert t b) := by
  unfold State.insert
  split
  · exact .refl s
  · exact laneWork_offer s _ t b

theorem laneWork_noteLane (s : State) (k : Fin 4) : LaneWork s (s.noteLane k) := by
  unfold State.noteLane
  split
  · exact .refl s
  · next i _ =>
    exact ⟨rfl, takeAt_putAt_same (t := { s.takeAt i with laneRecords := (s.takeAt i).laneRecords ||| bit 4 k.val }) rfl Take.trigger rfl, fun _ => id⟩

theorem laneWork_insertFrame (s : State) (k : Fin 4) (t : Tick) (b : RecBody) : LaneWork s (s.insertFrame k t b) :=
  (laneWork_noteLane s k).trans (laneWork_insert _ t b)

theorem laneWork_ringWrite (s : State) (k : Fin 4) (units : List Word64) : LaneWork s (s.ringWrite k units) :=
  ⟨rfl, fun _ => rfl, fun _ set => Alerts.raiseIf_of_raised (Alerts.raiseIf_of_raised set _ _) _ _⟩

theorem laneWork_ringOffer (s : State) (k : Fin 4) (live : Bool) (units : List Word64) : LaneWork s (s.ringOffer k live units) := by
  unfold State.ringOffer
  dsimp only
  split
  · exact laneWork_setLaneAt s k _
  split
  · split
    · exact laneWork_setLaneAt s k _
    · exact laneWork_setLaneAt s k _
  · exact laneWork_ringWrite s k units

theorem laneWork_emit (s : State) (k : Fin 4) (live : Bool) (t : Tick) (e : Emission) : LaneWork s (s.emit k live t e) := by
  have related : LaneWork s (s.relationsToSeq k (relationsOf s.slots k e.fields)) := ⟨rfl, fun _ => rfl, fun _ => id⟩
  unfold State.emit
  dsimp only
  have offered := related.trans (laneWork_ringOffer _ k live
    (frameRecord k (s.lanes.get k).config.proto (s.lanes.get k).lostBefore (!live) t (relationsOf s.slots k e.fields) e))
  split
  · exact offered.trans (laneWork_insertFrame _ k t _)
  · exact offered.trans (laneWork_setLaneAt _ k _)

theorem laneWork_laneOut (k : Fin 4) (live : Bool) (t : Tick) (x : State × BitVec 7) (o : LaneOut) : LaneWork x.1 (State.laneOut k live t x o).1 := by
  cases o with
  | opened =>
    unfold State.laneOut
    dsimp only
    split
    · exact laneWork_insertFrame _ _ _ _
    · exact .refl _
  | raised e => exact .refl _
  | emitted e => exact laneWork_emit x.1 k live t e

theorem laneWork_laneOuts (s : State) (k : Fin 4) (live : Bool) (t : Tick) (d : DecStep) : LaneWork s (s.laneOuts k live t d).1 := by
  have folded (outs : List LaneOut) (x : State × BitVec 7) : LaneWork x.1 (outs.foldl (State.laneOut k live t) x).1 := by
    induction outs generalizing x with
    | nil => exact .refl _
    | cons o rest ih => exact (laneWork_laneOut k live t x o).trans (ih _)
  exact (laneWork_setLaneAt s k _).trans (folded d.outs (_, 0))

theorem laneWork_raiseExcs (s : State) (k : Fin 4) (excs : BitVec 7) : LaneWork s (s.raiseExcs k excs) :=
  ⟨rfl, fun _ => rfl, fun _ set => Alerts.raiseIf_of_raised set _ _⟩

theorem laneWork_laneGap (s : State) (k : Fin 4) (live : Bool) (t : Tick) : LaneWork s (s.laneGap k live t) :=
  (laneWork_laneOuts s k live t _).trans (laneWork_raiseExcs _ k _)

theorem laneWork_liveGap (s : State) (t : Tick) : LaneWork s (s.liveGap t) := by
  have folded (l : List (Fin 4)) (s : State) :
      LaneWork s (l.foldl (fun s k => if (s.lanes.get k).state = .attached then s.laneGap k true t else s) s) := by
    induction l generalizing s with
    | nil => exact .refl s
    | cons k rest ih =>
      have one : LaneWork s (if (s.lanes.get k).state = .attached then s.laneGap k true t else s) := by
        split
        · exact laneWork_laneGap s k true t
        · exact .refl s
      exact one.trans (ih _)
  exact folded fourOrder s

/-! ## The trigger (R73) -/

/-- Take entry `i` in POSTTRIG with its trigger position, before the MARK. -/
def State.posttrigged (s : State) (i : Nat) (src : TrigSource) (t : Tick) : State :=
  s.setTake i { s.takeAt i with state := .posttrig, trigger := some ⟨t, src, none, s.sampler.state == .waking⟩ }

/-- The sequencer that serves take `id` is DONE at its trigger. -/
def Sequencer.triggered (q : Sequencer) (id : Nat) : Sequencer :=
  if q.state = .running ∧ q.serving = .capture ∧ q.servingTake = id then q.finished else q

/-- The trigger with the MARK in the stream, before a sampler in WATCH has the lanes told and the pods woken. -/
def State.marked (s : State) (i : Nat) (src : TrigSource) (stage : Nat) (t : Tick) : State :=
  let s2 := (s.posttrigged i src t).insert t (.mark stage false)
  { s2 with seq := s2.seq.triggered (s.takeAt i).id, sampler := s2.sampler.triggered, alerts := s2.alerts.raise .take }

theorem trigger_of_watch {s : State} (h : s.sampler.state = .watch) (i : Nat) (src : TrigSource) (stage : Nat) (t : Tick) :
    s.trigger i src stage t = ((s.marked i src stage t).liveGap t).wakePods := if_pos h

theorem trigger_of_not_watch {s : State} (h : s.sampler.state ≠ .watch) (i : Nat) (src : TrigSource) (stage : Nat) (t : Tick) :
    s.trigger i src stage t = s.marked i src stage t := if_neg h

/-- A take of the table that a trigger of source `src` in the interval of time `t` puts in POSTTRIG. -/
structure Triggered (s : State) (i : Nat) (src : TrigSource) (t : Tick) (u : State) : Prop where
  frame : u = { s with
    shared := u.shared, failPlan := u.failPlan, lanes := u.lanes, staging := u.staging, takes := u.takes, alerts := u.alerts, report := u.report
    pods := u.pods
    sampler := { s.sampler.triggered with streamTime := u.sampler.streamTime }
    seq := { s.seq.triggered (s.takeAt i).id with events := u.seq.events } }
  state : (u.takeAt i).state = .posttrig
  trigger : (u.takeAt i).trigger = some ⟨t, src, none, s.sampler.state == .waking⟩
  raised : u.alerts.causes.getLsbD Cause.take.index = true

theorem triggered_events (q : Sequencer) (e : SeqEvents) (id : Nat) :
    ∃ e', Sequencer.triggered { q with events := e } id = { q.triggered id with events := e' } := by
  unfold Sequencer.triggered
  dsimp only
  split
  · exact ⟨_, rfl⟩
  · exact ⟨_, rfl⟩

theorem marked_triggered {s : State} {i : Nat} (inTable : i < s.takes.entries.length) (src : TrigSource) (stage : Nat) (t : Tick) :
    Triggered s i src t (s.marked i src stage t) := by
  have work := laneWork_insert (s.posttrigged i src t) t (.mark stage false)
  have states := state_of_places (insert_places (s.posttrigged i src t) t (.mark stage false)) i
  have entry : (s.posttrigged i src t).takeAt i =
      { s.takeAt i with state := .posttrig, trigger := some ⟨t, src, none, s.sampler.state == .waking⟩ } := by
    unfold State.posttrigged
    rw [setTake_takeAt, if_pos ⟨rfl, inTable⟩]
  obtain ⟨frame, trigger, -⟩ := work
  refine ⟨?_, ?_, ?_, Alerts.raise_take _⟩
  · unfold State.marked
    dsimp only
    generalize (s.posttrigged i src t).insert t (.mark stage false) = s2 at frame ⊢
    obtain ⟨e, waiting⟩ := triggered_events s.seq s2.seq.events (s.takeAt i).id
    have seq : s2.seq.triggered (s.takeAt i).id = { s.seq.triggered (s.takeAt i).id with events := e } := by
      rw [frame]
      exact waiting
    rw [seq, frame]
    rfl
  · exact states.trans (congrArg Take.state entry)
  · exact (trigger i).trans (congrArg Take.trigger entry)

theorem Triggered.lanes_told {s u v : State} {i : Nat} {src : TrigSource} {t : Tick} (h : Triggered s i src t u) (told : LaneWork u v)
    (places : v.places = u.places) : Triggered s i src t v.wakePods where
  frame := by
    have frame := told.frame
    rw [h.frame] at frame
    unfold State.wakePods
    rw [frame]
  state := (state_of_places places i).trans h.state
  trigger := (told.trigger i).trans h.trigger
  raised := told.raised _ h.raised

/-- What the trigger leaves. -/
theorem trigger_triggered {s : State} {i : Nat} (inTable : i < s.takes.entries.length) (src : TrigSource) (stage : Nat) (t : Tick) :
    Triggered s i src t (s.trigger i src stage t) := by
  have marked := marked_triggered inTable src stage t
  by_cases watch : s.sampler.state = .watch
  · rw [trigger_of_watch watch]
    exact marked.lanes_told (laneWork_liveGap _ t) (liveGap_places _ t)
  · rw [trigger_of_not_watch watch]
    exact marked

/-- Outside WATCH the lanes, the pods and memory are not touched. -/
theorem trigger_stands {s : State} (h : s.sampler.state ≠ .watch) (i : Nat) (src : TrigSource) (stage : Nat) (t : Tick) :
    (s.trigger i src stage t).lanes = s.lanes ∧ (s.trigger i src stage t).pods = s.pods ∧ (s.trigger i src stage t).shared = s.shared := by
  have inserted (u : State) (b : RecBody) : (u.insert t b).lanes = u.lanes ∧ (u.insert t b).pods = u.pods ∧ (u.insert t b).shared = u.shared := by
    unfold State.insert
    split
    · exact ⟨rfl, rfl, rfl⟩
    · exact ⟨rfl, rfl, rfl⟩
  rw [trigger_of_not_watch h]
  exact inserted (s.posttrigged i src t) _

/-! ## FORCE (R75) -/

/-- An operation that keeps memory and the failures in store leaves the part ready. -/
theorem Keeps.ready {s u : State} (kept : Keeps s u) (ready : s.ready) : u.ready := ⟨kept.plan ready.1, kept.shared ready.2⟩

theorem forceOrder_some {s : State} {i : Nat} (capturing : s.capIndex = some i) :
    forceOrder s = if (s.takeAt i).triggerable then accept (s.trigger i .force (s.runningStage (s.takeAt i).id) s.intervalTime)
      else refuse s .wrongState := by
  unfold forceOrder
  rw [capturing]

/-- Settles O43: a take in PRETRIG that is not ending is triggered. -/
theorem forceTriggers : Obligations.ForceTriggers := by
  intro s o ready clear
  refine ⟨fun noTake => ?_, fun i capturing => ⟨fun notReady => ?_, fun pretrig goesOn => ?_⟩⟩
  · change ∃ t, orderResult (forceOrder s) o .force = .next t ∧ _
    unfold forceOrder
    rw [noTake]
    exact orderResult_completed _ ready clear
  · change ∃ t, orderResult (forceOrder s) o .force = .next t ∧ _
    have not : ¬ (s.takeAt i).triggerable = true := by
      intro triggerable
      obtain ⟨pretrig, goesOn⟩ := Take.triggerable_state triggerable
      simp [pretrig, goesOn] at notReady
    rw [forceOrder_some capturing, if_neg not]
    exact orderResult_completed _ ready clear
  have triggerable : (s.takeAt i).triggerable = true := by simp [Take.triggerable, pretrig, goesOn]
  have triggered := trigger_triggered (capIndex_some capturing).1 .force (s.runningStage (s.takeAt i).id) s.intervalTime
  have kept := trigger_keeps s i .force (s.runningStage (s.takeAt i).id) s.intervalTime (Keeps.refl s)
  have stands (awake : s.sampler.state ≠ .watch) := trigger_stands awake i .force (s.runningStage (s.takeAt i).id) s.intervalTime
  have answer : forceOrder s = accept (s.trigger i .force (s.runningStage (s.takeAt i).id) s.intervalTime) := by
    rw [forceOrder_some capturing, if_pos triggerable]
  generalize s.trigger i .force (s.runningStage (s.takeAt i).id) s.intervalTime = u at triggered kept stands answer
  obtain ⟨frame, state, trigger, raised⟩ := triggered
  have disp : u.disp = s.disp := by rw [frame]
  have clear' : u.recordClear o .force 0 := by
    unfold State.recordClear
    rwa [disp]
  obtain ⟨t, step, done⟩ := orderResult_completed (o := o) (kind := .force) .ok (kept.ready ready) clear'
  have outcome := done.2.1
  have bytes := done.2.2.2
  have cursor : u.recordState o = s.recordState o := by
    unfold State.recordState
    rw [disp]
  rw [cursor] at outcome
  refine ⟨t, (congrArg (fun r => orderResult r o .force) answer).trans step, outcome, ?_⟩
  rw [done.takeAt, done.alerts, done.seq, done.sampler, done.gens, done.monitor, done.slots, done.panel, done.pool_blocks, done.pool_free, done.lanes, done.pods]
  refine ⟨state, trigger, Alerts.raiseIf_of_raised raised _ _, fun running serving own => ?_, fun watch => ?_, by rw [frame], by rw [frame], by rw [frame],
    by rw [frame], by rw [frame], by rw [frame], fun awake => ?_⟩
  · have finished : s.seq.triggered (s.takeAt i).id = s.seq.finished := if_pos ⟨running, serving, own⟩
    rw [frame, finished]
    rfl
  · rw [frame]
    exact if_pos watch
  · obtain ⟨lanes, pods, shared⟩ := stands awake
    exact ⟨lanes, pods, bytesKept_of_same shared disp bytes⟩

end Sys2Proof.Machine
end

section
/-! PROOFS. The trigger sequencer by itself (spec/05, R94 to R101): occurrences, the paths of a stage, and what each action does (the first half of O60). -/

namespace Sys2Proof.Machine

/-! ## Occurrences (R94) -/

theorem Stage.condition_iff {st : Stage} {x : SeqInput} :
    st.condition x = true ↔ if st.anyOf then ∃ a ∈ st.terms, Term.holds x a = true else ∀ a ∈ st.terms, Term.holds x a = true := by
  unfold Stage.condition
  split
  · exact List.any_eq_true
  · exact List.all_eq_true

theorem Stage.occurrence_iff {st : Stage} {x : SeqInput} {before : Bool} :
    st.occurrence x before = true ↔
      st.condition x = true ∧ (before = false ∨ ∃ a ∈ st.terms, a.isEvent = true ∧ Term.holds x a = true) := by
  simp [Stage.occurrence, Stage.eventHolds]

/-! ## Actions (R98, R99, R101) -/

/-- An action moves the sequencer between stages, and nothing else. -/
theorem act_frame (q : Sequencer) (k : Nat) (search : Bool) (t : Tick) (a : StageAction) (target resume : Nat) :
    ∃ stage count heldBefore firstPending startTime stack stackLost stackEmpty,
      (q.act k search t a target resume).seq = { q with
        stage := stage, count := count, heldBefore := heldBefore, firstPending := firstPending, startTime := startTime, stack := stack
        stackLost := stackLost, stackEmpty := stackEmpty } := by
  cases a with
  | next => exact ⟨_, _, _, _, _, _, _, _, rfl⟩
  | enter => exact ⟨_, _, _, _, _, _, _, _, rfl⟩
  | restart => exact ⟨_, _, _, _, _, _, _, _, rfl⟩
  | fire =>
    cases search with
    | false => exact ⟨_, _, _, _, _, _, _, _, rfl⟩
    | true => exact ⟨_, _, _, _, _, _, _, _, rfl⟩
  | ret =>
    cases stack : q.stack with
    | nil => exact ⟨_, _, _, _, _, _, _, _, by simp only [Sequencer.act, stack]; rfl⟩
    | cons n rest => exact ⟨_, _, _, _, _, _, _, _, by simp only [Sequencer.act, stack]; rfl⟩

/-- In a capture run an action gives out a FIRE or nothing. -/
theorem act_outs (q : Sequencer) (k : Nat) (t : Tick) (a : StageAction) (target resume : Nat) :
    (q.act k false t a target resume).outs = if a = .fire then [.fire q.stage] else [] := by
  cases a with
  | next => rfl
  | enter => rfl
  | fire => rfl
  | restart => rfl
  | ret =>
    cases stack : q.stack with
    | nil => simp only [Sequencer.act, stack]; rfl
    | cons n rest => simp only [Sequencer.act, stack]; rfl

/-- Every action but FIRE enters a stage, first evaluated in the next interval (R98). -/
theorem act_enters {q : Sequencer} {a : StageAction} (h : a ≠ .fire) (k : Nat) (t : Tick) (target resume : Nat) :
    (q.act k false t a target resume).seq.count = 0 ∧ (q.act k false t a target resume).seq.heldBefore = false ∧
      (q.act k false t a target resume).seq.firstPending = true ∧ (q.act k false t a target resume).seq.startTime = tickAdd t (2 ^ k) := by
  cases a with
  | next => exact ⟨rfl, rfl, rfl, rfl⟩
  | enter => exact ⟨rfl, rfl, rfl, rfl⟩
  | restart => exact ⟨rfl, rfl, rfl, rfl⟩
  | fire => exact absurd rfl h
  | ret =>
    cases stack : q.stack with
    | nil => simp only [Sequencer.act, stack]; exact ⟨rfl, rfl, rfl, rfl⟩
    | cons n rest => simp only [Sequencer.act, stack]; exact ⟨rfl, rfl, rfl, rfl⟩

theorem act_ret_cons {q : Sequencer} {n : Nat} {rest : List Nat} (h : q.stack = n :: rest) (k : Nat) (search : Bool) (t : Tick) (target resume : Nat) :
    (q.act k search t .ret target resume).seq = { q with stack := rest }.enter k t n := by
  unfold Sequencer.act
  rw [h]

theorem act_ret_nil {q : Sequencer} (h : q.stack = []) (k : Nat) (search : Bool) (t : Tick) (target resume : Nat) :
    (q.act k search t .ret target resume).seq = { q with stackEmpty := true }.enter k t 0 := by
  unfold Sequencer.act
  rw [h]

/-- RETURN touches no STACK LOST flag. -/
theorem act_ret_stackLost (q : Sequencer) (k : Nat) (search : Bool) (t : Tick) (target resume : Nat) :
    (q.act k search t .ret target resume).seq.stackLost = q.stackLost := by
  cases stack : q.stack with
  | nil => rw [act_ret_nil stack]; rfl
  | cons n rest => rw [act_ret_cons stack]; rfl

/-! ## One interval evaluated (R94 to R97) -/

/-- The sequencer with its stage evaluated in the interval of time `t`, before the stage resolves. -/
def Sequencer.judged (q : Sequencer) (t : Tick) (levels known : Chans) : Sequencer :=
  let occ := q.cur.occurrence (q.input levels known) q.heldBefore
  { q with
    heldBefore := q.cur.condition (q.input levels known)
    prevLevels := levels
    prevKnown := known
    inGap := false
    firstPending := false
    count := if occ then q.count + 1 else q.count
    events := SeqEvents.none
    evaluated := some ⟨t, levels, known, q.prevLevels, q.prevKnown, q.heldBefore, q.events, occ⟩ }

/-- The count of the current stage is reached with this interval's vector. -/
def Sequencer.reaches (q : Sequencer) (levels known : Chans) : Bool :=
  q.cur.occurrence (q.input levels known) q.heldBefore && q.count + 1 == q.cur.count

section
variable {q : Sequencer} {k : Nat} {t : Tick} {levels known : Chans} (now : q.ahead k t = false)
include now

theorem evaluate_stands {search : Bool} (short : q.reaches levels known = false) : q.evaluate k search t levels known = ⟨q.judged t levels known, []⟩ := by
  unfold Sequencer.evaluate
  rw [now, if_neg Bool.false_ne_true]
  exact if_neg (by simpa [Sequencer.reaches] using short)

theorem evaluate_resolves {search : Bool} (reached : q.reaches levels known = true) :
    q.evaluate k search t levels known = (q.judged t levels known).resolve k search t := by
  unfold Sequencer.evaluate
  rw [now, if_neg Bool.false_ne_true]
  exact if_pos reached

end

theorem judged_early (q : Sequencer) (t : Tick) (levels known : Chans) : (q.judged t levels known).early t = q.early t := rfl

theorem early_iff {q : Sequencer} {t : Tick} : q.early t = true ↔ q.cur.winMin ≠ 0 ∧ ticksFrom q.startTime t < q.cur.winMin := by
  simp [Sequencer.early]

/-- A stage that resolves late enough takes its met path, with its mark and its stimulus (R96). -/
theorem resolve_met {q : Sequencer} {t : Tick} (met : q.early t = false) (k : Nat) (search : Bool) :
    q.resolve k search t = ⟨(q.act k search t q.cur.metAction q.cur.metTarget q.cur.resume).seq,
      q.markOut search ++ q.stimOut search ++ (q.act k search t q.cur.metAction q.cur.metTarget q.cur.resume).outs⟩ := by
  unfold Sequencer.resolve
  rw [met, if_neg Bool.false_ne_true]

/-- Before the window minimum it takes its early path, with its mark alone (R96, R101). -/
theorem resolve_early {q : Sequencer} {t : Tick} (early : q.early t = true) (k : Nat) (search : Bool) :
    q.resolve k search t = ⟨(q.act k search t q.cur.earlyAction q.cur.earlyTarget 0).seq,
      q.markOut search ++ (q.act k search t q.cur.earlyAction q.cur.earlyTarget 0).outs⟩ := by
  unfold Sequencer.resolve
  rw [early, if_pos rfl]

/-- Resolving a stage moves the sequencer between stages, and nothing else. -/
theorem resolve_frame (q : Sequencer) (k : Nat) (search : Bool) (t : Tick) :
    ∃ stage count heldBefore firstPending startTime stack stackLost stackEmpty,
      (q.resolve k search t).seq = { q with
        stage := stage, count := count, heldBefore := heldBefore, firstPending := firstPending, startTime := startTime, stack := stack
        stackLost := stackLost, stackEmpty := stackEmpty } := by
  cases early : q.early t with
  | false =>
    rw [resolve_met early]
    exact act_frame _ _ _ _ _ _ _
  | true =>
    rw [resolve_early early]
    exact act_frame _ _ _ _ _ _ _

/-- What every evaluation leaves of the vector and of the run: the vector is the previous one, no event waits, and the claim stands. -/
theorem evaluate_kept {q : Sequencer} {k : Nat} {t : Tick} (now : q.ahead k t = false) (search : Bool) (levels known : Chans) :
    let r := q.evaluate k search t levels known
    (r.seq.prevLevels = levels ∧ r.seq.prevKnown = known ∧ r.seq.inGap = false ∧ r.seq.state = q.state ∧ r.seq.stages = q.stages) ∧
      r.seq.events = SeqEvents.none ∧ r.seq.serving = q.serving ∧ r.seq.servingTake = q.servingTake := by
  dsimp only
  cases reached : q.reaches levels known with
  | false =>
    rw [evaluate_stands now reached]
    exact ⟨⟨rfl, rfl, rfl, rfl, rfl⟩, rfl, rfl, rfl⟩
  | true =>
    obtain ⟨stage, count, heldBefore, firstPending, startTime, stack, stackLost, stackEmpty, frame⟩ := resolve_frame (q.judged t levels known) k search t
    rw [evaluate_resolves now reached, frame]
    exact ⟨⟨rfl, rfl, rfl, rfl, rfl⟩, rfl, rfl, rfl⟩

/-- The met path of a stage, action by action (R99). -/
theorem takesMetPath_of_met {q : Sequencer} {k : Nat} {t : Tick} {levels known : Chans} (now : q.ahead k t = false)
    (reached : q.reaches levels known = true) (met : q.early t = false) : takesMetPath q k t (q.evaluate k false t levels known) := by
  have cur : (q.judged t levels known).cur = q.cur := rfl
  rw [evaluate_resolves now reached, resolve_met ((judged_early _ _ _ _).trans met), cur]
  refine ⟨?_, fun goesOn => act_enters goesOn k t _ _, ?_⟩
  · simp only [act_outs, Sequencer.markOut, Sequencer.stimOut, Bool.not_false, Bool.and_true]
    rfl
  · cases action : q.cur.metAction with
    | next => exact ⟨rfl, rfl, rfl, rfl⟩
    | enter =>
      refine ⟨rfl, rfl, ?_, rfl⟩
      change (q.stackLost || decide (3 ≤ q.stack.length)) = true ↔ _
      simp
    | ret =>
      refine ⟨act_ret_stackLost _ _ _ _ _ _, fun n rest stack => ?_, fun stack => ?_⟩
      · rw [act_ret_cons (q := q.judged t levels known) stack]
        exact ⟨rfl, rfl, rfl⟩
      · rw [act_ret_nil (q := q.judged t levels known) stack]
        exact ⟨rfl, stack, rfl⟩
    | fire => exact ⟨rfl, rfl, rfl, rfl⟩
    | restart => exact ⟨rfl, rfl, rfl, rfl⟩

/-- What the early path of a stage gives out: its mark and a FIRE, no stimulus (R101). -/
theorem mem_outs_of_early {q : Sequencer} {k : Nat} {t : Tick} {levels known : Chans} (now : q.ahead k t = false)
    (reached : q.reaches levels known = true) (early : q.early t = true) (a : SeqOut) :
    a ∈ (q.evaluate k false t levels known).outs ↔ (q.cur.mark = true ∧ a = .markStage q.stage) ∨ (q.cur.earlyAction = .fire ∧ a = .fire q.stage) := by
  have cur : (q.judged t levels known).cur = q.cur := rfl
  have stage : (q.judged t levels known).stage = q.stage := rfl
  rw [evaluate_resolves now reached, resolve_early ((judged_early _ _ _ _).trans early), cur]
  dsimp only
  rw [List.mem_append, act_outs, Sequencer.markOut, cur, stage, List.mem_ite_nil_right, List.mem_ite_nil_right, List.mem_singleton, List.mem_singleton,
    Bool.not_false, Bool.and_true]

/-- What the early path does of NEXT and RESTART (R101). -/
theorem evaluate_early {q : Sequencer} {k : Nat} {t : Tick} {levels known : Chans} (now : q.ahead k t = false)
    (reached : q.reaches levels known = true) (early : q.early t = true) :
    (q.evaluate k false t levels known).seq = ((q.judged t levels known).act k false t q.cur.earlyAction q.cur.earlyTarget 0).seq := by
  rw [evaluate_resolves now reached, resolve_early ((judged_early _ _ _ _).trans early)]
  rfl

theorem reaches_iff {q : Sequencer} {levels known : Chans} :
    q.reaches levels known = true ↔ q.cur.occurrence (q.input levels known) q.heldBefore = true ∧ q.count + 1 = q.cur.count := by
  simp [Sequencer.reaches]

/-- Until its count the stage stands (R95). -/
theorem evaluate_short {q : Sequencer} {k : Nat} {t : Tick} {levels known : Chans} (now : q.ahead k t = false)
    (short : ¬ (q.cur.occurrence (q.input levels known) q.heldBefore = true ∧ q.count + 1 = q.cur.count)) :
    q.evaluate k false t levels known = ⟨q.judged t levels known, []⟩ :=
  evaluate_stands now (Bool.eq_false_iff.mpr (fun reached => short (reaches_iff.mp reached)))

/-- The first half of O60: one interval of the sequencer by itself. -/
theorem evaluate_interval (q : Sequencer) (k : Nat) (t : Tick) (levels known : Chans) (now : q.ahead k t = false) :
    let occurs := q.cur.occurrence (q.input levels known) q.heldBefore = true
    let r := q.evaluate k false t levels known
    (¬ occurs ∨ q.count + 1 ≠ q.cur.count →
      r.outs = [] ∧ r.seq.stage = q.stage ∧ (r.seq.heldBefore = true ↔ q.cur.condition (q.input levels known) = true) ∧
        (occurs → r.seq.count = q.count + 1) ∧ (¬ occurs → r.seq.count = q.count) ∧ r.seq.startTime = q.startTime ∧ r.seq.firstPending = false ∧
        r.seq.stack = q.stack ∧ r.seq.stackLost = q.stackLost ∧ r.seq.stackEmpty = q.stackEmpty) ∧
    (occurs → q.count + 1 = q.cur.count → ¬ q.early t = true → takesMetPath q k t r) ∧
    (occurs → q.count + 1 = q.cur.count → q.early t = true →
      (∀ a ∈ r.outs, a = .markStage q.stage ∨ a = .fire q.stage) ∧ (SeqOut.markStage q.stage ∈ r.outs ↔ q.cur.mark = true) ∧
      (SeqOut.fire q.stage ∈ r.outs ↔ q.cur.earlyAction = .fire) ∧
      (q.cur.earlyAction = .next → r.seq.stage = q.cur.earlyTarget ∧ r.seq.stack = q.stack ∧ r.seq.startTime = tickAdd t (2 ^ k)) ∧
      (q.cur.earlyAction = .restart → r.seq.stage = 0 ∧ r.seq.stack = [] ∧ r.seq.startTime = tickAdd t (2 ^ k))) := by
  dsimp only
  refine ⟨fun short => ?_, fun occurs count met =>
    takesMetPath_of_met now (reaches_iff.mpr ⟨occurs, count⟩) (Bool.eq_false_iff.mpr met), fun occurs count early => ?_⟩
  · rw [evaluate_short now (by tauto)]
    exact ⟨rfl, rfl, Iff.rfl, fun occurs => if_pos occurs, fun not => if_neg not, rfl, rfl, rfl, rfl, rfl⟩
  · have reached := reaches_iff.mpr ⟨occurs, count⟩
    simp only [mem_outs_of_early now reached early]
    refine ⟨fun a out => ?_, by simp, by simp, fun next => ?_, fun restart => ?_⟩
    · tauto
    · rw [evaluate_early now reached early, next]
      exact ⟨rfl, rfl, rfl⟩
    · rw [evaluate_early now reached early, restart]
      exact ⟨rfl, rfl, rfl⟩

end Sys2Proof.Machine
end

section
/-! PROOFS. The trigger sequencer in the part (spec/05, R73, R100, R104; O60): a sample interval of a capture run with no lane attached. -/

namespace Sys2Proof.Machine

/-! ## A record inserted into the stream -/

/-- `u` is `s` with records offered to staging: nothing leaves the FIFO, and of the takes only the lost records may differ. -/
structure Inserted (s u : State) : Prop where
  frame : u = { s with sampler := u.sampler, staging := u.staging, takes := u.takes, alerts := u.alerts, report := u.report }
  entry : ∀ j, ∃ n, u.takeAt j = { s.takeAt j with lost := n }
  records : ∀ x ∈ s.staging.records, x ∈ u.staging.records
  raised : ∀ n, s.alerts.causes.getLsbD n = true → u.alerts.causes.getLsbD n = true

theorem Inserted.work {s u : State} (h : Inserted s u) : CaptureWork s u := ⟨h.frame.trans (by rw [h.frame])⟩

theorem inserted_refl (s : State) : Inserted s s := ⟨rfl, fun _ => ⟨_, rfl⟩, fun _ => id, fun _ => id⟩

theorem inserted_insert (s : State) (t : Tick) (b : RecBody) : Inserted s (s.insert t b) := by
  unfold State.insert
  split
  · exact inserted_refl s
  · next i _ =>
    refine ⟨rfl, offer_takeAt s i t b, fun x staged => ?_, fun _ set => Alerts.raiseIf_of_raised set _ _⟩
    have stays (ok : Bool) (id : Nat) (t : Tick) (b : RecBody) :
        x ∈ (if ok then s.stagingAdmitting id t b else s.staging.discarding b : Staging).records := by
      cases ok with
      | false => exact staged
      | true => exact List.mem_append_left _ staged
    exact stays _ _ _ _

theorem inserted_changeRecord (s : State) (t : Tick) (presented : Chans) (due : Bool) : Inserted s (s.changeRecord t presented due) := by
  unfold State.changeRecord
  split
  · obtain ⟨frame, entry, records, raised⟩ :=
      inserted_insert { s with sampler := { s.sampler with restateDue := false } } t (.change (presented &&& s.sampler.channels))
    exact ⟨frame.trans rfl, entry, records, raised⟩
  · exact inserted_refl s

/-- An admitted record is staged with its time. -/
theorem mem_admitted (s : State) (id : Nat) (t : Tick) (b : RecBody) : ∃ x ∈ s.admitted id t b, x.record.body = b ∧ x.time = t := by
  unfold State.admitted
  split
  · exact ⟨⟨⟨0, b⟩, t, id⟩, by simp, rfl, rfl⟩
  · exact ⟨_, List.mem_singleton_self _, rfl, rfl⟩

/-! ## A take entry replaced -/

theorem capIndex_put {s u : State} {i : Nat} {k : Take} (put : u.takes.entries = putAt s.takes.entries i k) (same : k.capturing = (s.takeAt i).capturing) :
    u.capIndex = s.capIndex := by
  unfold State.capIndex
  rw [put]
  exact findIdxFrom_putAt _ _ _ _ _ Take.reset same

theorem takeIndex_put {s u : State} {i : Nat} {k : Take} (put : u.takes.entries = putAt s.takes.entries i k) (same : k.id = (s.takeAt i).id) (id : Nat) :
    u.takeIndex id = s.takeIndex id := by
  unfold State.takeIndex
  rw [put]
  exact findIdxFrom_putAt _ _ _ _ _ Take.reset (by rw [same]; rfl)

theorem recordingIndex_of {s : State} {i : Nat} (capturing : s.capIndex = some i) (sampling : (s.takeAt i).sampling = true)
    (goesOn : (s.takeAt i).endReason = none) : s.recordingIndex = some i := by
  unfold State.recordingIndex
  rw [capturing]
  exact if_pos (by rw [sampling, goesOn]; rfl)

theorem immediate_of_capIndex {s : State} {i : Nat} (capturing : s.capIndex = some i) (mode : (s.takeAt i).mode ≠ .immediate) (t : Tick) :
    s.immediate t = s := by
  unfold State.immediate
  rw [capturing]
  exact if_neg fun both => mode both.1

/-! ## The trigger outside WATCH (R73) -/

section
variable {s : State} {i : Nat}

theorem marked_inserted (src : TrigSource) (n : Nat) (t : Tick) :
    Inserted (s.posttrigged i src t) ((s.posttrigged i src t).insert t (.mark n false)) := inserted_insert _ _ _

theorem marked_work (src : TrigSource) (n : Nat) (t : Tick) : CaptureWork s (s.marked i src n t) := by
  have posted : CaptureWork s (s.posttrigged i src t) := ⟨rfl⟩
  exact (posted.trans (marked_inserted src n t).work).trans ⟨rfl⟩

theorem marked_pods (src : TrigSource) (n : Nat) (t : Tick) : (s.marked i src n t).pods = s.pods :=
  insert_pods (s.posttrigged i src t) t (.mark n false)

theorem marked_seq (src : TrigSource) (n : Nat) (t : Tick) : (s.marked i src n t).seq = s.seq.triggered (s.takeAt i).id := by
  have seq : ((s.posttrigged i src t).insert t (.mark n false)).seq = s.seq := by
    rw [(marked_inserted src n t).frame]
    rfl
  unfold State.marked
  dsimp only
  rw [seq]

section
variable (capturing : s.capIndex = some i)
include capturing

theorem posttrigged_takeAt (src : TrigSource) (t : Tick) : (s.posttrigged i src t).takeAt i =
    { s.takeAt i with state := .posttrig, trigger := some ⟨t, src, none, s.sampler.state == .waking⟩ } :=
  (setTake_takeAt _ _ _ _).trans (if_pos ⟨rfl, (capIndex_some capturing).1⟩)

theorem posttrigged_capIndex (src : TrigSource) (t : Tick) : (s.posttrigged i src t).capIndex = some i :=
  (capIndex_put (s := s) (k := { s.takeAt i with state := .posttrig, trigger := some ⟨t, src, none, s.sampler.state == .waking⟩ }) rfl
    (capIndex_some capturing).2.symm).trans capturing

theorem marked_capIndex (src : TrigSource) (n : Nat) (t : Tick) : (s.marked i src n t).capIndex = some i :=
  (capIndex_of_places (insert_places (s.posttrigged i src t) t (.mark n false))).trans (posttrigged_capIndex capturing src t)

theorem marked_mode (src : TrigSource) (n : Nat) (t : Tick) : ((s.marked i src n t).takeAt i).mode = (s.takeAt i).mode := by
  obtain ⟨lost, entry⟩ := (marked_inserted (s := s) (i := i) src n t).entry i
  have marked : (s.marked i src n t).takeAt i = _ := entry
  rw [marked, posttrigged_takeAt capturing]

/-- The MARK of a trigger in the present interval is staged with the interval's time, if there is room for it (R73). -/
theorem marked_staged (goesOn : (s.takeAt i).endReason = none) (normal : s.staging.overflow = false) (room : s.staging.fill + 2 ≤ 4096)
    (src : TrigSource) (n : Nat) :
    ∃ x ∈ (s.marked i src n s.intervalTime).staging.records, x.record.body = .mark n false ∧ x.time = s.intervalTime := by
  have posted := posttrigged_takeAt capturing src s.intervalTime
  have recorded : (s.posttrigged i src s.intervalTime).recordingIndex = some i :=
    recordingIndex_of (posttrigged_capIndex capturing src _) (by rw [posted]; rfl) (by rw [posted]; exact goesOn)
  have inserted := insert_admitted (b := .mark n false) recorded normal room rfl s.intervalTime
  have time : (s.posttrigged i src s.intervalTime).recordTime s.intervalTime = s.intervalTime := recordTime_now (s.posttrigged i src s.intervalTime)
  rw [time] at inserted
  obtain ⟨x, staged, body, stamp⟩ := mem_admitted (s.posttrigged i src s.intervalTime)
    ((s.posttrigged i src s.intervalTime).takeAt i).id s.intervalTime (.mark n false)
  refine ⟨x, ?_, body, stamp⟩
  change x ∈ ((s.posttrigged i src s.intervalTime).insert s.intervalTime (.mark n false)).staging.records
  rw [inserted.records]
  exact List.mem_append_right _ staged

end
end

/-! ## A vector that only the sequencer takes -/

/-- No maximum of an earlier interval is due. -/
theorem seqEarlier_notDue {s : State} {t : Tick} (notDue : s.seq.maxDue s.sampler.intervalExp (intervalBefore s.sampler.intervalExp t) = false) :
    s.seqEarlier t = s := by
  have judges (fuel : Nat) : s.seqJudge false s.sampler.intervalExp (intervalBefore s.sampler.intervalExp t) fuel = s := by
    cases fuel with
    | zero => rfl
    | succ fuel =>
      unfold State.seqJudge
      rw [notDue, if_neg Bool.false_ne_true]
  unfold State.seqEarlier State.seqJudgeTo
  rw [judges, ite_self]

theorem seqVector_runs {s : State} {t : Tick} (runs : s.captureRuns = true)
    (notDue : s.seq.maxDue s.sampler.intervalExp (intervalBefore s.sampler.intervalExp t) = false) (levels unknown : Chans) :
    s.seqVector t levels unknown = s.seqStep false t (s.seq.evaluate s.sampler.intervalExp false t levels (~~~unknown)) := by
  unfold State.seqVector
  rw [seqEarlier_notDue notDue]
  exact if_pos runs

theorem sampleVector_unattached {s : State} (unattached : ∀ k : Fin 4, (s.lanes.get k).state ≠ .attached) (t : Tick) (levels : Chans) :
    s.sampleVector t levels =
      (((s.vectored t levels).seqVector t (s.presented levels) s.unknownNow).changeRecord t (s.presented levels) (s.changeDue levels)).immediate t := by
  have vector := liveInterval_unattached (s := s.vectored t levels) unattached t (s.presented levels) s.unknownNow
  have equation : s.sampleVector t levels =
      ((((s.vectored t levels).liveInterval t (s.presented levels) s.unknownNow).seqVector t (s.presented levels) s.unknownNow).changeRecord t
        (s.presented levels) (s.changeDue levels)).immediate t := rfl
  rw [equation, vector]

theorem captureRuns_iff {s : State} : s.captureRuns = true ↔ s.seq.state = .running ∧ s.seq.serving = .capture := by
  simp [State.captureRuns]

/-! ## A step of a capture run carried out (R100, R104) -/

/-- `v` with its sequencer at `q` and the run's flags in the serving take's entry, `i`. -/
def State.stepped (s : State) (i : Nat) (q : Sequencer) : State := (s.seqTo q).setTake i ((s.takeAt i).flagged q)

section
variable {s : State} {i : Nat} {q : Sequencer} (claim : s.takeIndex q.servingTake = some i)
include claim

theorem stepped_takeAt : (s.stepped i q).takeAt i = (s.takeAt i).flagged q := by
  unfold State.stepped
  rw [setTake_takeAt, if_pos ⟨rfl, (takeIndex_some claim).1⟩]

theorem flagTake_serving (serving : q.serving = .capture) : (s.seqTo q).flagTake = s.stepped i q := by
  have claim' : (s.seqTo q).takeIndex (s.seqTo q).seq.servingTake = some i := claim
  unfold State.flagTake
  rw [claim']
  exact if_pos serving

/-- A FIRE triggers the serving take in PRETRIG (R100). -/
theorem stepped_fires (pretrig : (s.takeAt i).state = .pretrig) (goesOn : (s.takeAt i).endReason = none) (t : Tick) (stage : Nat) :
    (s.stepped i q).fire t stage = (s.stepped i q).trigger i .sequence stage t := by
  have claim' : (s.stepped i q).takeIndex (s.stepped i q).seq.servingTake = some i :=
    (takeIndex_put (s := s) (k := (s.takeAt i).flagged q) rfl rfl q.servingTake).trans claim
  have triggerable : ((s.stepped i q).takeAt i).triggerable = true := by
    rw [stepped_takeAt claim]
    simp [Take.triggerable, Take.flagged, pretrig, goesOn]
  unfold State.fire
  rw [claim']
  exact if_pos triggerable

end

/-! ## The second half of O60 -/

/-- A capture run of the take in entry `i`, in PRETRIG and triggered by the sequencer, that no lane and no maximum concerns in this interval. -/
structure Runs (s : State) (i : Nat) : Prop where
  runs : s.captureRuns = true
  capturing : s.capIndex = some i
  claim : s.takeIndex s.seq.servingTake = some i
  pretrig : (s.takeAt i).state = .pretrig
  goesOn : (s.takeAt i).endReason = none
  mode : (s.takeAt i).mode = .sequence
  unattached : ∀ k : Fin 4, (s.lanes.get k).state ≠ .attached
  notDue : s.seq.maxDue s.sampler.intervalExp (intervalBefore s.sampler.intervalExp s.intervalTime) = false

/-- What the sequencer makes of the interval's vector. -/
def State.seqResult (s : State) (levels : Chans) : SeqStep :=
  s.seq.evaluate s.sampler.intervalExp false s.intervalTime (s.presented levels) (~~~s.unknownNow)

/-- The part with the vector formed and the sequencer's step taken, its outputs still to come. -/
def State.sequenced (s : State) (i : Nat) (levels : Chans) : State :=
  (s.forming.vectored s.intervalTime levels).stepped i (s.seqResult levels).seq

theorem vectored_work (s : State) (t : Tick) (levels : Chans) : CaptureWork s (s.vectored t levels) := ⟨rfl⟩
theorem vectored_staging (s : State) (t : Tick) (levels : Chans) : (s.vectored t levels).staging = s.staging := rfl
theorem vectored_intervalTime (s : State) (t : Tick) (levels : Chans) : (s.vectored t levels).intervalTime = s.intervalTime := rfl
theorem vectored_state (s : State) (t : Tick) (levels : Chans) : (s.vectored t levels).sampler.state = s.sampler.state := rfl
theorem stepped_work (s : State) (i : Nat) (q : Sequencer) : CaptureWork s (s.stepped i q) := ⟨rfl⟩
theorem stepped_staging (s : State) (i : Nat) (q : Sequencer) : (s.stepped i q).staging = s.staging := rfl
theorem stepped_sampler (s : State) (i : Nat) (q : Sequencer) : (s.stepped i q).sampler = s.sampler := rfl
theorem stepped_intervalTime (s : State) (i : Nat) (q : Sequencer) : (s.stepped i q).intervalTime = s.intervalTime := rfl

theorem sequenced_work (s : State) (i : Nat) (levels : Chans) : CaptureWork s (s.sequenced i levels) :=
  ((forming_work s).trans (vectored_work _ _ levels)).trans (stepped_work _ i _)

theorem sequenced_staging (s : State) (i : Nat) (levels : Chans) : (s.sequenced i levels).staging = s.staging :=
  (stepped_staging _ i _).trans (vectored_staging s.forming s.intervalTime levels)

theorem sequenced_state (s : State) (i : Nat) (levels : Chans) : (s.sequenced i levels).sampler.state = s.sampler.state :=
  (congrArg Sampler.state (stepped_sampler _ i _)).trans (vectored_state s.forming s.intervalTime levels)

theorem sequenced_intervalTime (s : State) (i : Nat) (levels : Chans) : (s.sequenced i levels).intervalTime = s.intervalTime :=
  (stepped_intervalTime _ i _).trans (vectored_intervalTime s.forming s.intervalTime levels)

section
variable {s : State} {i : Nat} {levels : Chans} (h : Runs s i) (now : s.seq.ahead s.sampler.intervalExp s.intervalTime = false)
include h now

/-- The run and its claim stand (R105). -/
theorem Runs.result : (s.seqResult levels).seq.state = .running ∧ (s.seqResult levels).seq.serving = .capture ∧
    (s.seqResult levels).seq.servingTake = s.seq.servingTake ∧ (s.seqResult levels).seq.events = SeqEvents.none := by
  obtain ⟨running, serving⟩ := captureRuns_iff.mp h.runs
  obtain ⟨⟨-, -, -, state, -⟩, events, claim, take⟩ := evaluate_kept now false (s.presented levels) (~~~s.unknownNow)
  exact ⟨state.trans running, claim.trans serving, take, events⟩

theorem Runs.claimed : (s.forming.vectored s.intervalTime levels).takeIndex (s.seqResult levels).seq.servingTake = some i := by
  rw [(h.result now).2.2.1]
  exact h.claim

theorem Runs.entry : (s.sequenced i levels).takeAt i = (s.takeAt i).flagged (s.seqResult levels).seq := stepped_takeAt (h.claimed now)

omit now in
theorem Runs.capIndex : (s.sequenced i levels).capIndex = some i :=
  (capIndex_put (s := s) (k := (s.takeAt i).flagged (s.seqResult levels).seq) rfl rfl).trans h.capturing

/-- The interval, up to what the sequencer gives out. -/
theorem Runs.interval (sampling : s.sampler.state = .sampling) :
    s.sampleInterval levels = ((((s.seqResult levels).outs.foldl (State.seqOut false s.intervalTime) (s.sequenced i levels)).changeRecord s.intervalTime
      (s.presented levels) (s.forming.changeDue levels)).immediate s.intervalTime) := by
  have vector := seqVector_runs (s := s.forming.vectored s.intervalTime levels) (t := s.intervalTime) h.runs h.notDue (s.presented levels) s.unknownNow
  have flags := flagTake_serving (h.claimed now (levels := levels)) (h.result now).2.1
  rw [sampleInterval_sampling sampling, sampleVector_unattached (s := s.forming) h.unattached]
  have step : (s.forming.vectored s.intervalTime levels).seqVector s.intervalTime (s.forming.presented levels) s.forming.unknownNow =
      (s.seqResult levels).outs.foldl (State.seqOut false s.intervalTime) (s.sequenced i levels) := by
    refine vector.trans ?_
    unfold State.sequenced
    rw [← flags]
    rfl
  rw [step]
  rfl

/-- An interval in which the sequencer gives nothing out: its flags go to the take (R104). -/
theorem Runs.quiet_interval (sampling : s.sampler.state = .sampling) (silent : (s.seqResult levels).outs = []) :
    Inserted (s.sequenced i levels) (s.sampleInterval levels) := by
  have changed := inserted_changeRecord (s.sequenced i levels) s.intervalTime (s.presented levels) (s.forming.changeDue levels)
  have capturing := (capIndex_of_places (changeRecord_places (s.sequenced i levels) s.intervalTime (s.presented levels)
    (s.forming.changeDue levels))).trans h.capIndex
  obtain ⟨n, entry⟩ := changed.entry i
  have mode : (((s.sequenced i levels).changeRecord s.intervalTime (s.presented levels) (s.forming.changeDue levels)).takeAt i).mode ≠ .immediate := by
    rw [entry, h.entry now]
    change (s.takeAt i).mode ≠ .immediate
    rw [h.mode]
    decide
  rw [h.interval now sampling, silent, List.foldl_nil, immediate_of_capIndex capturing mode]
  exact changed

/-- The part with the trigger of a FIRE at stage `n` taken. -/
def State.fired (s : State) (i : Nat) (levels : Chans) (n : Nat) : State := (s.sequenced i levels).marked i .sequence n s.intervalTime

/-- An interval in which the sequencer fires: the serving take is triggered (R73, R100). -/
theorem Runs.firing_interval (sampling : s.sampler.state = .sampling) {n : Nat} (fires : (s.seqResult levels).outs = [.fire n]) :
    Inserted (s.fired i levels n) (s.sampleInterval levels) := by
  have triggers : State.seqOut false s.intervalTime (s.sequenced i levels) (.fire n) = s.fired i levels n := by
    have fire := stepped_fires (h.claimed now (levels := levels)) h.pretrig h.goesOn s.intervalTime n
    have awake : (s.sequenced i levels).sampler.state ≠ .watch := by
      rw [sequenced_state, sampling]
      decide
    exact fire.trans (trigger_of_not_watch awake i .sequence n s.intervalTime)
  have changed := inserted_changeRecord (s.fired i levels n) s.intervalTime (s.presented levels) (s.forming.changeDue levels)
  have capturing := (capIndex_of_places (changeRecord_places (s.fired i levels n) s.intervalTime (s.presented levels)
    (s.forming.changeDue levels))).trans (marked_capIndex h.capIndex .sequence n s.intervalTime)
  obtain ⟨lost, entry⟩ := changed.entry i
  have mode : (((s.fired i levels n).changeRecord s.intervalTime (s.presented levels) (s.forming.changeDue levels)).takeAt i).mode ≠ .immediate := by
    rw [entry]
    change ((s.fired i levels n).takeAt i).mode ≠ .immediate
    have marked : ((s.fired i levels n).takeAt i).mode = _ := marked_mode h.capIndex .sequence n s.intervalTime
    rw [marked, h.entry now]
    change (s.takeAt i).mode ≠ .immediate
    rw [h.mode]
    decide
  rw [h.interval now sampling, fires, List.foldl_cons, List.foldl_nil, triggers, immediate_of_capIndex capturing mode]
  exact changed

/-- The sequencer is DONE at the stage that fired (R86, R105). -/
theorem Runs.fired_seq (n : Nat) : (s.fired i levels n).seq = (s.seqResult levels).seq.finished := by
  obtain ⟨running, serving, servingTake, -⟩ := h.result now (levels := levels)
  have own : ((s.sequenced i levels).takeAt i).id = s.seq.servingTake := by
    rw [h.entry now]
    exact (takeIndex_some h.claim).2.1
  have seq : (s.fired i levels n).seq = (s.sequenced i levels).seq.triggered ((s.sequenced i levels).takeAt i).id := marked_seq _ _ _
  rw [seq, own]
  exact if_pos ⟨running, serving, servingTake⟩

/-- The MARK of the FIRE is staged with the interval's time (R73). -/
theorem Runs.fired_mark (normal : s.staging.overflow = false) (room : s.staging.fill + 8 ≤ 4096) (n : Nat) :
    ∃ x ∈ (s.fired i levels n).staging.records, x.record.body = .mark n false ∧ x.time = s.intervalTime := by
  have goesOn : ((s.sequenced i levels).takeAt i).endReason = none := by
    rw [h.entry now]
    exact h.goesOn
  have staged := marked_staged (s := s.sequenced i levels) h.capIndex goesOn (by rw [sequenced_staging]; exact normal)
    (by rw [sequenced_staging]; omega) .sequence n
  rw [sequenced_intervalTime] at staged
  exact staged

end

theorem fired_work (s : State) (i : Nat) (levels : Chans) (n : Nat) : CaptureWork s (s.fired i levels n) :=
  (sequenced_work s i levels).trans (marked_work .sequence n s.intervalTime)

theorem fired_pods (s : State) (i : Nat) (levels : Chans) (n : Nat) : (s.fired i levels n).pods = s.pods :=
  marked_pods (s := s.sequenced i levels) .sequence n s.intervalTime

/-- A sample interval that leaves no event waiting closes as any step does. -/
theorem exec_sampleInterval_quiet {s u : State} {levels : Chans} (does : s.sampleInterval levels = u) (ready : s.ready) (work : CaptureWork s u)
    (quiet : u.quiet) : exec (.sampleInterval levels) s = .next u.finish ∧ CaptureClosed s u u.finish := by
  refine ⟨?_, work.closes ready⟩
  change Host.Outcome.next (s.sampleInterval levels).finishEvents = _
  rw [does, finishEvents_quiet quiet]

theorem Inserted.seq {s u : State} (h : Inserted s u) : u.seq = s.seq := by rw [h.frame]

theorem Inserted.pods {s u : State} (h : Inserted s u) : u.pods = s.pods := by rw [h.frame]

/-- Settles O60: the sequencer by itself, and the sample interval of a capture run. -/
theorem sequencerMeetsStage : Obligations.SequencerMeetsStage := by
  refine ⟨fun q k t levels known now => ?_, fun s levels i ready quiet sampling runs capturing claim pretrig goesOn mode unattached now notDue normal room =>
    ⟨fun silent => ?_, fun fires => ?_⟩⟩
  · obtain ⟨kept, -⟩ := evaluate_kept now false levels known
    obtain ⟨short, met, early⟩ := evaluate_interval q k t levels known now
    simp only [Stage.occurrence_iff, Stage.condition_iff, early_iff] at short met early
    exact ⟨kept, short, met, early⟩
  · have run : Runs s i := ⟨runs, capturing, claim, pretrig, goesOn, mode, unattached, notDue⟩
    have inserted := run.quiet_interval now sampling silent
    have seq : (s.sampleInterval levels).seq = (s.seqResult levels).seq := inserted.seq
    have noEvents : (s.sampleInterval levels).quiet := (congrArg Sequencer.events seq).trans (run.result now).2.2.2
    obtain ⟨step, done⟩ := exec_sampleInterval_quiet rfl ready ((sequenced_work s i levels).trans inserted.work) noEvents
    obtain ⟨n, entry⟩ := inserted.entry i
    rw [run.entry now] at entry
    refine ⟨_, step, done.closed.seq.trans seq, ?_⟩
    rw [done.closed.takeAt, entry]
    refine ⟨pretrig, Bool.or_eq_true_iff, Bool.or_eq_true_iff, done.gens, done.closed.pods.trans inserted.pods, done.lanes, done.bytes⟩
  · have run : Runs s i := ⟨runs, capturing, claim, pretrig, goesOn, mode, unattached, notDue⟩
    have inserted := run.firing_interval now sampling fires
    have seq : (s.sampleInterval levels).seq = (s.seqResult levels).seq.finished := inserted.seq.trans (run.fired_seq now _)
    have noEvents : (s.sampleInterval levels).quiet := congrArg Sequencer.events seq
    obtain ⟨step, done⟩ := exec_sampleInterval_quiet rfl ready ((fired_work s i levels _).trans inserted.work) noEvents
    have inTable : i < (s.sequenced i levels).takes.entries.length := (capIndex_some (run.capIndex (levels := levels))).1
    obtain ⟨-, state, trigger, raised⟩ := marked_triggered inTable .sequence s.seq.stage s.intervalTime
    have steady : ((s.sequenced i levels).sampler.state == .waking) = false := by
      rw [sequenced_state, sampling]
      rfl
    rw [steady] at trigger
    obtain ⟨n, entry⟩ := inserted.entry i
    obtain ⟨x, staged, body, time⟩ := run.fired_mark now normal room (levels := levels) s.seq.stage
    refine ⟨_, step, ?_⟩
    rw [done.closed.takeAt, entry, done.closed.seq, seq, done.closed.staging, done.closed.alerts]
    exact ⟨rfl, rfl, state, trigger, ⟨x, inserted.records x staged, body, time⟩, inserted.raised _ raised, done.gens,
      done.closed.pods.trans (inserted.pods.trans (fired_pods s i levels _)), done.lanes, done.bytes⟩

end Sys2Proof.Machine
end

section
/-! PROOFS. The trigger sequencer (spec/05): SET SEQUENCE (O30), PATTERN terms (O31), a window maximum of the present interval (O32), the stage on the page (O58). -/

namespace Sys2Proof.Machine

/-! ## SET SEQUENCE (R88) -/

theorem exec_setSequence (o : OrderRef) (p : SetSequenceP) (s : State) :
    exec (.setSequence o p) s = orderResult (setSequenceOrder p s) o .setSequence := rfl

section
variable {s : State} {p : SetSequenceP} (valid : p.valid = true)
include valid

theorem setSequenceOrder_busy (atWork : s.seq.state = .running ∨ s.seq.state = .done) : setSequenceOrder p s = refuse s .busy := by
  simp [setSequenceOrder, valid, atWork]

theorem setSequenceOrder_loads (free : s.seq.state = .unloaded ∨ s.seq.state = .loaded) :
    setSequenceOrder p s =
      accept { s with seq := { s.seq with state := .loaded, stages := (p.stages.take p.count).map StageP.stage } } := by
  obtain state | state := free <;> simp [setSequenceOrder, valid, state]

end

/-- Settles O30: a sequencer at work refuses the order, any other takes its table. -/
theorem setSequenceLoads : Obligations.SetSequenceLoads := by
  intro s o p ready clear valid
  rw [exec_setSequence]
  refine ⟨fun atWork => ?_, fun free => ?_⟩
  · rw [setSequenceOrder_busy valid atWork]
    exact orderResult_completed .busy ready clear
  · rw [setSequenceOrder_loads valid free]
    exact orderResult_completed .ok ready clear

/-! ## PATTERN terms (R90) -/

theorem masked_eq_zero_iff {w : Nat} (v mask : BitVec w) : v &&& mask = 0 ↔ ∀ i, i < w → mask.getLsbD i = true → v.getLsbD i = false := by
  rw [BitVec.eq_of_getLsbD_eq_iff]
  refine forall₂_congr fun i _ => ?_
  rw [BitVec.getLsbD_and]
  cases mask.getLsbD i <;> simp

theorem Term.holds_pattern {x : SeqInput} {mask value : Chans} :
    Term.holds x (.pattern mask value) = true ↔ (x.levels ^^^ value) &&& mask = 0 ∧ ~~~x.known &&& mask = 0 := by
  rw [BitVec.and_comm (~~~x.known)]
  simp [Term.holds]

/-- A PATTERN term asks each channel of its mask to be known and at its level (R90). -/
theorem Term.holds_pattern_iff {x : SeqInput} {mask value : Chans} :
    Term.holds x (.pattern mask value) = true ↔
      ∀ c, c < 32 → mask.getLsbD c = true → x.known.getLsbD c = true ∧ x.levels.getLsbD c = value.getLsbD c := by
  rw [Term.holds_pattern, masked_eq_zero_iff, masked_eq_zero_iff, ← forall₂_and]
  refine forall₂_congr fun c named => ?_
  rw [← forall_and, BitVec.getLsbD_xor, BitVec.getLsbD_not, decide_eq_true named]
  refine forall_congr' fun _ => ?_
  simp [and_comm]

/-- Settles O31: channel by channel; an empty mask names none. -/
theorem patternTermHolds : Obligations.PatternTermHolds := fun mask value x =>
  ⟨Term.holds_pattern_iff, Term.holds_pattern_iff.mpr fun c _ masked => absurd masked (by simp)⟩

/-! ## Ticks from one interval to another -/

theorem ticksFrom_tickAdd (t : Tick) {n : Nat} (short : n < 2 ^ 56) : ticksFrom t (tickAdd t n) = n := by
  unfold ticksFrom tickAdd
  rw [BitVec.add_comm, BitVec.add_sub_cancel, BitVec.toNat_ofNat, Nat.mod_eq_of_lt short]

/-- Going back from `n` ticks after `t` takes the rest of the tick count's run. -/
theorem ticksFrom_tickAdd_back (t : Tick) {n : Nat} (pos : 0 < n) (short : n < 2 ^ 56) : ticksFrom (tickAdd t n) t = 2 ^ 56 - n := by
  have run : (BitVec.ofNat 56 n).toNat = n := Nat.mod_eq_of_lt short
  have forth : t - (t + BitVec.ofNat 56 n) = -BitVec.ofNat 56 n := by
    rw [BitVec.sub_eq_add_neg, BitVec.neg_add, BitVec.sub_eq_add_neg, ← BitVec.add_assoc, BitVec.add_right_neg, BitVec.zero_add]
  unfold ticksFrom tickAdd
  rw [forth, BitVec.toNat_neg, run]
  omega

/-! ## A window maximum in the interval in which it is judged (R97) -/

/-- The ticks from the stage start time to the interval in which the window maximum is judged: the maximum, rounded up to whole intervals. -/
def Sequencer.judgeSpan (q : Sequencer) (k : Nat) : Nat := (q.cur.winMax + 2 ^ k - 1) / 2 ^ k * 2 ^ k

theorem judgeTime_eq (q : Sequencer) (k : Nat) : q.judgeTime k = tickAdd q.startTime (q.judgeSpan k) := rfl

theorem judgeSpan_pos {q : Sequencer} (max : q.cur.winMax ≠ 0) (k : Nat) : 0 < q.judgeSpan k := by
  have whole : 0 < 2 ^ k := Nat.two_pow_pos k
  exact Nat.mul_pos (Nat.div_pos (by omega) whole) whole

theorem judgeSpan_le (q : Sequencer) (k : Nat) : q.judgeSpan k ≤ q.cur.winMax + 2 ^ k - 1 := Nat.div_mul_le_self _ _

section
variable {q : Sequencer} {k : Nat} (max : q.cur.winMax ≠ 0) (near : q.cur.winMax + 3 * 2 ^ k < 2 ^ 56)
include max near

/-- The interval in which the maximum is judged is one in which the stage is evaluated. -/
theorem not_ahead_judgeTime : q.ahead k (q.judgeTime k) = false := by
  have pos := judgeSpan_pos max k
  have span := judgeSpan_le q k
  unfold Sequencer.ahead
  rw [judgeTime_eq, ticksFrom_tickAdd_back q.startTime pos (by omega)]
  exact decide_eq_false (by omega)

theorem maxDue_judgeTime (running : q.state = .running) : q.maxDue k (q.judgeTime k) = true := by
  simp [Sequencer.maxDue, running, max, not_ahead_judgeTime max near]

end

/-- A stage just entered lies ahead of the interval in which it was entered (R98). -/
theorem enter_ahead (q : Sequencer) {k : Nat} (short : 2 ^ k < 2 ^ 56) (t : Tick) (n : Nat) : (q.enter k t n).ahead k t = true := by
  have start : ticksFrom t (q.enter k t n).startTime = 2 ^ k := ticksFrom_tickAdd t short
  have whole : 0 < 2 ^ k := Nat.two_pow_pos k
  unfold Sequencer.ahead
  rw [start]
  exact decide_eq_true (by omega)

/-- No maximum of a stage just entered is due in that interval. -/
theorem enter_notDue (q : Sequencer) {k : Nat} (short : 2 ^ k < 2 ^ 56) (t : Tick) (n : Nat) : (q.enter k t n).maxDue k t = false := by
  simp [Sequencer.maxDue, enter_ahead q short]

theorem late_next {q : Sequencer} (next : q.cur.lateAction = .next) (k : Nat) (search : Bool) (t : Tick) :
    q.late k search t = ⟨q.enter k t q.cur.lateTarget, []⟩ := by
  unfold Sequencer.late
  rw [next]
  rfl

/-- The stages of a table have its bound on window maxima, and so has the current one, in the table or past its end. -/
theorem cur_winMax_lt {q : Sequencer} {n : Nat} (pos : 0 < n) (bounded : ∀ st ∈ q.stages, st.winMax < n) : q.cur.winMax < n := by
  unfold Sequencer.cur
  rw [List.getD_eq_getElem?_getD]
  cases stage : q.stages[q.stage]? with
  | none => exact pos
  | some st => exact bounded st (List.mem_of_getElem? stage)

/-! ## Maxima judged in the part (R97) -/

theorem seqJudge_notDue {s : State} {k : Nat} {t : Tick} (notDue : s.seq.maxDue k t = false) (search : Bool) (fuel : Nat) :
    s.seqJudge search k t fuel = s := by
  cases fuel with
  | zero => rfl
  | succ fuel =>
    unfold State.seqJudge
    rw [notDue, if_neg Bool.false_ne_true]

/-- The run's flags go to the take table, and nowhere else (R104). -/
theorem flagTake_frame (s : State) : s.flagTake = { s with takes := s.flagTake.takes } := by
  unfold State.flagTake
  split
  · rfl
  · split <;> rfl

/-- The part with stage `n` entered in the interval of time `t`, and the run's flags in its take. -/
def State.entering (s : State) (t : Tick) (n : Nat) : State := (s.seqTo (s.seq.enter s.sampler.intervalExp t n)).flagTake

theorem entering_frame (s : State) (t : Tick) (n : Nat) : s.entering t n =
    { s with
      seq := s.seq.enter s.sampler.intervalExp t n
      report := s.report.handStage (s.seq.enter s.sampler.intervalExp t n) s.tick false
      takes := (s.entering t n).takes } := flagTake_frame _

theorem entering_work (s : State) (t : Tick) (n : Nat) : CaptureWork s (s.entering t n) := ⟨by rw [entering_frame]⟩

theorem entering_seq (s : State) (t : Tick) (n : Nat) : (s.entering t n).seq = s.seq.enter s.sampler.intervalExp t n := by rw [entering_frame]

/-- The late path NEXT in the interval in which the maximum is judged: the one stage is passed, and the next is not due there. -/
theorem seqMaximum_next {s : State} (runs : s.captureRuns = true) (passed : s.seqPassed = true) (max : s.seq.cur.winMax ≠ 0)
    (next : s.seq.cur.lateAction = .next) (now : s.seq.judgeTime s.sampler.intervalExp = s.intervalTime)
    (near : s.seq.cur.winMax + 3 * 2 ^ s.sampler.intervalExp < 2 ^ 56) :
    s.seqMaximum = s.entering s.intervalTime s.seq.cur.lateTarget := by
  have due := maxDue_judgeTime max near (captureRuns_iff.mp runs).1
  have notAhead := not_ahead_judgeTime max near
  rw [now] at due notAhead
  have entered : (s.entering s.intervalTime s.seq.cur.lateTarget).seq.maxDue s.sampler.intervalExp s.intervalTime = false := by
    rw [entering_seq]
    exact enter_notDue _ (by omega) _ _
  unfold State.seqMaximum State.seqJudgeTo Sequencer.judgeFuel
  rw [runs, passed, notAhead, Bool.and_self, if_pos rfl, if_neg Bool.false_ne_true, State.seqJudge, if_pos due, now, late_next next]
  exact seqJudge_notDue entered false _

/-- Settles O32: the maximum falls due once, in the present interval, and the step enters the late target. -/
theorem windowMaximumTakesLatePath : Obligations.WindowMaximumTakesLatePath := by
  intro s ready quiet runs passed max next _ now fine bounded
  have interval : 2 ^ s.sampler.intervalExp ≤ 2 ^ 20 := Nat.pow_le_pow_right (by decide) fine
  have bound : s.seq.cur.winMax < 2 ^ 32 := cur_winMax_lt (by decide) bounded
  have frame := entering_frame s s.intervalTime s.seq.cur.lateTarget
  have still : (s.entering s.intervalTime s.seq.cur.lateTarget).quiet := by
    unfold State.quiet
    rw [entering_seq]
    exact quiet
  have done := (entering_work s s.intervalTime s.seq.cur.lateTarget).closes ready
  refine ⟨(s.entering s.intervalTime s.seq.cur.lateTarget).finish, ?_, ?_⟩
  · change Host.Outcome.next s.seqMaximum.finishEvents = _
    rw [seqMaximum_next runs passed max next now (by omega), finishEvents_quiet still]
  · rw [done.closed.seq, entering_seq]
    refine ⟨rfl, rfl, rfl, rfl, rfl, rfl, ?_, done.gens, ?_, ?_, done.lanes, done.slots, ?_, done.disp, done.bytes⟩
    · rw [done.closed.staging, frame]
    · rw [done.closed.pods, frame]
    · rw [done.closed.sampler, frame]
    · rw [done.closed.alerts, frame]

/-! ## The stage on the page (R109) -/

/-- Once 10 µs have passed since the last write, stage and stack depth are handed over, or stand there already. -/
theorem handStage_catchesUp {r : Report} {w now : Tick} (written : r.stageWritten = some w) (late : 10000 ≤ ticksFrom w now) (q : Sequencer)
    (all : Bool) : (r.handStage q now all).stage = q.stage ∧ (r.handStage q now all).depth = q.stack.length := by
  cases handed : all || r.stageDue q now with
  | true => exact ⟨if_pos handed, if_pos handed⟩
  | false =>
    have free : decide (Config.stageReportGap ≤ ticksFrom w now) = true := decide_eq_true late
    have same : r.stage = q.stage ∧ r.depth = q.stack.length := by
      simp only [Report.stageDue, written, free, Bool.and_true, Bool.or_eq_false_iff, bne_eq_false_iff_eq] at handed
      exact handed.2.2
    unfold Report.handStage
    rw [handed]
    exact same

/-- The page's limited fields at the end of a step. -/
theorem finish_handed {s : State} (settled : s.settled) :
    s.finish.report.stage = (s.report.handStage s.seq s.tick s.pageStale).stage ∧
      s.finish.report.depth = (s.report.handStage s.seq s.tick s.pageStale).depth := by
  have granted : (s.grant s.waits).settled := settled
  unfold State.finish
  by_cases halted : (s.grant s.waits).disp.state = .halted
  · rw [syncReport_halted halted]
    exact ⟨rfl, rfl⟩
  · rw [syncReport_running halted granted]
    exact ⟨rfl, rfl⟩

/-- Settles O58: the closing of the step brings the page up to date, and the 10 µs are over. -/
theorem stageReportCatchesUp : Obligations.StageReportCatchesUp := by
  intro s w ready written late
  obtain ⟨stage, depth⟩ := handStage_catchesUp written late s.seq s.pageStale
  obtain ⟨stageHanded, depthHanded⟩ := finish_handed ready.1
  exact ⟨s.finish, rfl, finish_closes ready, stageHanded.trans stage, depthHanded.trans depth⟩

end Sys2Proof.Machine
end

section
/-! PROOFS. The lane orders (spec/06): SET LANE (O35), SNAPSHOT LANE and RESUME LANE (O36). -/

namespace Sys2Proof.Machine

/-! ## SET LANE (R112, R132) -/

/-- Of a kind other than NONE every parameter is read, and checked (R112, step 1). -/
theorem SetLaneP.counts_of_valid {p : SetLaneP} (valid : p.valid = true) (kind : p.kind ≠ 0) : p.excMask < 2 ^ 7 ∧ p.startCount < 2 ^ 32 := by
  simp only [SetLaneP.valid, inRange, Bool.and_eq_true, Bool.or_eq_true, beq_iff_eq, decide_eq_true_eq, kind, false_or] at valid
  unfold max32 at valid
  omega

section
variable {p : SetLaneP} {s : State} (valid : p.valid = true)
include valid

theorem setLaneOrder_atWork (busy : (s.lanes.get (fin4 p.lane)).atWork = true) : setLaneOrder p s = refuse s .busy := by
  simp [setLaneOrder, valid, busy]

theorem setLaneOrder_free (free : (s.lanes.get (fin4 p.lane)).atWork = false) :
    setLaneOrder p s =
      accept ((s.setLaneAt (fin4 p.lane) ((s.lanes.get (fin4 p.lane)).configured p)).hands [unitLane (fin4 p.lane), unitLaneLost (fin4 p.lane)]) := by
  simp [setLaneOrder, valid, free]

end

/-- Settles O35: a lane at work refuses the order; any other is left as `Lane.configured` has it, by the kind. -/
theorem setLaneConfigures : Obligations.SetLaneConfigures := by
  intro s o p ready clear valid
  have answered : exec (.setLane o p) s = orderResult (setLaneOrder p s) o .setLane := rfl
  refine ⟨fun busy => ?_, fun free => ?_⟩
  · rw [answered, setLaneOrder_atWork valid busy]
    exact orderResult_completed .busy ready clear
  · rw [answered, setLaneOrder_free valid free]
    obtain ⟨t, next, done⟩ := orderResult_completed .ok
      (u := (s.setLaneAt (fin4 p.lane) ((s.lanes.get (fin4 p.lane)).configured p)).hands [unitLane (fin4 p.lane), unitLaneLost (fin4 p.lane)])
      (o := o) (kind := .setLane) ready clear
    have lane : t.lanes.get (fin4 p.lane) = (s.lanes.get (fin4 p.lane)).configured p := by
      rw [done.lanes]
      exact Four.get_set_same _ _ _
    refine ⟨t, next, ?_⟩
    rw [lane]
    refine ⟨done, fun none => ?_, fun kind => ?_⟩
    · rw [Lane.configured, if_pos none]
      exact ⟨rfl, rfl, rfl⟩
    · obtain ⟨mask, count⟩ := SetLaneP.counts_of_valid valid kind
      have written : (BitVec.ofNat 32 p.startCount).toNat = p.startCount := (BitVec.toNat_ofNat _ _).trans (Nat.mod_eq_of_lt count)
      rw [Lane.configured, if_neg kind]
      exact ⟨rfl, rfl, rfl, (BitVec.toNat_ofNat _ _).trans (Nat.mod_eq_of_lt mask), rfl, rfl, written, written, rfl, rfl, rfl, rfl⟩

/-! ## SNAPSHOT LANE (R135) -/

/-- Eight units of context, and the eight positions of the stack. -/
theorem Lane.snapshot_length {l : Lane} (stack : l.dec.stack.length ≤ 8) : l.snapshot.length = 16 := by
  simp only [Lane.snapshot, stackUnits, List.length_append, List.length_cons, List.length_nil, List.length_map, List.length_replicate]
  omega

theorem snapshotLaneOrder_named {p : SnapshotLaneP} (named : p.lane ≤ 3) (s : State) :
    snapshotLaneOrder p s =
      ⟨s.setLaneAt (fin4 p.lane) { s.lanes.get (fin4 p.lane) with excMask := 0x7F }, some .ok, (s.lanes.get (fin4 p.lane)).snapshot⟩ := by
  simp [snapshotLaneOrder, inRange, named]

/-! ## RESUME LANE (R136) -/

/-- No exception raised changes nothing. -/
theorem raiseExcs_none (s : State) (k : Fin 4) : s.raiseExcs k 0 = s := by
  have held : (s.lanes.get k).holdsOn 0 = false := by simp [Lane.holdsOn]
  have same : (s.lanes.get k).raised 0 = s.lanes.get k := by
    unfold Lane.raised
    rw [held]
    simp
  unfold State.raiseExcs
  rw [same, held, Four.set_get]
  rfl

/-- A HELD lane without an open frame that goes back to work in the interval of time `t`: detached, it is IDLE; attached, it hunts from the next interval on. -/
def Lane.released (l : Lane) (t : Tick) : Lane :=
  if l.attached = 0 then { l with state := .idle } else { l with state := .attached, dec := l.dec.hunting, resumedAt := some t }

/-- A lane HELD at live work, with no frame to close, is released. -/
theorem resumeHeld_frameless {s : State} {k : Fin 4} (live : (s.lanes.get k).heldReplay = false) (frameless : (s.lanes.get k).dec.inFrame = false) :
    s.resumeHeld k = s.setLaneAt k ((s.lanes.get k).released s.intervalTime) := by
  by_cases detached : (s.lanes.get k).attached = 0
  · simp [State.resumeHeld, Lane.released, live, detached]
  · simp [State.resumeHeld, State.closeInterrupted, Lane.released, live, frameless, detached]
    exact raiseExcs_none _ _

section
variable {l : Lane} (t : Tick)

theorem Lane.released_state : (l.released t).state = if l.attached = 0 then .idle else .attached := by
  unfold Lane.released
  split <;> rfl

theorem Lane.released_sticky : (l.released t).sticky = l.sticky := by
  unfold Lane.released
  split <;> rfl

theorem Lane.released_excMask : (l.released t).excMask = l.excMask := by
  unfold Lane.released
  split <;> rfl

theorem Lane.released_inFrame (frameless : l.dec.inFrame = false) : (l.released t).dec.inFrame = false := by
  unfold Lane.released
  split
  · exact frameless
  · rfl

/-- An attached lane takes vectors again from the next interval (R136). -/
theorem Lane.released_takesVector (attached : l.attached ≠ 0) (later : Tick) : (l.released t).takesVector later = true ↔ t ≠ later := by
  simp [Lane.released, attached, Lane.takesVector]

end

section
variable {p : ResumeLaneP} {s : State} (valid : p.valid = true)
include valid

theorem resumeLaneOrder_off (off : (s.lanes.get (fin4 p.lane)).state = .off) : resumeLaneOrder p s = refuse s .wrongState := by
  simp [resumeLaneOrder, valid, off]

theorem resumeLaneOrder_working (on : (s.lanes.get (fin4 p.lane)).state ≠ .off) (works : (s.lanes.get (fin4 p.lane)).state ≠ .held) :
    resumeLaneOrder p s =
      accept ((s.setLaneAt (fin4 p.lane) ((s.lanes.get (fin4 p.lane)).remasked p)).hands ((s.lanes.get (fin4 p.lane)).resumedUnits p)) := by
  simp [resumeLaneOrder, valid, on, works]

theorem resumeLaneOrder_held (held : (s.lanes.get (fin4 p.lane)).state = .held) (live : (s.lanes.get (fin4 p.lane)).heldReplay = false)
    (frameless : (s.lanes.get (fin4 p.lane)).dec.inFrame = false) :
    resumeLaneOrder p s =
      accept ((s.setLaneAt (fin4 p.lane) (((s.lanes.get (fin4 p.lane)).remasked p).released s.intervalTime)).hands
        ((s.lanes.get (fin4 p.lane)).resumedUnits p)) := by
  have masked : ((s.setLaneAt (fin4 p.lane) ((s.lanes.get (fin4 p.lane)).remasked p)).hands
      ((s.lanes.get (fin4 p.lane)).resumedUnits p)).lanes.get (fin4 p.lane) = (s.lanes.get (fin4 p.lane)).remasked p := Four.get_set_same _ _ _
  have answer : resumeLaneOrder p s = accept (((s.setLaneAt (fin4 p.lane) ((s.lanes.get (fin4 p.lane)).remasked p)).hands
      ((s.lanes.get (fin4 p.lane)).resumedUnits p)).resumeHeld (fin4 p.lane)) := by
    simp [resumeLaneOrder, valid, held]
  rw [answer, resumeHeld_frameless (by rw [masked]; exact live) (by rw [masked]; exact frameless), masked]
  exact congrArg (fun lanes => accept { s with lanes := lanes, report := _ }) (Four.set_set _ _ _ _)

end

/-- With no replay running none is brought to its end. -/
theorem replayClose_of_not_running {s : State} (h : s.replay.running = false) : s.replayClose = s := by
  simp [State.replayClose, State.replayFinish, h]

/-- RESUME LANE answered at once, with no replay running and no event for the sequencer: the unit's state is completed and closed. -/
theorem exec_resumeLane_completed {s u : State} {o : OrderRef} {p : ResumeLaneP} {oc : Outcome} (answer : resumeLaneOrder p s = ⟨u, some oc, []⟩)
    (ready : u.ready) (quiet : u.quiet) (clear : u.recordClear o .resumeLane 0) (still : u.replay.running = false) :
    ∃ t, exec (.resumeLane o p) s = .next t ∧ completedFrom u t o .resumeLane oc [] := by
  have closes : ((u.complete o .resumeLane oc []).replayClose).finishEvents = (u.complete o .resumeLane oc []).finish := by
    rw [replayClose_of_not_running (by rw [complete_replay]; exact still), finishEvents_quiet (complete_quiet quiet o _ oc [])]
  refine ⟨_, ?_, complete_finish ready.1 ready.2 clear⟩
  change Host.Outcome.next (((resumeLaneOrder p s).finish o .resumeLane).replayClose).finishEvents = _
  rw [answer]
  exact congrArg Host.Outcome.next closes

/-- Settles O36: the snapshot as it is answered; RESUME LANE by the lane's state, and a HELD lane by `Lane.released`. -/
theorem snapshotAndResume : Obligations.SnapshotAndResume := by
  intro s o ready
  refine ⟨fun p clear named stack => ?_, fun p quiet clear valid still => ⟨fun off => ?_, fun on works => ?_, fun held live frameless => ?_⟩⟩
  · refine ⟨((snapshotLaneOrder p s).finish o .snapshotLane).finish, rfl, ?_⟩
    rw [snapshotLaneOrder_named named]
    refine complete_finish ready.1 ready.2 ?_
    rw [Lane.snapshot_length stack]
    exact clear
  · exact exec_resumeLane_completed (resumeLaneOrder_off valid off) ready quiet clear still
  · obtain ⟨t, next, done⟩ := exec_resumeLane_completed (o := o) (resumeLaneOrder_working valid on works) ready quiet clear still
    exact ⟨t, next, done⟩
  · obtain ⟨t, next, done⟩ := exec_resumeLane_completed (o := o) (resumeLaneOrder_held valid held live frameless) ready quiet clear still
    have lane : t.lanes.get (fin4 p.lane) = ((s.lanes.get (fin4 p.lane)).remasked p).released s.intervalTime := by
      rw [done.lanes]
      exact Four.get_set_same _ _ _
    refine ⟨t, next, ?_⟩
    rw [lane]
    refine ⟨done, Lane.released_state _, fun attached => ?_, Lane.released_sticky _, Lane.released_excMask _,
      Lane.released_inFrame _ frameless⟩
    have again := Lane.released_takesVector (l := (s.lanes.get (fin4 p.lane)).remasked p) s.intervalTime attached
    exact ⟨Bool.eq_false_iff.mpr (fun takes => (again _).mp takes rfl), fun later other => (again later).mpr other.symm⟩

end Sys2Proof.Machine
end

section
/-! PROOFS. The lane ring (spec/06): what a run of stores leaves in shared memory, and a record offered to a ring (R127, R129; O37). -/

namespace Sys2Proof.Machine

/-! ## A run of stores -/

/-- With no failure in store every unit is stored. -/
theorem storeUnits_cons (kind : LinkAccess) (f : Nat → Nat) (u : Word64) (us : List Word64) (i : Nat) (m : Mem) :
    storeUnits kind f (u :: us) i m [] = storeUnits kind f us (i + 1) (m.putUnit (f i) u) [] := rfl

theorem storeUnits_succeeds (kind : LinkAccess) (f : Nat → Nat) (us : List Word64) (i : Nat) (m : Mem) :
    (storeUnits kind f us i m []).failed = false := by
  induction us generalizing i m with
  | nil => rfl
  | cons u us ih =>
    rw [storeUnits_cons]
    exact ih _ _

/-- A byte outside every place stored to reads as before, whether or not a store fails. -/
theorem storeUnits_get_out (kind : LinkAccess) (f : Nat → Nat) {a : Nat} (ha : a < 2 ^ 64) (us : List Word64) (i : Nat) (m : Mem)
    (plan : List (LinkAccess × Nat)) (wf : m.wf = true) (out : ∀ j, i ≤ j → j < i + us.length → ¬ inBytes (f j) 8 a) :
    (storeUnits kind f us i m plan).mem.get a = m.get a := by
  induction us generalizing i m plan with
  | nil => rfl
  | cons u us ih =>
    rw [List.length_cons] at out
    unfold storeUnits
    split
    · rfl
    · rw [ih _ _ _ (Mem.putUnit_wf _ _ _ wf) (fun j first last => out j (by omega) (by omega)),
        Mem.get_putUnit_out _ _ _ _ wf ha (out i (by omega) (by omega))]

/-- Of the `n` places from number `i` on no two share a byte. -/
def placesApart (f : Nat → Nat) (i n : Nat) : Prop :=
  ∀ p q, i ≤ p → p < q → q < i + n → ∀ b, b < 8 → ¬ inBytes (f q) 8 (wrapAddr (f p + b))

theorem placesApart_tail {f : Nat → Nat} {i n : Nat} (h : placesApart f i (n + 1)) : placesApart f (i + 1) n :=
  fun p q first lt last => h p q (by omega) lt (by omega)

/-- Every unit of a run stored at places apart reads back from its place. -/
theorem storeUnits_getUnit (kind : LinkAccess) (f : Nat → Nat) (us : List Word64) (i : Nat) (m : Mem) (wf : m.wf = true)
    (apart : placesApart f i us.length) (n : Nat) (named : n < us.length) :
    (storeUnits kind f us i m []).mem.getUnit (f (i + n)) = us.getD n 0 := by
  induction us generalizing i m n with
  | nil => exact absurd named (Nat.not_lt_zero n)
  | cons u us ih =>
    rw [storeUnits_cons]
    have stored := Mem.putUnit_wf m (f i) u wf
    cases n with
    | zero =>
      have later (b : Nat) (hb : b < 8) : (storeUnits kind f us (i + 1) (m.putUnit (f i) u) []).mem.get (wrapAddr (f i + b)) =
          (m.putUnit (f i) u).get (wrapAddr (f i + b)) :=
        storeUnits_get_out kind f (Nat.mod_lt _ (by decide)) us _ _ _ stored
          (fun j first last => apart i j (Nat.le_refl i) (by omega) (by rw [List.length_cons]; omega) b hb)
      exact (congrArg (BitVec.ofNat 64) (Mem.getNat_congr _ _ _ 8 later)).trans (Mem.getUnit_putUnit m (f i) u wf)
    | succ n =>
      rw [Nat.add_comm n 1, ← Nat.add_assoc, ih (i + 1) _ stored (placesApart_tail apart) n (Nat.lt_of_succ_lt_succ named), Nat.add_comm 1 n]
      rfl

/-! ## The places of a ring (R127) -/

/-- A unit's place lies in the ring. -/
theorem Lane.inBytes_of_unitAddr {l : Lane} (holds : 0 < l.capacity) (c : Nat) {a : Nat} (h : inBytes (l.unitAddr c) 8 a) :
    inBytes l.ringAddr (8 * l.capacity) a := by
  have place := Nat.mod_lt c holds
  unfold inBytes Lane.unitAddr at *
  omega

/-- Fewer units than the ring holds lie apart in it. -/
theorem Lane.unitAddr_apart {l : Lane} (fits : l.ringAddr + 8 * l.capacity ≤ 2 ^ 64) (c n : Nat) (few : n ≤ l.capacity) :
    placesApart (fun i => l.unitAddr (c + i)) 0 n := by
  intro p q _ lt last b hb same
  have differ : (c + p) % l.capacity ≠ (c + q) % l.capacity := by
    intro equal
    have divides : l.capacity ∣ c + q - (c + p) := (Nat.modEq_iff_dvd' (by omega)).mp equal
    have := Nat.le_of_dvd (by omega) divides
    omega
  have placeP := Nat.mod_lt (c + p) (show 0 < l.capacity by omega)
  have placeQ := Nat.mod_lt (c + q) (show 0 < l.capacity by omega)
  simp only [inBytes, wrapAddr, Lane.unitAddr] at same
  omega

/-! ## A record written to the ring (R127) -/

theorem Lane.wrote_written {l : Lane} {n : Nat} (runs : l.written.toNat + n < 2 ^ 32) : (l.wrote n).written.toNat = l.written.toNat + n := by
  have count : (BitVec.ofNat 32 n).toNat = n := (BitVec.toNat_ofNat _ _).trans (Nat.mod_eq_of_lt (by omega))
  rw [Lane.wrote, BitVec.toNat_add, count]
  exact Nat.mod_eq_of_lt runs

theorem ringStore_settled {s : State} (settled : s.settled) (k : Fin 4) (units : List Word64) :
    s.ringStore k units =
      storeUnits .laneRing (fun i => (s.lanes.get k).unitAddr ((s.lanes.get k).written.toNat + i)) units 0 s.shared [] := by
  unfold State.ringStore
  rw [settled]

/-- With no failure in store the record is written. -/
theorem ringWrite_lane {s : State} (settled : s.settled) (k : Fin 4) (units : List Word64) :
    (s.ringWrite k units).lanes.get k = (s.lanes.get k).wrote units.length := by
  have succeeds : (s.ringStore k units).failed = false := by
    rw [ringStore_settled settled]
    exact storeUnits_succeeds _ _ _ _ _
  unfold State.ringWrite
  dsimp only
  rw [Four.get_set_same, succeeds]
  rfl

/-- The units of the record follow the written count (R127). -/
theorem ringWrite_getUnit {s : State} (ready : s.ready) {k : Fin 4} {units : List Word64} (few : units.length ≤ (s.lanes.get k).capacity)
    (fits : (s.lanes.get k).ringAddr + 8 * (s.lanes.get k).capacity ≤ 2 ^ 64) {i : Nat} (named : i < units.length) :
    (s.ringWrite k units).shared.getUnit ((s.lanes.get k).unitAddr ((s.lanes.get k).written.toNat + i)) = units.getD i 0 := by
  change (s.ringStore k units).mem.getUnit _ = _
  rw [ringStore_settled ready.1]
  have stored := storeUnits_getUnit .laneRing (fun i => (s.lanes.get k).unitAddr ((s.lanes.get k).written.toNat + i)) units 0 s.shared ready.2
    (Lane.unitAddr_apart fits _ _ few) i named
  rwa [Nat.zero_add] at stored

/-- A byte outside the ring reads as before, whether or not a store fails. -/
theorem ringWrite_get_out {s : State} (wf : s.shared.wf = true) {k : Fin 4} (holds : 0 < (s.lanes.get k).capacity) (units : List Word64) {a : Nat}
    (ha : a < 2 ^ 64) (out : ¬ inBytes (s.lanes.get k).ringAddr (8 * (s.lanes.get k).capacity) a) :
    (s.ringWrite k units).shared.get a = s.shared.get a :=
  storeUnits_get_out _ _ ha units 0 s.shared _ wf (fun _ _ _ within => out (Lane.inBytes_of_unitAddr holds _ within))

/-! ## A record offered to the ring (R127, R129) -/

section
variable {s : State} {k : Fin 4} (going : (s.lanes.get k).suspended = false)
include going

theorem ringOffer_room (live : Bool) {units : List Word64} (room : (s.lanes.get k).noRoom units = false) :
    s.ringOffer k live units = s.ringWrite k units := by
  simp [State.ringOffer, going, room]

theorem ringOffer_live_noRoom {units : List Word64} (full : (s.lanes.get k).noRoom units = true) :
    s.ringOffer k true units = s.setLaneAt k (s.lanes.get k).loses := by
  simp [State.ringOffer, going, full]

end

/-- Settles O37: with room the record is written, and a live one without room is lost. -/
theorem recordGoesToRing : Obligations.RecordGoesToRing := by
  intro s k live units ready going
  refine ⟨fun nothingWaits room holds runs fits => ?_, fun isLive short _ => ?_⟩
  · have finds : (s.lanes.get k).noRoom units = false := by simp [Lane.noRoom, nothingWaits, room]
    have few : units.length ≤ (s.lanes.get k).capacity := Nat.le_trans room (Nat.sub_le _ _)
    rw [ringOffer_room going live finds, ringWrite_lane ready.1]
    exact ⟨fun i named => ringWrite_getUnit ready few fits named, Lane.wrote_written runs, rfl, rfl,
      fun a ha out => ringWrite_get_out ready.2 holds units ha out⟩
  · have full : (s.lanes.get k).noRoom units = true := by simp [Lane.noRoom, short]
    subst isLive
    rw [ringOffer_live_noRoom going full, Lane.loses, satSucc_eq_min]
    exact ⟨rfl, by simp [Lane.ringFull, going, full]⟩

end Sys2Proof.Machine
end

section
/-! PROOFS. The decode lanes at work (spec/06): what a lane's decoder gives out touches of lanes and memory only its own, and the frame idle expiry (R116, R117,
R120; O38). -/

namespace Sys2Proof.Machine

/-! ## What a lane's own work leaves alone -/

/-- `u` comes from `s` by work of lane `k` that is not its decoder's: the other lanes stand, lane `k` keeps its decoder and its ring, shared memory changes inside
that ring alone, and a sequencer that does not run is handed nothing. -/
structure OwnWork (k : Fin 4) (s u : State) : Prop where
  others : ∀ j, j ≠ k → u.lanes.get j = s.lanes.get j
  dec : (u.lanes.get k).dec = (s.lanes.get k).dec
  ringAddr : (u.lanes.get k).ringAddr = (s.lanes.get k).ringAddr
  capacity : (u.lanes.get k).capacity = (s.lanes.get k).capacity
  seq : s.seq.state ≠ .running → u.seq = s.seq
  wf : s.shared.wf = true → u.shared.wf = true
  bytes : s.shared.wf = true → ∀ a, a < 2 ^ 64 → ¬ inBytes (s.lanes.get k).ringAddr (8 * (s.lanes.get k).capacity) a →
    u.shared.get a = s.shared.get a

theorem OwnWork.trans {k : Fin 4} {s u v : State} (h : OwnWork k s u) (g : OwnWork k u v) : OwnWork k s v where
  others j other := (g.others j other).trans (h.others j other)
  dec := g.dec.trans h.dec
  ringAddr := g.ringAddr.trans h.ringAddr
  capacity := g.capacity.trans h.capacity
  seq still := (g.seq (by rw [h.seq still]; exact still)).trans (h.seq still)
  wf canonical := g.wf (h.wf canonical)
  bytes canonical a ha out := (g.bytes (h.wf canonical) a ha (by rwa [h.ringAddr, h.capacity])).trans (h.bytes canonical a ha out)

/-- Work that leaves shared memory, the lanes and the sequencer as they are. -/
theorem ownWork_of_same {k : Fin 4} {s u : State} (lanes : u.lanes = s.lanes) (shared : u.shared = s.shared)
    (seq : s.seq.state ≠ .running → u.seq = s.seq) : OwnWork k s u where
  others _ _ := by rw [lanes]
  dec := by rw [lanes]
  ringAddr := by rw [lanes]
  capacity := by rw [lanes]
  seq := seq
  wf canonical := by rwa [shared]
  bytes _ _ _ _ := by rw [shared]

theorem OwnWork.refl (k : Fin 4) (s : State) : OwnWork k s s := ownWork_of_same rfl rfl (fun _ => rfl)

/-- Work that changes of lane `k` neither the decoder nor the ring. -/
theorem ownWork_setLaneAt (s : State) (k : Fin 4) {l : Lane} (dec : l.dec = (s.lanes.get k).dec) (ringAddr : l.ringAddr = (s.lanes.get k).ringAddr)
    (capacity : l.capacity = (s.lanes.get k).capacity) : OwnWork k s (s.setLaneAt k l) where
  others _ other := Four.get_set_ne _ _ other
  dec := by rw [State.setLaneAt, Four.get_set_same, dec]
  ringAddr := by rw [State.setLaneAt, Four.get_set_same, ringAddr]
  capacity := by rw [State.setLaneAt, Four.get_set_same, capacity]
  seq _ := rfl
  wf := id
  bytes _ _ _ _ := rfl

/-- A sequencer that does not run is fed by no lane (R147). -/
theorem ownWork_relationsToSeq (s : State) (k : Fin 4) (rels : List (Option Relation)) : OwnWork k s (s.relationsToSeq k rels) :=
  ownWork_of_same rfl rfl (fun still => by
    have unfed : s.feeding k = false := by simp [State.feeding, still]
    unfold State.relationsToSeq
    rw [unfed]
    rfl)

theorem ownWork_ringWrite (s : State) {k : Fin 4} (holds : 0 < (s.lanes.get k).capacity) (units : List Word64) :
    OwnWork k s (s.ringWrite k units) := by
  have lane : ∃ l : Lane, (s.ringWrite k units).lanes = s.lanes.set k l ∧ l.dec = (s.lanes.get k).dec ∧
      l.ringAddr = (s.lanes.get k).ringAddr ∧ l.capacity = (s.lanes.get k).capacity := by
    refine ⟨_, rfl, ?_⟩
    split <;> exact ⟨rfl, rfl, rfl⟩
  obtain ⟨l, lanes, dec, ringAddr, capacity⟩ := lane
  exact
    { others := fun _ other => by rw [lanes, Four.get_set_ne _ _ other]
      dec := by rw [lanes, Four.get_set_same, dec]
      ringAddr := by rw [lanes, Four.get_set_same, ringAddr]
      capacity := by rw [lanes, Four.get_set_same, capacity]
      seq := fun _ => rfl
      wf := fun canonical => storeUnits_wf _ _ _ _ _ _ canonical
      bytes := fun canonical _ ha out => ringWrite_get_out canonical holds units ha out }

/-- A record that finds room has a ring to go to (R127). -/
theorem ownWork_ringOffer (s : State) (k : Fin 4) (live : Bool) {units : List Word64} (record : units ≠ []) :
    OwnWork k s (s.ringOffer k live units) := by
  unfold State.ringOffer
  dsimp only
  split
  · exact ownWork_setLaneAt s k rfl rfl rfl
  split
  · split
    · exact ownWork_setLaneAt s k rfl rfl rfl
    · exact ownWork_setLaneAt s k rfl rfl rfl
  · next room =>
    have fits : units.length ≤ (s.lanes.get k).freeUnits := by
      simp only [Lane.noRoom, Bool.or_eq_true, decide_eq_true_eq, not_or, Nat.not_lt] at room
      exact room.1
    have holds : 0 < (s.lanes.get k).capacity :=
      Nat.lt_of_lt_of_le (List.length_pos_iff.mpr record) (Nat.le_trans fits (Nat.sub_le _ _))
    exact ownWork_ringWrite s holds units

theorem ownWork_insertFrame (s : State) (k : Fin 4) (t : Tick) (b : RecBody) : OwnWork k s (s.insertFrame k t b) := by
  unfold State.insertFrame
  rw [noteLane_takes_only]
  unfold State.insert
  split
  · exact ownWork_of_same rfl rfl (fun _ => rfl)
  · exact ownWork_of_same rfl rfl (fun _ => rfl)

theorem ownWork_emit (s : State) (k : Fin 4) (live : Bool) (t : Tick) (e : Emission) : OwnWork k s (s.emit k live t e) := by
  unfold State.emit
  dsimp only
  have offered := (ownWork_relationsToSeq s k (relationsOf s.slots k e.fields)).trans (ownWork_ringOffer _ k live
    (units := frameRecord k (s.lanes.get k).config.proto (s.lanes.get k).lostBefore (!live) t (relationsOf s.slots k e.fields) e)
    (List.cons_ne_nil _ _))
  split
  · exact offered.trans (ownWork_insertFrame _ k t _)
  · exact offered.trans (ownWork_setLaneAt _ k rfl rfl rfl)

theorem ownWork_laneOut (k : Fin 4) (live : Bool) (t : Tick) (x : State × BitVec 7) (o : LaneOut) :
    OwnWork k x.1 (State.laneOut k live t x o).1 := by
  cases o with
  | opened =>
    unfold State.laneOut
    dsimp only
    split
    · exact ownWork_insertFrame _ _ _ _
    · exact .refl k _
  | raised e => exact .refl k _
  | emitted e => exact ownWork_emit x.1 k live t e

theorem ownWork_raiseExcs (s : State) (k : Fin 4) (excs : BitVec 7) : OwnWork k s (s.raiseExcs k excs) :=
  (ownWork_setLaneAt s k (l := (s.lanes.get k).raised excs) rfl rfl rfl).trans (ownWork_of_same rfl rfl (fun _ => rfl))

/-- All that a decoder step gives out, once the decoder has taken its step. -/
theorem ownWork_laneStep (s : State) (k : Fin 4) (live : Bool) (t : Tick) (d : DecStep) :
    OwnWork k (s.setLaneAt k { s.lanes.get k with dec := d.dec }) (s.laneStep k live t d) := by
  have folded (outs : List LaneOut) (x : State × BitVec 7) : OwnWork k x.1 (outs.foldl (State.laneOut k live t) x).1 := by
    induction outs generalizing x with
    | nil => exact .refl k _
    | cons o rest ih => exact (ownWork_laneOut k live t x o).trans (ih _)
  exact (folded d.outs (_, 0)).trans (ownWork_raiseExcs _ k _)

/-! ## The frame idle expiry (R116, R117, R120) -/

/-- The decoder's step in which the lane's frame closes by its protocol. -/
def Lane.frameClosed (l : Lane) : DecStep := DecStep.close ⟨l.dec, []⟩ l.config.proto false

/-- A closed frame leaves the decoder in HUNTING with an empty stack (R124). -/
theorem Lane.frameClosed_hunting (l : Lane) : l.frameClosed.dec.inFrame = false ∧ l.frameClosed.dec.stack = [] := ⟨rfl, rfl⟩

theorem laneIdleExpiry_of_idles {s : State} {k : Fin 4} (idles : s.laneIdles k = true) :
    s.laneIdleExpiry k = s.laneStep k ((s.lanes.get k).state == .attached) (s.laneTime k) (s.lanes.get k).frameClosed := if_pos idles

theorem laneWork_laneIdleExpiry (s : State) (k : Fin 4) : LaneWork s (s.laneIdleExpiry k) := by
  unfold State.laneIdleExpiry
  split
  · exact (laneWork_laneOuts s k _ _ _).trans (laneWork_raiseExcs _ k _)
  · exact .refl s

/-- Once the frame is closed, what the close gives out is the lane's own work. -/
theorem ownWork_laneIdleExpiry {s : State} {k : Fin 4} (idles : s.laneIdles k = true) :
    OwnWork k (s.setLaneAt k { s.lanes.get k with dec := (s.lanes.get k).frameClosed.dec }) (s.laneIdleExpiry k) := by
  rw [laneIdleExpiry_of_idles idles]
  exact ownWork_laneStep s k _ _ _

theorem laneIdleExpiry_dec {s : State} {k : Fin 4} (idles : s.laneIdles k = true) :
    ((s.laneIdleExpiry k).lanes.get k).dec = (s.lanes.get k).frameClosed.dec := by
  rw [(ownWork_laneIdleExpiry idles).dec, State.setLaneAt, Four.get_set_same]

theorem laneIdleExpiry_others {s : State} {k j : Fin 4} (idles : s.laneIdles k = true) (other : j ≠ k) :
    (s.laneIdleExpiry k).lanes.get j = s.lanes.get j :=
  ((ownWork_laneIdleExpiry idles).others j other).trans (Four.get_set_ne _ _ other)

/-- The records of the close go to the lane's ring, and nowhere else in shared memory. -/
theorem laneIdleExpiry_get_out {s : State} {k : Fin 4} (idles : s.laneIdles k = true) (wf : s.shared.wf = true) {a : Nat} (ha : a < 2 ^ 64)
    (out : ¬ inBytes (s.lanes.get k).ringAddr (8 * (s.lanes.get k).capacity) a) : (s.laneIdleExpiry k).shared.get a = s.shared.get a := by
  refine (ownWork_laneIdleExpiry idles).bytes wf a ha ?_
  rw [State.setLaneAt, Four.get_set_same]
  exact out

theorem searchFlush_of_not_running {s : State} (h : s.seq.state ≠ .running) : s.searchFlush = s := by
  simp [State.searchFlush, State.searchRuns, h]

/-- With no event for the sequencer, and none handed to it by the close, the step closes as any other does. -/
theorem exec_frameIdleExpiry_still {s : State} {k : Fin 4} (quiet : s.quiet) (still : s.seq.state ≠ .running) (seq : (s.laneIdleExpiry k).seq = s.seq) :
    exec (.frameIdleExpiry k) s = .next (s.laneIdleExpiry k).finish := by
  have quietAfter : (s.laneIdleExpiry k).quiet := by
    unfold State.quiet
    rw [seq]
    exact quiet
  change Host.Outcome.next (s.laneIdleExpiry k).searchFlush.finishEvents = _
  rw [searchFlush_of_not_running (by rw [seq]; exact still), finishEvents_quiet quietAfter]

/-- Settles O38: the frame closes, and what the close gives out is the lane's own work. -/
theorem frameIdleClosesFrame : Obligations.FrameIdleClosesFrame := by
  intro s k ready quiet _ idles still
  have work := laneWork_laneIdleExpiry s k
  have kept := laneIdleExpiry_keeps s k (.refl s)
  have seq : (s.laneIdleExpiry k).seq = s.seq := (ownWork_laneIdleExpiry idles).seq still
  have disp : (s.laneIdleExpiry k).disp = s.disp := by rw [work.frame]
  have closed := finish_closes (u := s.laneIdleExpiry k) ⟨kept.plan ready.1, kept.shared ready.2⟩
  obtain ⟨hunting, empty⟩ := (s.lanes.get k).frameClosed_hunting
  refine ⟨_, exec_frameIdleExpiry_still quiet still seq, by rw [closed.lanes, laneIdleExpiry_dec idles, hunting],
    by rw [closed.lanes, laneIdleExpiry_dec idles, empty], fun j other => by rw [closed.lanes, laneIdleExpiry_others idles other],
    by rw [closed.pods, work.frame], by rw [closed.gens, work.frame], closed.seq.trans seq, by rw [closed.slots, work.frame],
    by rw [closed.monitor, work.frame], by rw [closed.panel, work.frame], closed.disp.trans disp, fun a ha outRing outPage => ?_⟩
  have samePage : ¬ (s.laneIdleExpiry k).inPage a := by
    unfold State.inPage
    rw [disp]
    exact outPage
  rw [closed.2 a ha (fun stored => stored) samePage]
  exact laneIdleExpiry_get_out idles ready.2 ha outRing

end Sys2Proof.Machine
end

section
/-! PROOFS. The match slots (spec/07): SET MATCH (O33), and the relation of a slot to a record (O34). -/

namespace Sys2Proof.Machine

/-! ## SET MATCH (R140) -/

/-- The match unit has eight slots, and a valid order names one of them (R140, step 1). -/
theorem SetMatchP.slot_lt_of_valid {p : SetMatchP} (valid : p.valid = true) : p.slot < 8 := by
  simp only [SetMatchP.valid, inRange, Bool.and_eq_true, decide_eq_true_eq] at valid
  omega

/-- Past BAD FIELD, the answer rests on the lane the slot is bound to and on the lane the order binds it to (R140, steps 2 and 3). -/
theorem setMatchOrder_of_valid {p : SetMatchP} (valid : p.valid = true) (s : State) :
    setMatchOrder p s =
      if ((s.slots.getD p.slot MatchSlot.reset).enabled = true ∧ (s.lanes.get (s.slots.getD p.slot MatchSlot.reset).lane).atWork = true) ∨
          (p.enable = 1 ∧ (s.lanes.get (fin4 p.lane)).atWork = true) then
        refuse s .busy
      else accept { s with slots := putAt s.slots p.slot (if p.enable = 1 then p.slotOf else MatchSlot.reset) } := by
  simp only [setMatchOrder, State.slotBusy, valid, Bool.not_true, Bool.false_eq_true, if_false, Bool.or_eq_true, Bool.and_eq_true, beq_iff_eq]

/-- Settles O33: a lane at work refuses the order; otherwise one slot of the table is replaced. -/
theorem setMatchWrites : Obligations.SetMatchWrites := by
  intro s o p ready clear valid slots
  have answered : exec (.setMatch o p) s = orderResult (setMatchOrder p s) o .setMatch := rfl
  rw [answered, setMatchOrder_of_valid valid]
  refine ⟨fun busy => ?_, fun free => ?_⟩
  · rw [if_pos busy]
    exact orderResult_completed .busy ready clear
  · rw [if_neg free]
    obtain ⟨t, next, done⟩ := orderResult_completed .ok
      (u := { s with slots := putAt s.slots p.slot (if p.enable = 1 then p.slotOf else MatchSlot.reset) }) (o := o) (kind := .setMatch) ready clear
    have named : p.slot < s.slots.length := slots ▸ SetMatchP.slot_lt_of_valid valid
    refine ⟨t, next, ?_, fun j other => ?_, ?_⟩
    · rw [done.slots]
      exact done
    · rw [done.slots, getD_putAt, if_neg (fun same => other same.1)]
    · rw [done.slots, getD_putAt, if_pos ⟨rfl, named⟩]
      rfl

/-! ## The relation of a slot (R142) -/

/-- The masked values are less, the same or greater, and the relation says which. -/
theorem maskedRelation_cases (value reference mask : BitVec 32) :
    (maskedRelation value reference mask = .less ∧ (value &&& mask).toNat < (reference &&& mask).toNat) ∨
    (maskedRelation value reference mask = .equal ∧ (value &&& mask).toNat = (reference &&& mask).toNat) ∨
    (maskedRelation value reference mask = .greater ∧ (reference &&& mask).toNat < (value &&& mask).toNat) := by
  unfold maskedRelation
  obtain less | equal | greater := Nat.lt_trichotomy (value &&& mask).toNat (reference &&& mask).toNat
  · exact .inl ⟨if_pos less, less⟩
  · exact .inr (.inl ⟨by rw [equal, if_neg (Nat.lt_irrefl _), if_neg (Nat.lt_irrefl _)], equal⟩)
  · exact .inr (.inr ⟨by rw [if_neg (Nat.lt_asymm greater), if_pos greater], greater⟩)

theorem maskedRelation_ne_unordered (value reference mask : BitVec 32) : maskedRelation value reference mask ≠ .unordered := by
  obtain ⟨relation, _⟩ | ⟨relation, _⟩ | ⟨relation, _⟩ := maskedRelation_cases value reference mask <;> simp [relation]

/-- Each relation holds of exactly one order of the masked values. -/
theorem maskedRelation_iff (value reference mask : BitVec 32) :
    (maskedRelation value reference mask = .less ↔ (value &&& mask).toNat < (reference &&& mask).toNat) ∧
    (maskedRelation value reference mask = .greater ↔ (reference &&& mask).toNat < (value &&& mask).toNat) ∧
    (maskedRelation value reference mask = .equal ↔ value &&& mask = reference &&& mask) := by
  rw [← BitVec.toNat_inj]
  obtain ⟨relation, order⟩ | ⟨relation, order⟩ | ⟨relation, order⟩ := maskedRelation_cases value reference mask <;>
    simp only [relation, reduceCtorEq, true_iff, false_iff] <;> omega

section
variable {m : MatchSlot} {fields : List Field}

theorem MatchSlot.relation_absent (absent : fields[m.index]? = none) : m.relation fields = .unordered := by
  unfold MatchSlot.relation
  rw [absent]

theorem MatchSlot.relation_field {f : Field} (field : fields[m.index]? = some f) :
    m.relation fields = if f.tag = .complete then maskedRelation f.value m.reference m.mask else .unordered := by
  unfold MatchSlot.relation
  rw [field]

theorem MatchSlot.relation_complete {f : Field} (field : fields[m.index]? = some f) (complete : f.tag = .complete) :
    m.relation fields = maskedRelation f.value m.reference m.mask := by
  rw [relation_field field, if_pos complete]

theorem MatchSlot.relation_unordered_iff : m.relation fields = .unordered ↔ ∀ f, fields[m.index]? = some f → f.tag ≠ .complete := by
  cases field : fields[m.index]? with
  | none => simp [relation_absent field]
  | some f =>
    rw [relation_field field]
    by_cases complete : f.tag = .complete
    · simp [complete, maskedRelation_ne_unordered]
    · simp [complete]

end

/-- Settles O34: a field that is absent or not COMPLETE is UNORDERED; a COMPLETE one compares as its masked value does. -/
theorem slotRelation : Obligations.SlotRelation := by
  intro m fields
  refine ⟨MatchSlot.relation_unordered_iff, fun f field complete => ?_⟩
  rw [MatchSlot.relation_complete field complete]
  exact maskedRelation_iff f.value m.reference m.mask

end Sys2Proof.Machine
end

section
/-! PROOFS. The replay engine (spec/08): REPLAY (R149, R150; O50). -/

namespace Sys2Proof.Machine

/-! ## The answers of REPLAY -/

theorem recordClear_of_le {s : State} {o : OrderRef} {kind : OrderKind} {m n : Nat} (few : m ≤ n) (clear : s.recordClear o kind n) :
    s.recordClear o kind m := by
  obtain ⟨usable, inSpace, offPage⟩ := clear
  refine ⟨usable, by omega, offPage.imp_right fun ⟨page, apart⟩ => ⟨page, by omega⟩⟩

theorem mem_lanesIn {m : BitVec 4} {k : Fin 4} : k ∈ lanesIn m ↔ m.getLsbD k.val = true := by
  rw [lanesIn, List.mem_filter, and_iff_right (mem_fourOrder k)]

theorem laneNotIdle_iff {s : State} {m : BitVec 4} :
    s.laneNotIdle m = true ↔ ∃ k : Fin 4, m.getLsbD k.val = true ∧ (s.lanes.get k).state ≠ .idle := by
  simp [State.laneNotIdle, mem_lanesIn]

section
variable {s : State} {p : ReplayP} (valid : p.valid = true) (o : OrderRef)
include valid

theorem replayOrder_noSuchTake (unended : ∀ i, s.takeIndex p.takeId = some i → (s.takeAt i).state ≠ .ended) :
    replayOrder o p s = refuse s .noSuchTake := by
  unfold replayOrder
  cases named : s.takeIndex p.takeId with
  | none => simp [valid]
  | some i => simp [valid, unended i named]

variable {i : Nat} (named : s.takeIndex p.takeId = some i) (ended : (s.takeAt i).state = .ended)
include named ended

theorem replayOrder_busy (busy : s.replay.running = true ∨ s.laneNotIdle (BitVec.ofNat 4 p.lanes) = true) :
    replayOrder o p s = refuse s .busy := by
  unfold replayOrder
  rw [named]
  obtain running | laneBusy := busy
  · simp [valid, ended, running]
  · simp [valid, ended, laneBusy]

/-- Past the refusals, a REPLAY without a search rests on the range as clipped to the recorded span (R150). -/
theorem replayOrder_searchless (still : s.replay.running = false) (lanesIdle : s.laneNotIdle (BitVec.ofNat 4 p.lanes) = false)
    (searchless : p.search = 0) {span : Nat × Nat} (recorded : s.recordedSpan (s.takeAt i) = some span) :
    replayOrder o p s =
      if (clipRange p span).2 < (clipRange p span).1 then ⟨s, some .ok, emptyReplay p (clipRange p span)⟩
      else inFlight (s.replayStart o p (s.takeAt i) span.1 (clipRange p span)) := by
  unfold replayOrder
  rw [named]
  simp [valid, ended, still, lanesIdle, searchless, recorded]

end

/-- The result of an empty range is as long as any REPLAY result: seven units and the 64 places of hits. -/
theorem emptyReplay_length (p : ReplayP) (range : Nat × Nat) : (emptyReplay p range).length = 71 := rfl

/-! ## The engine starts -/

theorem dropHoldOpt_frame (s : State) (h : Option Nat) (renderer : Bool) :
    s.dropHoldOpt h renderer = { s with pool := (s.dropHoldOpt h renderer).pool } := by
  cases h <;> rfl

/-- The engine's position at the front is a hold: the block's hold count and the engine's note of it change, and nothing else. -/
theorem replayFront_frame (s : State) :
    s.replayFront = { s with replay := { s.replay with held := s.replayFront.replay.held }, pool := s.replayFront.pool } := by
  have held (b : Nat) : s.replayHolds b =
      { s with replay := { s.replay with held := (s.replayHolds b).replay.held }, pool := (s.replayHolds b).pool } := by
    unfold State.replayHolds
    rw [dropHoldOpt_frame]
    rfl
  unfold State.replayFront
  split
  · rfl
  split
  · rfl
  split
  · rfl
  · exact held _

/-- Each lane of a list without repetitions changed in turn. -/
theorem get_foldl_set (f : Lane → Lane) {ks : List (Fin 4)} (distinct : ks.Nodup) (l : Four Lane) (k : Fin 4) :
    (ks.foldl (fun l j => l.set j (f (l.get j))) l).get k = if k ∈ ks then f (l.get k) else l.get k := by
  induction ks generalizing l with
  | nil => rfl
  | cons j rest ih =>
    obtain ⟨new, distinct⟩ := List.nodup_cons.mp distinct
    rw [List.foldl_cons, ih distinct, Four.get_set]
    by_cases same : k = j
    · subst same
      simp [new]
    · simp [same]

theorem replayStart_lane (s : State) (o : OrderRef) (p : ReplayP) (t : Take) (base : Nat) (range : Nat × Nat) (k : Fin 4) :
    (s.replayStart o p t base range).lanes.get k =
      if (BitVec.ofNat 4 p.lanes).getLsbD k.val = true then (s.lanes.get k).startsReplay else s.lanes.get k := by
  have distinct : (lanesIn (BitVec.ofNat 4 p.lanes)).Nodup := List.Nodup.filter _ (by decide)
  unfold State.replayStart
  rw [replayFront_frame]
  simp only [get_foldl_set Lane.startsReplay distinct, mem_lanesIn]

/-- An accepted REPLAY touches the engine itself, its named lanes, the sequencer, and the hold of the front block. -/
theorem replayStart_frame (s : State) (o : OrderRef) (p : ReplayP) (t : Take) (base : Nat) (range : Nat × Nat) :
    s.replayStart o p t base range = { s with
      replay := { runningReplay o p t range (gridAt base t.intervalExp range.1) (s.replayStart o p t base range).replay.noticed with
        held := (s.replayStart o p t base range).replay.held }
      lanes := (s.replayStart o p t base range).lanes
      seq := (s.replayStart o p t base range).seq
      pool := (s.replayStart o p t base range).pool } := by
  unfold State.replayStart
  rw [replayFront_frame]
  rfl

/-- Without a search the sequencer is left alone. -/
theorem replayStart_seq {p : ReplayP} (searchless : p.search = 0) (s : State) (o : OrderRef) (t : Take) (base : Nat) (range : Nat × Nat) :
    (s.replayStart o p t base range).seq = s.seq := by
  unfold State.replayStart
  rw [replayFront_frame]
  exact if_neg (by rw [searchless]; decide)

/-- Settles O50: each refusal is the answer of its check; past them, by whether the clipped range is empty. -/
theorem replayStarts : Obligations.ReplayStarts := by
  intro s o p ready clear valid
  have answered : exec (.replay o p) s = orderResult (replayOrder o p s) o .replay := rfl
  have refused (oc : Outcome) : ∃ t, orderResult (refuse s oc) o .replay = .next t ∧ completedFrom s t o .replay oc [] :=
    orderResult_completed oc ready (recordClear_of_le (Nat.zero_le _) clear)
  rw [answered]
  refine ⟨fun unended => ?_, fun i named ended => ⟨fun running => ?_, fun _ laneBusy => ?_, fun still searchless lanesIdle f l recorded => ?_⟩⟩
  · rw [replayOrder_noSuchTake valid o unended]
    exact refused _
  · rw [replayOrder_busy valid o named ended (.inl running)]
    exact refused _
  · rw [replayOrder_busy valid o named ended (.inr (laneNotIdle_iff.mpr laneBusy))]
    exact refused _
  have noneBusy : s.laneNotIdle (BitVec.ofNat 4 p.lanes) = false := by
    rw [Bool.eq_false_iff, ne_eq, laneNotIdle_iff]
    rintro ⟨k, lane, busy⟩
    exact busy (lanesIdle k lane)
  rw [replayOrder_searchless valid o named ended still noneBusy searchless recorded]
  have range : clipRange p (f, l) = (max p.rangeStart f, min p.rangeEnd l) := rfl
  refine ⟨fun empty => ?_, fun inRange => ?_⟩
  · rw [range, if_pos empty]
    exact ⟨_, rfl, complete_finish ready.1 ready.2 clear⟩
  · rw [range, if_neg (Nat.not_lt.mpr inRange)]
    have kept := replayStart_keeps s o p (s.takeAt i) f (clipRange p (f, l)) (.refl s)
    have lane := replayStart_lane s o p (s.takeAt i) f (clipRange p (f, l))
    have seq := replayStart_seq searchless s o (s.takeAt i) f (clipRange p (f, l))
    have frame := replayStart_frame s o p (s.takeAt i) f (clipRange p (f, l))
    rw [range] at kept lane seq frame
    generalize s.replayStart o p (s.takeAt i) f (max p.rangeStart f, min p.rangeEnd l) = u at kept lane seq frame
    have closed := finish_closes (u := u) ⟨kept.plan ready.1, kept.shared ready.2⟩
    have bytes : bytesKept s u.finish storesNothing := bytesKept_of_same (by rw [frame]) (by rw [frame]) closed.2
    refine ⟨u.finish, rfl, ?_⟩
    rw [closed.replay, closed.lanes, closed.pods, closed.gens, closed.monitor, closed.staging, closed.takes, closed.seq, seq, closed.slots,
      closed.panel, closed.alerts, closed.disp]
    have starts (k : Fin 4) (chosen : (BitVec.ofNat 4 p.lanes).getLsbD k.val = true) :
        (u.lanes.get k).state = .replaying ∧ (u.lanes.get k).dec.seqNo = 0 ∧ (u.lanes.get k).replayFrames = 0 := by
      rw [lane, if_pos chosen]
      exact ⟨rfl, rfl, rfl⟩
    have stands (k : Fin 4) (other : (BitVec.ofNat 4 p.lanes).getLsbD k.val = false) : u.lanes.get k = s.lanes.get k := by
      rw [lane, other]
      rfl
    rw [frame] at bytes starts stands ⊢
    exact ⟨rfl, rfl, rfl, rfl, rfl, rfl, starts, stands, rfl, rfl, rfl, rfl, rfl, rfl, rfl, rfl, rfl, rfl, bytes⟩

end Sys2Proof.Machine
end

section
/-! PROOFS. The export engine (spec/08, 8.6): what it stores, how far it goes without the port, and EXPORT (R159, R160; O52). -/

namespace Sys2Proof.Machine

/-! ## Units stored one straight after another -/

theorem Mem.putUnits_append (m : Mem) (a : Nat) (us vs : List Word64) :
    m.putUnits a (us ++ vs) = (m.putUnits a us).putUnits (a + 8 * us.length) vs := by
  induction us generalizing m a with
  | nil => rfl
  | cons u us ih =>
    rw [List.cons_append, Mem.putUnits, ih, Mem.putUnits, List.length_cons, Nat.mul_succ, Nat.add_comm (8 * _), ← Nat.add_assoc]

theorem Mem.getUnits_length (m : Mem) (a n : Nat) : (m.getUnits a n).length = n := by
  induction n generalizing a with
  | zero => rfl
  | succ n ih => rw [Mem.getUnits, List.length_cons, ih]

theorem Mem.getUnits_add (m : Mem) (a n k : Nat) : m.getUnits a (n + k) = m.getUnits a n ++ m.getUnits (a + 8 * n) k := by
  induction n generalizing a with
  | zero => rw [Nat.zero_add]; rfl
  | succ n ih =>
    rw [Nat.succ_add, Mem.getUnits, ih, Mem.getUnits, List.cons_append, Nat.mul_succ, Nat.add_comm (8 * n), ← Nat.add_assoc]

/-- With no failure in store, units at consecutive places are a run of units. -/
theorem storeUnits_consecutive (kind : LinkAccess) (a : Nat) (us : List Word64) (i : Nat) (m : Mem) :
    storeUnits kind (fun i => a + 8 * i) us i m [] = ⟨m.putUnits (a + 8 * i) us, [], false⟩ := by
  induction us generalizing i m with
  | nil => rfl
  | cons u us ih =>
    rw [storeUnits_cons, ih]
    rfl

theorem exportStore_settled {s : State} (settled : s.settled) (dest : Nat) (units : List Word64) :
    s.exportStore dest units = ⟨s.shared.putUnits dest units, [], false⟩ := by
  unfold State.exportStore
  rw [settled]
  exact storeUnits_consecutive _ dest units 0 _

/-! ## A burst after the closing of its step -/

theorem burstClear_of_disp {s u : State} {a n : Nat} (disp : u.disp = s.disp) (clear : burstClear s a n) : burstClear u a n := by
  unfold burstClear
  rwa [disp]

theorem notInPage_of_burstClear {s : State} {a n c : Nat} (clear : burstClear s a n) (first : a ≤ c) (last : c < a + 8 * n) : ¬ s.inPage c := by
  rintro ⟨running, inPage⟩
  obtain ⟨inSpace, halted | ⟨page, apart⟩⟩ := clear
  · exact running halted
  · unfold inBytes at inPage
    omega

/-- A burst clear of the page reads after the closing as before it. -/
theorem closedFrom.getUnits {u t : State} (closed : closedFrom u t) {a n : Nat} (clear : burstClear u a n) :
    t.shared.getUnits a n = u.shared.getUnits a n := by
  have inSpace := clear.1
  refine Mem.getUnits_congr _ _ _ _ fun i named => ?_
  have place : wrapAddr (a + i) = a + i := Nat.mod_eq_of_lt (by omega)
  rw [place]
  exact closed.2 _ (by omega) (fun stored => stored) (notInPage_of_burstClear clear (by omega) (by omega))

/-- A step that stores a run of units clear of the page: they read back after the closing, and no byte outside them and the page differs. -/
theorem closedFrom.stored {s u t : State} (ready : s.ready) (closed : closedFrom u t) {a n : Nat} {us : List Word64} (length : us.length = n)
    (shared : u.shared = s.shared.putUnits a us) (disp : u.disp = s.disp) (clear : burstClear s a n) :
    t.shared.getUnits a n = us ∧ bytesKept s t (inBytes a (8 * n)) := by
  subst length
  refine ⟨?_, fun c range out outside => ?_⟩
  · rw [closed.getUnits (burstClear_of_disp disp clear), shared]
    exact Mem.getUnits_putUnits _ _ _ ready.2 clear.1
  · have samePage : ¬ u.inPage c := by
      unfold State.inPage
      rwa [disp]
    rw [closed.2 c range (fun stored => stored) samePage, shared]
    exact Mem.get_putUnits_out _ _ _ _ ready.2 range out

/-! ## Holds -/

theorem placeHold_of_block {s : State} {b : Nat} {e : Block} (block : s.pool.block b = some e) (revocable : Bool) :
    s.placeHold b revocable = { s with pool := s.pool.setBlock b (e.held revocable) } := by
  unfold State.placeHold
  rw [block]

theorem dropHold_of_block {s : State} {b : Nat} {e : Block} (block : s.pool.block b = some e) (renderer : Bool) :
    s.dropHold b renderer = { s with pool := s.pool.setBlock b (e.unheld renderer) } := by
  unfold State.dropHold
  rw [block]

/-- The hold of a reader other than the renderer has no say in whether the block can be revoked (R63). -/
theorem Block.held_false (e : Block) : e.held false = { e with holdCount := e.holdCount + 1 } := by
  simp [Block.held]

theorem Block.unheld_false (e : Block) : e.unheld false = { e with holdCount := e.holdCount - 1 } := by
  simp [Block.unheld]

theorem Block.segmentHeader_length (e : Block) : e.segmentHeader.length = 4 := rfl

/-! ## The engine without the port (R160) -/

/-- The engine holds block `b` with entry `e` for the job at its head, and has written its header. -/
def State.segmentOpened (s : State) (j : ExportJob) (b : Nat) (e : Block) : State :=
  { s with
    pool := s.pool.setBlock b (e.held false)
    exporter := { s.exporter with held := some b, index := 0 }
    shared := s.shared.putUnits (j.dest + s.exporter.bytes) e.segmentHeader
    failPlan := [] }

theorem segmentOpened_shared {s : State} {j : ExportJob} {a : Nat} (place : j.dest + s.exporter.bytes = a) (b : Nat) (e : Block) :
    (s.segmentOpened j b e).shared = s.shared.putUnits a e.segmentHeader := by
  subst place
  dsimp only [State.segmentOpened]

theorem segmentOpened_ready {s : State} (ready : s.ready) (j : ExportJob) (b : Nat) (e : Block) : (s.segmentOpened j b e).ready := by
  refine ⟨rfl, ?_⟩
  rw [segmentOpened_shared rfl]
  exact Mem.putUnits_wf _ _ _ ready.2

theorem segmentStart_settled {s : State} (settled : s.settled) (j : ExportJob) {b : Nat} {e : Block} (block : s.pool.block b = some e) :
    s.segmentStart j b e = s.segmentOpened j b e := by
  have stores := exportStore_settled (s := { s with pool := s.pool.setBlock b (e.held false) }) settled (j.dest + s.exporter.bytes) e.segmentHeader
  unfold State.segmentStart
  rw [placeHold_of_block block]
  dsimp only
  rw [stores]
  dsimp only
  rw [if_neg Bool.false_ne_true, State.segmentOpened]

theorem exportRun_of_empty {s : State} (empty : s.exporter.queue = []) (fuel : Nat) : s.exportRun fuel = s := by
  cases fuel with
  | zero => rfl
  | succ fuel => rw [State.exportRun, empty]

/-- While it holds a block the engine needs the port. -/
theorem exportRun_of_held {s : State} (held : s.exporter.held.isSome = true) (fuel : Nat) : s.exportRun fuel = s := by
  cases fuel with
  | zero => rfl
  | succ fuel =>
    unfold State.exportRun
    split
    · rfl
    · rw [held, Bool.true_or, if_pos rfl]

section
variable {s : State} {j : ExportJob} {rest : List ExportJob} (queue : s.exporter.queue = j :: rest) (free : s.exporter.held = none)
  (own : s.staleAccess .exporter = false)
include queue free own

/-- The order at the head, its run copied, ends with OK. -/
theorem exportRun_of_copied (copied : j.count ≤ s.exporter.copied) (fuel : Nat) :
    s.exportRun (fuel + 1) = (s.exportEnds .ok).exportRun fuel := by
  rw [State.exportRun, queue]
  dsimp only
  rw [free, own, if_neg (by decide), if_pos copied]

/-- The next segment of the order at the head, if it has room, is opened. -/
theorem exportRun_of_room (settled : s.settled) (more : s.exporter.copied < j.count) {b : Nat} {e : Block}
    (found : s.pool.find j.takeId s.exporter.nextSeq = some b) (entry : s.pool.blockOf j.takeId s.exporter.nextSeq = some e)
    (block : s.pool.block b = some e) (room : s.exporter.bytes + e.segmentBytes ≤ j.capacity) (fuel : Nat) :
    s.exportRun (fuel + 1) = s.segmentOpened j b e := by
  rw [State.exportRun, queue]
  dsimp only
  rw [free, own, if_neg (by decide), if_neg (Nat.not_le.mpr more), found, entry]
  dsimp only
  rw [if_neg (by omega), segmentStart_settled settled j block]
  exact exportRun_of_held rfl fuel

end

/-! ## EXPORT (R159, R160) -/

theorem exportOrder_of_full {s : State} (full : 4 ≤ s.exporter.queue.length) (o : OrderRef) (p : ExportP) :
    exportOrder o p s = inFlight (s.stallOn o.addr) := if_pos full

theorem exportOrder_accepted {s : State} {p : ExportP} {i : Nat} (room : s.exporter.queue.length < 4) (valid : p.valid = true)
    (named : s.takeIndex p.takeId = some i) (ended : (s.takeAt i).state = .ended)
    (inside : (s.takeAt i).blockOffset p.firstBlock < (s.takeAt i).sealedCount) (o : OrderRef) :
    exportOrder o p s = inFlight (s.exportJoin (exportJob o p (s.takeAt i))) := by
  have notFull : ¬ Config.exportQueue ≤ s.exporter.queue.length := Nat.not_le.mpr room
  unfold exportOrder
  rw [named, if_neg notFull]
  simp [valid, ended, inside]

/-- A job of an order in range asks for at least one block. -/
theorem exportJob_count_pos {p : ExportP} {t : Take} (valid : p.valid = true) (inside : t.blockOffset p.firstBlock < t.sealedCount) (o : OrderRef) :
    0 < (exportJob o p t).count := by
  simp only [ExportP.valid, inRange, Bool.and_eq_true, decide_eq_true_eq] at valid
  have := Nat.sub_pos_of_lt inside
  simp only [exportJob]
  omega

/-- Behind other orders a job joins the tail of the queue. -/
theorem exportJoin_of_waiting {s : State} (waiting : s.exporter.queue ≠ []) (held : s.exporter.held.isSome = true) (j : ExportJob) :
    s.exportJoin j = { s with exporter := { s.exporter with queue := s.exporter.queue ++ [j] } } := by
  unfold State.exportJoin
  dsimp only
  rw [List.isEmpty_eq_false_iff.mpr waiting, if_neg (by decide)]
  exact exportRun_of_held (by exact held) _

/-- The engine with one job, which it has not begun. -/
def State.exportHeaded (s : State) (j : ExportJob) : State := { s with exporter := s.exporter.headed [j] }

/-- With no order queued a job runs at once. -/
theorem exportJoin_of_empty {s : State} (empty : s.exporter.queue = []) (j : ExportJob) :
    s.exportJoin j = (s.exportHeaded j).exportRun exportFuel := by
  unfold State.exportJoin
  dsimp only
  rw [empty, List.isEmpty_nil, if_pos rfl, State.exportHeaded]

/-- Settles O52: a full queue; then by whether other orders are queued. -/
theorem exportJoinsQueue : Obligations.ExportJoinsQueue := by
  intro s o p ready
  have answered : exec (.exportOrder o p) s = orderResult (exportOrder o p s) o .exportOrder := rfl
  rw [answered]
  refine ⟨fun full => ?_, fun i room valid named ended inside => ?_⟩
  · rw [exportOrder_of_full full]
    exact ⟨_, rfl, finish_closes (u := s.stallOn o.addr) ready⟩
  rw [exportOrder_accepted room valid named ended inside]
  intro job
  refine ⟨fun waiting held => ?_, fun b e empty own found entry block fits clear => ?_⟩
  · rw [exportJoin_of_waiting waiting held]
    exact ⟨_, rfl, finish_closes (u := { s with exporter := _ }) ready⟩
  · have opens : s.exportJoin job = (s.exportHeaded job).segmentOpened job b e := by
      rw [exportJoin_of_empty empty]
      exact exportRun_of_room (s := s.exportHeaded job) rfl rfl own ready.1 (exportJob_count_pos valid inside o) found entry block
        (show 0 + (32 + 8 * e.records.length) ≤ p.capacity by omega) _
    have answer : orderResult (inFlight (s.exportJoin job)) o .exportOrder = .next ((s.exportHeaded job).segmentOpened job b e).finish := by
      rw [opens]
      rfl
    have closed := finish_closes (segmentOpened_ready (s := s.exportHeaded job) ready job b e)
    have shared : ((s.exportHeaded job).segmentOpened job b e).shared = s.shared.putUnits p.dest e.segmentHeader :=
      segmentOpened_shared (s := s.exportHeaded job) (j := job) (Nat.add_zero _) b e
    obtain ⟨header, bytes⟩ := closed.stored ready e.segmentHeader_length shared rfl clear
    have hold : ((s.exportHeaded job).segmentOpened job b e).pool.block b = some { e with holdCount := e.holdCount + 1 } := by
      rw [← Block.held_false]
      exact Pool.block_setBlock_same block _
    refine ⟨_, answer, ?_⟩
    rw [closed.exporter, closed.block, closed.pool_free, closed.takes, closed.pods, closed.gens, closed.lanes, closed.seq, closed.staging,
      closed.sampler, closed.monitor, closed.slots, closed.replay, closed.render, closed.panel, closed.alerts, closed.disp]
    exact ⟨rfl, rfl, rfl, rfl, rfl, rfl, hold, rfl, header, bytes, rfl, rfl, rfl, rfl, rfl, rfl, rfl, rfl, rfl, rfl, rfl, rfl, rfl, rfl⟩

end Sys2Proof.Machine
end

section
/-! PROOFS. Readers' accesses that complete (spec/04, R64, R65), and the export engine's (R160). -/

namespace Sys2Proof.Machine

/-! ## The port (R64, R65) -/

/-- A reader takes the data of an access that nothing has withdrawn and no drop waits for. -/
theorem exec_readerAccessComplete_taken {s : State} {r : Reader} (granted : s.granted (Reader.client r) = true)
    (own : s.staleAccess (Reader.client r) = false) (clean : ∀ g, s.pool.inFlight = some g → g.drops = none ∧ g.frees = none) :
    exec (.readerAccessComplete r) s = .next (s.portOver.readerTakes r).finish := by
  obtain ⟨g, access⟩ : ∃ g, s.pool.inFlight = some g := by
    cases access : s.pool.inFlight with
    | none => simp [State.granted, access] at granted
    | some g => exact ⟨g, rfl⟩
  obtain ⟨drops, frees⟩ := clean g access
  have freed : s.portFree = s.portOver := by
    unfold State.portFree
    rw [access]
    dsimp only
    rw [drops]
    rfl
  have noDrop : s.waitingDrop = none := by
    rw [State.waitingDrop, access]
    exact frees
  have done : s.readerDone r = s.portOver.readerTakes r := by
    unfold State.readerDone
    rw [noDrop, own, freed]
    rfl
  change Host.Outcome.next (if s.granted (Reader.client r) then s.readerDone r else s).finish = _
  rw [if_pos granted, done]

/-- The same where the access in flight is given. -/
theorem exec_readerAccessComplete_of_grant {s : State} {r : Reader} (access : s.pool.inFlight = some ⟨Reader.client r, false, none, none⟩) :
    exec (.readerAccessComplete r) s = .next (s.portOver.readerTakes r).finish := by
  refine exec_readerAccessComplete_taken ?_ ?_ fun g same => ?_
  · simp [State.granted, access]
  · simp [State.staleAccess, access]
  · obtain rfl : _ = g := Option.some.inj (access.symm.trans same)
    exact ⟨rfl, rfl⟩

/-- The data of an access whose right has ended is discarded, and the hold it kept drops (R65). -/
theorem exec_readerAccessComplete_stale {s : State} {r : Reader} {b : Nat} {e : Block}
    (access : s.pool.inFlight = some ⟨Reader.client r, true, some b, none⟩) (block : s.pool.block b = some e) :
    exec (.readerAccessComplete r) s =
      .next (State.readerResumes
        { s with pool := { s.pool.setBlock b (e.unheld (Reader.client r == .renderer)) with inFlight := none } } r).finish := by
  have granted : s.granted (Reader.client r) = true := by simp [State.granted, access]
  have stale : s.staleAccess (Reader.client r) = true := by simp [State.staleAccess, access]
  have noDrop : s.waitingDrop = none := by simp [State.waitingDrop, access]
  have freed : s.portFree = { s with pool := { s.pool.setBlock b (e.unheld (Reader.client r == .renderer)) with inFlight := none } } := by
    unfold State.portFree
    rw [access]
    exact dropHold_of_block (s := s.portOver) block _
  change Host.Outcome.next (if s.granted (Reader.client r) then s.readerDone r else s).finish = _
  rw [if_pos granted, State.readerDone, noDrop]
  dsimp only
  rw [if_pos stale, freed]

/-! ## The block found after another entry has changed -/

/-- As `Pool.find_setBlock`, for the entry found. -/
theorem Pool.blockOf_setBlock {p : Pool} {id seq f b : Nat} {e x y : Block} (found : p.find id seq = some f) (entry : p.blockOf id seq = some y)
    (other : f ≠ b) (block : p.block b = some e) (take : x.takeId = e.takeId) (number : x.seqNo = e.seqNo) :
    (p.setBlock b x).blockOf id seq = some y := by
  have still := Pool.find_setBlock found other block take number
  unfold Pool.find Pool.blockOf Pool.setBlock at *
  rw [List.find?_map] at still ⊢
  rw [Option.map_eq_some_iff] at found
  obtain ⟨z, first, rfl⟩ := found
  rw [first] at entry
  obtain rfl : z.2 = y := Option.some.inj entry
  obtain ⟨named, front, behind, list, unnamed⟩ := List.find?_eq_some_iff_append.mp first
  have stays {a : Nat × Block} (outside : a.1 ≠ b) : (if a.1 == b then (b, x) else a) = a := if_neg (by simpa using outside)
  simp only [Option.map_map, Option.map_eq_some_iff] at still
  obtain ⟨a, hit, index⟩ := still
  have outside : a.1 ≠ b := by
    intro inside
    rw [Function.comp_apply, if_pos (by simpa using inside)] at index
    exact other index.symm
  have same : a = z := by
    have onList := hit
    rw [list, List.find?_append] at onList
    cases atFront : front.find? (_ ∘ _) with
    | some c =>
      rw [atFront, Option.some_or] at onList
      obtain rfl := Option.some.inj onList
      have matched := List.find?_some atFront
      rw [Function.comp_apply, stays outside] at matched
      have missed := unnamed c (List.mem_of_find?_eq_some atFront)
      rw [matched] at missed
      exact absurd missed Bool.false_ne_true
    | none =>
      rw [atFront, Option.none_or, List.find?_cons_of_pos (by rw [Function.comp_apply, stays other]; exact named)] at onList
      exact (Option.some.inj onList).symm
  rw [hit, Option.map_some, Option.map_some, stays outside, same]

/-! ## A burst copied (R160) -/

/-- The place in the destination of the burst the engine copies next: straight after what it has copied. -/
def State.burstPlace (s : State) (j : ExportJob) : Nat := j.dest + s.exporter.bytes + 32 + 8 * s.exporter.index

/-- The records of the burst: the next 64 of the block, or those left of it (R64). -/
def State.exportBurst (s : State) (e : Block) : List CapRec := (e.records.drop s.exporter.index).take 64

theorem exportBurst_length (s : State) (e : Block) : (s.exportBurst e).length = min 64 (e.records.length - s.exporter.index) := by
  rw [State.exportBurst, List.length_take, List.length_drop]

/-- The part with the burst stored. -/
def State.burstStored (s : State) (j : ExportJob) (e : Block) : State :=
  { s with shared := s.shared.putUnits (s.burstPlace j) ((s.exportBurst e).map CapRec.unit), failPlan := [] }

/-- The part with a burst of the midst of a block copied. -/
def State.burstCopied (s : State) (j : ExportJob) (e : Block) : State :=
  { s.burstStored j e with exporter := { s.exporter with index := s.exporter.index + (s.exportBurst e).length } }

/-- The part with the last burst of block `b` copied: its hold dropped, its segment counted, and the next block's number found. -/
def State.segmentClosed (s : State) (j : ExportJob) (b : Nat) (e : Block) : State :=
  { s.burstStored j e with
    pool := s.pool.setBlock b (e.unheld false)
    exporter := { s.exporter with
      held := none
      index := 0
      bytes := s.exporter.bytes + e.segmentBytes
      copied := s.exporter.copied + 1
      nextSeq := (s.exporter.nextSeq + 1) % 2 ^ 32 } }

/-- With no failure in store the burst is copied, and the last one of a block takes the engine on (R160). -/
theorem exportAccess_settled {s : State} {j : ExportJob} {rest : List ExportJob} {b : Nat} {e : Block} (settled : s.settled)
    (queue : s.exporter.queue = j :: rest) (held : s.exporter.held = some b) (block : s.pool.block b = some e) :
    s.exportAccess =
      if s.exporter.index + (s.exportBurst e).length < e.records.length then s.burstCopied j e
      else (s.segmentClosed j b e).exportRun exportFuel := by
  have stores : s.exportStore (j.dest + s.exporter.bytes + 32 + 8 * s.exporter.index)
      (((e.records.drop s.exporter.index).take Config.readerBurst).map CapRec.unit) =
        ⟨(s.burstStored j e).shared, (s.burstStored j e).failPlan, false⟩ := exportStore_settled settled _ _
  have drops := dropHold_of_block (s := s.burstStored j e) block false
  unfold State.exportAccess
  rw [queue, held]
  dsimp only
  rw [block]
  dsimp only
  rw [stores]
  dsimp only
  rw [if_neg Bool.false_ne_true]
  change (if _ then s.burstCopied j e else State.exportRun { (s.burstStored j e).dropHold b false with
    exporter := _ } exportFuel) = _
  rw [drops]
  rfl

/-! ## What follows the last burst of a block (R160) -/

/-- The engine with its last order gone, before that order is completed. -/
def State.exportLeft (s : State) : State := { s with exporter := Exporter.reset }

section
variable {s : State} {j : ExportJob} {b : Nat} {e : Block}

/-- The last burst is what is left of the block. -/
theorem exportBurst_of_last (last : e.records.length ≤ s.exporter.index + 64) : s.exportBurst e = e.records.drop s.exporter.index :=
  List.take_of_length_le (by rw [List.length_drop]; omega)

/-- The last burst ends where the next segment begins. -/
theorem burstPlace_end (inside : s.exporter.index ≤ e.records.length) :
    s.burstPlace j + 8 * (e.records.length - s.exporter.index) = j.dest + (s.exporter.bytes + e.segmentBytes) := by
  unfold State.burstPlace Block.segmentBytes Block.recordCount
  omega

theorem burstStored_ready (ready : s.ready) (j : ExportJob) (e : Block) : (s.burstStored j e).ready :=
  ⟨rfl, Mem.putUnits_wf _ _ _ ready.2⟩

theorem segmentClosed_block (block : s.pool.block b = some e) (j : ExportJob) :
    (s.segmentClosed j b e).pool.block b = some { e with holdCount := e.holdCount - 1 } := by
  rw [← Block.unheld_false]
  exact Pool.block_setBlock_same block _

variable {rest : List ExportJob} (queue : s.exporter.queue = j :: rest) (idle : s.pool.inFlight = none)
include queue idle

/-- The next block of the run is held and its header written. -/
theorem segmentClosed_next (more : s.exporter.copied + 1 < j.count) {b' : Nat} {e' : Block}
    (found : s.pool.find j.takeId ((s.exporter.nextSeq + 1) % 2 ^ 32) = some b')
    (entry : s.pool.blockOf j.takeId ((s.exporter.nextSeq + 1) % 2 ^ 32) = some e') (block' : s.pool.block b' = some e') (other : b' ≠ b)
    (block : s.pool.block b = some e) (room : s.exporter.bytes + e.segmentBytes + e'.segmentBytes ≤ j.capacity) :
    (s.segmentClosed j b e).exportRun exportFuel = (s.segmentClosed j b e).segmentOpened j b' e' := by
  have own : (s.segmentClosed j b e).staleAccess .exporter = false := by
    unfold State.staleAccess
    rw [show (s.segmentClosed j b e).pool.inFlight = none from idle]
  exact exportRun_of_room (s := s.segmentClosed j b e) queue rfl own rfl more (Pool.find_setBlock found other block rfl rfl)
    (Pool.blockOf_setBlock found entry other block rfl rfl) ((Pool.block_setBlock_ne _ other _).trans block') room _

/-- The order, its run copied and none queued behind it, completes with OK. -/
theorem segmentClosed_end (alone : rest = []) (copied : s.exporter.copied + 1 = j.count) (e : Block) :
    (s.segmentClosed j b e).exportRun exportFuel =
      (s.segmentClosed j b e).exportLeft.complete j.order .exportOrder .ok (s.segmentClosed j b e).exporter.result := by
  subst alone
  have access : (s.segmentClosed j b e).pool.inFlight = none := idle
  have own : (s.segmentClosed j b e).staleAccess .exporter = false := by
    unfold State.staleAccess
    rw [access]
  have right : (s.segmentClosed j b e).endRight .exporter (s.segmentClosed j b e).exporter.held = s.segmentClosed j b e := by
    unfold State.endRight State.accessInFlight
    rw [access]
    rfl
  have ends : (s.segmentClosed j b e).exportEnds .ok =
      (s.segmentClosed j b e).exportLeft.complete j.order .exportOrder .ok (s.segmentClosed j b e).exporter.result := by
    unfold State.exportEnds
    rw [show (s.segmentClosed j b e).exporter.queue = [j] from queue]
    dsimp only
    rw [right]
    rfl
  have done := exportRun_of_copied (s := s.segmentClosed j b e) queue rfl own (Nat.le_of_eq copied.symm) 7
  rw [ends] at done
  exact done.trans (exportRun_of_empty (by rw [complete_exporter]; rfl) 7)

omit queue idle in
/-- The result of an order whose run of `n` blocks is copied: the blocks and the flag that one was copied, the bytes, the number of the last block. -/
theorem segmentClosed_result {n : Nat} (copied : s.exporter.copied + 1 = n) (number : s.exporter.nextSeq < 2 ^ 32) :
    (s.segmentClosed j b e).exporter.result =
      [BitVec.ofNat 64 (n + 2 ^ 16), BitVec.ofNat 64 (s.exporter.bytes + e.segmentBytes), BitVec.ofNat 64 s.exporter.nextSeq] := by
  subst copied
  have last : ((s.exporter.nextSeq + 1) % 2 ^ 32 + 2 ^ 32 - 1) % 2 ^ 32 = s.exporter.nextSeq := by omega
  change exportResult (s.exporter.copied + 1) (s.exporter.bytes + e.segmentBytes) (((s.exporter.nextSeq + 1) % 2 ^ 32 + 2 ^ 32 - 1) % 2 ^ 32) = _
  rw [last]
  simp [exportResult, bnat, place]

end

/-! ## The commands -/

section
variable {s : State} {j : ExportJob} {rest : List ExportJob} {b : Nat} {e : Block} (settled : s.settled) (queue : s.exporter.queue = j :: rest)
  (held : s.exporter.held = some b) (block : s.pool.block b = some e)
include settled queue held block

theorem exportAccess_midst (midst : s.exporter.index + 64 < e.records.length) : s.portOver.exportAccess = s.portOver.burstCopied j e := by
  have burst : (s.portOver.exportBurst e).length = min 64 (e.records.length - s.exporter.index) := exportBurst_length _ e
  have more : s.portOver.exporter.index + (s.portOver.exportBurst e).length < e.records.length := by
    rw [burst]
    change s.exporter.index + _ < _
    omega
  rw [exportAccess_settled (s := s.portOver) settled queue held block, if_pos more]

theorem exportAccess_last (inside : s.exporter.index ≤ e.records.length) (last : e.records.length ≤ s.exporter.index + 64) :
    s.portOver.exportAccess = (s.portOver.segmentClosed j b e).exportRun exportFuel := by
  have burst : (s.portOver.exportBurst e).length = min 64 (e.records.length - s.exporter.index) := exportBurst_length _ e
  have noMore : ¬ s.portOver.exporter.index + (s.portOver.exportBurst e).length < e.records.length := by
    rw [burst]
    change ¬ s.exporter.index + _ < _
    omega
  rw [exportAccess_settled (s := s.portOver) settled queue held block, if_neg noMore]

end

end Sys2Proof.Machine
end

section
/-! PROOFS. Readers' accesses that complete: the replay engine's (R148, R151) and the renderer's (R165). -/

namespace Sys2Proof.Machine

/-! ## The replay engine while feeding (R148) -/

/-- In the midst of a block 64 more records are read, and the engine keeps its hold. -/
theorem replayAccess_midst {s : State} {b : Nat} {e : Block} (held : s.replay.held = some b) (block : s.pool.block b = some e)
    (feeding : s.replay.phase = .feeding)
    (midst : s.replay.readCount + 64 < recordsBefore (s.sealedBlocks s.replayTake) e.seqNo + e.records.length) :
    s.replayAccess = { s with replay := { s.replay with readCount := s.replay.readCount + 64 } } := by
  have count : min (recordsBefore (s.sealedBlocks s.replayTake) e.seqNo + e.recordCount) (s.replay.readCount + Config.readerBurst) =
      s.replay.readCount + 64 := Nat.min_eq_right (Nat.le_of_lt midst)
  have notEnd : decide (recordsBefore (s.sealedBlocks s.replayTake) e.seqNo + e.recordCount ≤ s.replay.readCount + 64) = false :=
    decide_eq_false (Nat.not_le.mpr midst)
  unfold State.replayAccess
  rw [held]
  dsimp only
  rw [block]
  dsimp only
  rw [count, notEnd, feeding]
  rfl

/-! ## The renderer (R165) -/

theorem timedFrom_length (k t : Nat) (rs : List CapRec) : (timedFrom k t rs).length = rs.length := by
  induction rs generalizing t with
  | nil => rfl
  | cons r rest ih => rw [timedFrom, List.length_cons, ih, List.length_cons]

/-- The records the renderer's access delivers. -/
def State.renderBurst (s : State) (e : Block) : List TimedRec := burst e s.renderTake.intervalExp s.render.index

/-- A burst in the midst of a block is 64 records. -/
theorem renderBurst_length_of_midst {s : State} {e : Block} (midst : s.render.index + 64 < e.records.length) : (s.renderBurst e).length = 64 := by
  have all : (e.timed s.renderTake.intervalExp).length = e.records.length := timedFrom_length _ 0 e.records
  rw [State.renderBurst, burst, List.length_take, List.length_drop, all]
  exact Nat.min_eq_left (by change 64 ≤ _; omega)

/-- While it holds a block a generation needs the port. -/
theorem renderRun_of_held {s : State} (served : s.render.order.isSome = true) (building : s.render.state = .building)
    (held : s.render.held.isSome = true) (fuel : Nat) : s.renderRun fuel = s := by
  cases fuel with
  | zero => rfl
  | succ fuel =>
    rw [State.renderRun, building, held, if_neg (by simp [Option.isSome_iff_ne_none.mp served])]
    rfl

section
variable {s : State} {e : Block} (midst : s.render.index + 64 < e.records.length)

include midst in
/-- In the midst of a block the SCAN notes what it has read, and goes on while a source is unmet (R151). -/
theorem renderScanAccess_midst
    (unmet : (scanNotes .plain noNotes (s.render.scanned ++ s.renderBurst e)).full = false) :
    s.renderScanAccess e (s.renderBurst e) = { s with
      render := { s.render with
        scanned := s.render.scanned ++ s.renderBurst e
        index := s.render.index + 64 } } := by
  have notEnd : decide (e.recordCount ≤ s.render.index + 64) = false := decide_eq_false (Nat.not_le.mpr midst)
  unfold State.renderScanAccess
  dsimp only
  rw [unmet, renderBurst_length_of_midst midst, notEnd]
  rfl

/-- The part with records taken by the rebuild, none of their cells written yet. -/
def State.recordsTaken (s : State) (rs : List TimedRec) : State :=
  { s with render := { s.render with
      cur := { s.render.cur with records := s.render.cur.records ++ rs }
      index := s.render.index + rs.length
      reached := max s.render.reached (lastTimeOf rs 0) } }

include midst in
/-- In the midst of a block the rebuild goes on while the cells it can tell lie in the window (R165). -/
theorem renderReadAccess_midst
    (within : (s.recordsTaken (s.renderBurst e)).render.cur.limit s.renderTake.intervalExp ≤ s.render.winLast) :
    s.renderReadAccess e (s.renderBurst e) =
      (s.recordsTaken (s.renderBurst e)).renderProgress := by
  have notEnd : ¬ e.recordCount ≤ s.render.index + (s.renderBurst e).length := by
    rw [renderBurst_length_of_midst midst]
    exact Nat.not_le.mpr midst
  have goesOn : ¬ (decide (s.render.winLast <
        (s.recordsTaken (s.renderBurst e)).render.cur.limit s.renderTake.intervalExp) ||
      (decide (e.recordCount ≤ s.render.index + (s.renderBurst e).length) &&
        decide (s.render.spanLastSeq ≤ e.seqNo))) = true := by
    simp [within, notEnd]
  exact (if_neg goesOn).trans (congrArg State.renderProgress (if_neg (by simpa using notEnd)))

end

/-- The access takes the burst, to the SCAN or to the rebuild. -/
theorem renderAccess_of_held {s : State} {b : Nat} {e : Block} (held : s.render.held = some b) (block : s.pool.block b = some e) :
    s.renderAccess = if s.render.scanning then s.renderScanAccess e (s.renderBurst e) else s.renderReadAccess e (s.renderBurst e) := by
  unfold State.renderAccess
  rw [held]
  dsimp only
  rw [block]
  rfl

/-! ## Cells (R165) -/

theorem storeCells_settled (cells : List (Nat × BitVec 16)) (m : Mem) :
    (storeCells cells m []).plan = [] ∧ (storeCells cells m []).failed = false := by
  induction cells generalizing m with
  | nil => exact ⟨rfl, rfl⟩
  | cons c rest ih => exact ih _

/-- A byte outside every cell stored reads as before. -/
theorem storeCells_get_out {a : Nat} (ha : a < 2 ^ 64) (cells : List (Nat × BitVec 16)) (m : Mem) (wf : m.wf = true)
    (out : ∀ c ∈ cells, ¬ inBytes c.1 2 a) : (storeCells cells m []).mem.get a = m.get a := by
  induction cells generalizing m with
  | nil => rfl
  | cons c rest ih =>
    obtain ⟨place, x⟩ := c
    have stored := Mem.putBytes_wf m place [byteOf x.toNat 0, byteOf x.toNat 1] wf
    refine (ih _ stored fun c later => out c (List.mem_cons_of_mem _ later)).trans ?_
    exact Mem.get_putBytes_out m place a _ wf ha (out _ List.mem_cons_self)

/-- The cells of a column are one for each trace from number `t` on. -/
theorem mem_columnCells {c : CellSource} {table cols col first last : Nat} {traces : List TraceSel} {t : Nat} {cell : Nat × BitVec 16}
    (member : cell ∈ columnCells c table cols col first last traces t) : ∃ i, i < t + traces.length ∧ cell.1 = cellAddr table cols i col := by
  induction traces generalizing t with
  | nil => exact absurd member List.not_mem_nil
  | cons tr rest ih =>
    rw [columnCells] at member
    obtain rfl | later := List.mem_cons.mp member
    · exact ⟨t, by rw [List.length_cons]; omega, rfl⟩
    · obtain ⟨i, named, place⟩ := ih later
      exact ⟨i, by rw [List.length_cons]; omega, place⟩

/-- A cell of a column of the table lies in the table. -/
theorem inBytes_table {table cols traces i col a : Nat} (trace : i < traces) (column : col < cols) (h : inBytes (cellAddr table cols i col) 2 a) :
    inBytes table (32 + 2 * cols * traces) a := by
  have place : i * cols + col + 1 ≤ cols * traces := by
    calc i * cols + col + 1 ≤ i * cols + cols := by omega
      _ = cols * (i + 1) := by rw [Nat.mul_comm i, Nat.mul_succ]
      _ ≤ cols * traces := Nat.mul_le_mul_left _ trace
  rw [Nat.mul_assoc]
  unfold inBytes cellAddr at *
  omega

/-- The columns whose cells the rebuild has passed, and has not written. -/
def State.passedColumns (s : State) : List Nat :=
  (List.range (min s.render.cols ((s.render.cur.limit s.renderTake.intervalExp - s.render.winStart) / s.render.width))).filter
    (fun c => s.render.colsWritten ≤ c)

/-- With no failure in store the columns passed are written (R165). -/
theorem renderProgress_settled {s : State} (settled : s.settled) :
    s.renderProgress = { s with
      shared := (storeCells (s.cellsOf s.passedColumns) s.shared []).mem
      failPlan := []
      render := { s.render with
        colsWritten := max s.render.colsWritten
          (min s.render.cols ((s.render.cur.limit s.renderTake.intervalExp - s.render.winStart) / s.render.width)) } } := by
  have writes (columns : List Nat) : s.writeColumns columns = { s with
      shared := (storeCells (s.cellsOf columns) s.shared []).mem, failPlan := [] } := by
    obtain ⟨plan, succeeds⟩ := storeCells_settled (s.cellsOf columns) s.shared
    unfold State.writeColumns
    rw [settled]
    dsimp only
    rw [succeeds, plan, if_neg Bool.false_ne_true]
  unfold State.renderProgress
  dsimp only
  rw [writes]
  rfl

/-- A byte outside the target table reads as before. -/
theorem renderProgress_get_out {s : State} (ready : s.ready) {a : Nat} (ha : a < 2 ^ 64)
    (out : ¬ inBytes s.render.target (32 + 2 * s.render.cols * s.render.traces.length) a) : s.renderProgress.shared.get a = s.shared.get a := by
  rw [renderProgress_settled ready.1]
  refine storeCells_get_out ha _ _ ready.2 fun cell member within => out ?_
  obtain ⟨col, passed, member⟩ := List.mem_flatMap.mp member
  obtain ⟨i, trace, place⟩ := mem_columnCells member
  have column : col < s.render.cols := Nat.lt_of_lt_of_le (List.mem_range.mp (List.mem_filter.mp passed).1) (Nat.min_le_left _ _)
  rw [place] at within
  exact inBytes_table (by omega) column within

/-! ## The renderer's access (R165) -/

section
variable {s : State} {b : Nat} {e : Block} (served : s.render.order.isSome = true) (building : s.render.state = .building)
  (held : s.render.held = some b) (block : s.pool.block b = some e) (midst : s.render.index + 64 < e.records.length)
include served building held block midst

theorem renderAccessed_scan (scanning : s.render.scanning = true)
    (unmet : (scanNotes .plain noNotes (s.render.scanned ++ s.renderBurst e)).full = false) :
    s.renderAccessed = { s with
      render := { s.render with scanned := s.render.scanned ++ s.renderBurst e, index := s.render.index + 64 } } := by
  have holds : s.render.held.isSome = true := by rw [held]; rfl
  unfold State.renderAccessed
  rw [renderAccess_of_held held block, if_pos scanning, renderScanAccess_midst midst unmet]
  exact renderRun_of_held (by exact served) (by exact building) (by exact holds) _

theorem renderAccessed_rebuild (settled : s.settled) (rebuilds : s.render.scanning = false)
    (within : (s.recordsTaken (s.renderBurst e)).render.cur.limit s.renderTake.intervalExp ≤ s.render.winLast) :
    s.renderAccessed = (s.recordsTaken (s.renderBurst e)).renderProgress := by
  have progress := renderProgress_settled (s := s.recordsTaken (s.renderBurst e)) settled
  unfold State.renderAccessed
  rw [renderAccess_of_held held block, if_neg (by simp [rebuilds]), renderReadAccess_midst midst within]
  refine renderRun_of_held ?_ ?_ ?_ _
  · rw [progress]
    exact served
  · rw [progress]
    exact building
  · rw [progress]
    change s.render.held.isSome = true
    rw [held]
    rfl

omit served building held block in
/-- The rebuild's access: the records are taken, and of shared memory the target table alone may differ. -/
theorem recordsTaken_closes (ready : s.ready) :
    let u := (s.recordsTaken (s.renderBurst e)).renderProgress
    closedFrom u u.finish ∧
      u = { s with
        shared := u.shared
        failPlan := u.failPlan
        render := { s.render with
          cur := { s.render.cur with records := s.render.cur.records ++ s.renderBurst e }
          index := s.render.index + 64
          reached := u.render.reached
          colsWritten := u.render.colsWritten } } ∧
      s.render.colsWritten ≤ u.render.colsWritten ∧
      bytesKept s u.finish (inBytes s.render.target (32 + 2 * s.render.cols * s.render.traces.length)) := by
  intro u
  have kept : Keeps (s.recordsTaken (s.renderBurst e)) u := renderProgress_keeps _ (.refl _)
  have closed : closedFrom u u.finish := finish_closes ⟨kept.plan ready.1, kept.shared ready.2⟩
  have frame : u = _ := renderProgress_settled (s := s.recordsTaken (s.renderBurst e)) ready.1
  have index : (s.recordsTaken (s.renderBurst e)).render.index = s.render.index + 64 :=
    congrArg (s.render.index + ·) (renderBurst_length_of_midst midst)
  refine ⟨closed, ?_, ?_, fun a range out outside => ?_⟩
  · rw [frame, ← index]
    rfl
  · rw [frame]
    exact Nat.le_max_left _ _
  · have samePage : ¬ u.inPage a := by
      rw [frame]
      exact outside
    rw [closed.2 a range (fun stored => stored) samePage]
    exact renderProgress_get_out (s := s.recordsTaken (s.renderBurst e)) ready range out

end

end Sys2Proof.Machine
end

section
/-! PROOFS. Readers' accesses that complete, all of them (O53). -/

namespace Sys2Proof.Machine

theorem burstClear_append {s : State} {a n k : Nat} (clear : burstClear s a n) (clear' : burstClear s (a + 8 * n) k) : burstClear s a (n + k) := by
  obtain ⟨-, onPage⟩ := clear
  obtain ⟨inSpace, onPage'⟩ := clear'
  refine ⟨by omega, ?_⟩
  obtain halted | ⟨page, apart⟩ := onPage
  · exact .inl halted
  obtain halted | ⟨-, apart'⟩ := onPage'
  · exact .inl halted
  · exact .inr ⟨page, by omega⟩

/-- A burst clear of the page and of the record of an order reads after the order's completion as before it. -/
theorem completedFrom.getUnits {u t : State} {o : OrderRef} {kind : OrderKind} {oc : Outcome} {r : List Word64}
    (done : completedFrom u t o kind oc r) (record : u.recordClear o kind r.length) {a n : Nat} (clear : burstClear u a n)
    (apart : a + 8 * n ≤ o.addr ∨ resultAddr o.addr kind + 8 * r.length ≤ a) : t.shared.getUnits a n = u.shared.getUnits a n := by
  have inSpace := clear.1
  have recordInSpace := record.2.1
  have last : resultAddr o.addr kind = stateAddr o.addr + 16 + 8 * kind.paramUnits := by unfold resultAddr stateAddr; omega
  have first : stateAddr o.addr = o.addr + 8 := rfl
  refine Mem.getUnits_congr _ _ _ _ fun i named => ?_
  have place : wrapAddr (a + i) = a + i := Nat.mod_eq_of_lt (by omega)
  rw [place]
  refine done.2.2.2 _ (by omega) ?_ (notInPage_of_burstClear clear (by omega) (by omega))
  unfold completionBytes inBytes
  omega

/-- A step that stores a run of units clear of the page and of an order's record, and completes the order: the units read back, and no byte outside them, the
record and the page differs. -/
theorem completedFrom.stored {s u t : State} {o : OrderRef} {kind : OrderKind} {oc : Outcome} {r : List Word64} (ready : s.ready)
    (done : completedFrom u t o kind oc r) {a n : Nat} {us : List Word64} (length : us.length = n) (shared : u.shared = s.shared.putUnits a us)
    (disp : u.disp = s.disp) (record : s.recordClear o kind r.length) (clear : burstClear s a n)
    (apart : a + 8 * n ≤ o.addr ∨ resultAddr o.addr kind + 8 * r.length ≤ a) :
    t.shared.getUnits a n = us ∧ bytesKept s t (fun x => inBytes a (8 * n) x ∨ completionBytes o kind r.length x) := by
  subst length
  have record' : u.recordClear o kind r.length := by
    unfold State.recordClear
    rwa [disp]
  refine ⟨?_, fun x range out outside => ?_⟩
  · rw [done.getUnits record' (burstClear_of_disp disp clear) apart, shared]
    exact Mem.getUnits_putUnits _ _ _ ready.2 clear.1
  · have samePage : ¬ u.inPage x := by
      unfold State.inPage
      rwa [disp]
    rw [done.2.2.2 x range (fun stored => out (.inr stored)) samePage, shared]
    exact Mem.get_putUnits_out _ _ _ _ ready.2 range (fun stored => out (.inl stored))

/-! ## The replay engine -/

theorem blocksFrom_of_blocks {p q : Pool} (same : q.blocks = p.blocks) (id seq n : Nat) : q.blocksFrom id seq n = p.blocksFrom id seq n := by
  induction n generalizing seq with
  | zero => rfl
  | succ n ih =>
    rw [Pool.blocksFrom, Pool.blocksFrom, ih, Pool.blockOf, Pool.blockOf, same]

theorem sealedBlocks_portOver (s : State) (t : Take) : s.portOver.sealedBlocks t = s.sealedBlocks t :=
  blocksFrom_of_blocks (p := s.pool) (q := s.portOver.pool) rfl _ _ _

/-- An engine that is IDLE takes up no position. -/
theorem replayResume_idle {s : State} (idle : s.replay.running = false) : s.replayResume = s :=
  if_neg (by simp [idle])

/-! ## The export engine -/

section
variable {s : State} {j : ExportJob} {b : Nat} {e : Block} (inside : s.exporter.index ≤ e.records.length)
  (last : e.records.length ≤ s.exporter.index + 64)

theorem segmentClosed_ready (ready : s.ready) (j : ExportJob) (b : Nat) (e : Block) : (s.segmentClosed j b e).ready := burstStored_ready ready j e

include last in
theorem segmentClosed_shared (j : ExportJob) (b : Nat) :
    (s.segmentClosed j b e).shared = s.shared.putUnits (s.burstPlace j) ((e.records.drop s.exporter.index).map CapRec.unit) := by
  rw [← exportBurst_of_last last]
  rfl

theorem lastBurst_length (s : State) (e : Block) :
    ((e.records.drop s.exporter.index).map CapRec.unit).length = e.records.length - s.exporter.index := by
  rw [List.length_map, List.length_drop]

include inside last in
/-- The last burst of a block and the header of the next segment are one run of units. -/
theorem segmentClosed_opened_shared (b' : Nat) (e' : Block) :
    ((s.segmentClosed j b e).segmentOpened j b' e').shared =
      s.shared.putUnits (s.burstPlace j) ((e.records.drop s.exporter.index).map CapRec.unit ++ e'.segmentHeader) := by
  have place : j.dest + (s.segmentClosed j b e).exporter.bytes = s.burstPlace j + 8 * (e.records.length - s.exporter.index) :=
    (burstPlace_end inside).symm
  rw [segmentOpened_shared place, segmentClosed_shared last, Mem.putUnits_append, lastBurst_length]

end

/-- The last burst of a block, with a block of the run behind it: what the step leaves in shared memory and of the two holds. -/
theorem lastBurst_nextBlock {s : State} {j : ExportJob} {b b' : Nat} {e e' : Block} (ready : s.ready)
    (block : s.pool.block b = some e) (block' : s.pool.block b' = some e') (other : b' ≠ b)
    (inside : s.exporter.index ≤ e.records.length) (last : e.records.length ≤ s.exporter.index + 64)
    (clear : burstClear s (s.burstPlace j) (e.records.length - s.exporter.index))
    (clear' : burstClear s (j.dest + (s.exporter.bytes + e.segmentBytes)) 4) :
    let u := (s.segmentClosed j b e).segmentOpened j b' e'
    u.finish.shared.getUnits (s.burstPlace j) (e.records.length - s.exporter.index) = (e.records.drop s.exporter.index).map CapRec.unit ∧
      u.finish.shared.getUnits (j.dest + (s.exporter.bytes + e.segmentBytes)) 4 = e'.segmentHeader ∧
      bytesKept s u.finish (inBytes (s.burstPlace j) (8 * (e.records.length - s.exporter.index) + 32)) ∧
      u.finish.pool.block b = some { e with holdCount := e.holdCount - 1 } ∧
      u.finish.pool.block b' = some { e' with holdCount := e'.holdCount + 1 } := by
  intro u
  have ends := burstPlace_end (j := j) inside
  have closed : closedFrom u u.finish := finish_closes (segmentOpened_ready (segmentClosed_ready ready j b e) j b' e')
  have length : ((e.records.drop s.exporter.index).map CapRec.unit ++ e'.segmentHeader).length = e.records.length - s.exporter.index + 4 := by
    rw [List.length_append, lastBurst_length, e'.segmentHeader_length]
  obtain ⟨units, kept⟩ := closed.stored ready length (segmentClosed_opened_shared inside last b' e') rfl (burstClear_append clear (ends ▸ clear'))
  rw [Mem.getUnits_add] at units
  obtain ⟨copied, header⟩ := List.append_inj units (by rw [Mem.getUnits_length, lastBurst_length])
  refine ⟨copied, ends ▸ header, kept, ?_, ?_⟩
  · rw [closed.block]
    exact (Pool.block_setBlock_ne _ (Ne.symm other) _).trans (segmentClosed_block block j)
  · rw [closed.block, ← Block.held_false]
    exact Pool.block_setBlock_same ((Pool.block_setBlock_ne _ other _).trans block') _

/-! What the two ends of a segment leave alone. -/

@[simp] theorem segmentOpened_disp (s : State) (j : ExportJob) (b : Nat) (e : Block) : (s.segmentOpened j b e).disp = s.disp := by
  dsimp only [State.segmentOpened]

@[simp] theorem segmentOpened_alerts (s : State) (j : ExportJob) (b : Nat) (e : Block) : (s.segmentOpened j b e).alerts = s.alerts := by
  dsimp only [State.segmentOpened]

@[simp] theorem segmentOpened_takes (s : State) (j : ExportJob) (b : Nat) (e : Block) : (s.segmentOpened j b e).takes = s.takes := by
  dsimp only [State.segmentOpened]

@[simp] theorem segmentClosed_disp (s : State) (j : ExportJob) (b : Nat) (e : Block) : (s.segmentClosed j b e).disp = s.disp := by
  dsimp only [State.segmentClosed, State.burstStored]

@[simp] theorem segmentClosed_alerts (s : State) (j : ExportJob) (b : Nat) (e : Block) : (s.segmentClosed j b e).alerts = s.alerts := by
  dsimp only [State.segmentClosed, State.burstStored]

@[simp] theorem segmentClosed_takes (s : State) (j : ExportJob) (b : Nat) (e : Block) : (s.segmentClosed j b e).takes = s.takes := by
  dsimp only [State.segmentClosed, State.burstStored]

/-- The last burst of the run, with no order queued behind it: the order completes, and the burst stands beside its record. -/
theorem lastBurst_completes {s : State} {j : ExportJob} {e : Block} {result : List Word64} (ready : s.ready)
    (last : e.records.length ≤ s.exporter.index + 64) (clear : burstClear s (s.burstPlace j) (e.records.length - s.exporter.index))
    (record : s.recordClear j.order .exportOrder result.length)
    (apart : s.burstPlace j + 8 * (e.records.length - s.exporter.index) ≤ j.order.addr ∨
      resultAddr j.order.addr .exportOrder + 8 * result.length ≤ s.burstPlace j) (b : Nat) :
    let u := (s.segmentClosed j b e).exportLeft
    let t := (u.complete j.order .exportOrder .ok result).finish
    completedFrom u t j.order .exportOrder .ok result ∧ u.disp = s.disp ∧ u.alerts = s.alerts ∧ u.takes = s.takes ∧
      t.shared.getUnits (s.burstPlace j) (e.records.length - s.exporter.index) = (e.records.drop s.exporter.index).map CapRec.unit ∧
      bytesKept s t (fun x =>
        inBytes (s.burstPlace j) (8 * (e.records.length - s.exporter.index)) x ∨ completionBytes j.order .exportOrder result.length x) := by
  intro u t
  have closedReady := segmentClosed_ready ready j b e
  have done : completedFrom u t j.order .exportOrder .ok result := complete_finish closedReady.1 closedReady.2 record
  have disp : u.disp = s.disp := segmentClosed_disp s j b e
  exact ⟨done, disp, segmentClosed_alerts s j b e, segmentClosed_takes s j b e,
    done.stored ready (lastBurst_length s e) (segmentClosed_shared last j b) disp record clear apart⟩

/-- A burst of the midst of a block: what the step leaves in shared memory. -/
theorem midstBurst_stored {s : State} {e : Block} (ready : s.ready) (midst : s.exporter.index + 64 < e.records.length) {j : ExportJob}
    (clear : burstClear s (s.burstPlace j) 64) :
    closedFrom (s.burstCopied j e) (s.burstCopied j e).finish ∧
      (s.burstCopied j e).finish.shared.getUnits (s.burstPlace j) 64 = ((e.records.drop s.exporter.index).take 64).map CapRec.unit ∧
      bytesKept s (s.burstCopied j e).finish (inBytes (s.burstPlace j) (8 * 64)) := by
  have closed : closedFrom (s.burstCopied j e) (s.burstCopied j e).finish := finish_closes (burstStored_ready ready j e)
  have length : ((s.exportBurst e).map CapRec.unit).length = 64 := by
    rw [List.length_map, exportBurst_length]
    omega
  exact ⟨closed, closed.stored ready length rfl rfl clear⟩

/-- Settles O53: each reader by where its access finds it. -/
theorem readerAccessCompletes : Obligations.ReaderAccessCompletes := by
  intro s b e ready block
  refine ⟨fun j rest access queue held inside last => ?_, fun access held feeding midst => ?_, fun access served building held midst => ?_,
    fun j rest granted own clean queue held midst => ?_, fun access idle => ?_⟩
  · have answered : exec (.readerAccessComplete .exporter) s = .next s.portOver.exportAccess.finish :=
      exec_readerAccessComplete_of_grant access
    rw [answered, exportAccess_last ready.1 queue held block inside last]
    intro a n bytes seq clear
    refine ⟨fun b' e' more found entry block' other room clear' => ?_, fun copied alone number record apart => ?_⟩
    · have room' : bytes + (32 + 8 * e'.records.length) ≤ j.capacity := by omega
      rw [segmentClosed_next (s := s.portOver) queue rfl more found entry block' other block room']
      obtain ⟨units, header, kept, dropped, placed⟩ := lastBurst_nextBlock (s := s.portOver) ready block block' other inside last clear clear'
      have closed := finish_closes (segmentOpened_ready (segmentClosed_ready (s := s.portOver) ready j b e) j b' e')
      refine ⟨_, rfl, ?_⟩
      rw [closed.exporter, closed.pool_free, closed.disp, closed.alerts, closed.takes, segmentOpened_disp, segmentClosed_disp, segmentOpened_alerts,
        segmentClosed_alerts, segmentOpened_takes, segmentClosed_takes]
      exact ⟨rfl, units, header, kept, dropped, placed, rfl, rfl, rfl, rfl⟩
    · have result : (s.portOver.segmentClosed j b e).exporter.result =
          [BitVec.ofNat 64 (j.count + 2 ^ 16), BitVec.ofNat 64 bytes, BitVec.ofNat 64 s.exporter.nextSeq] :=
        segmentClosed_result (s := s.portOver) copied number
      rw [segmentClosed_end (s := s.portOver) queue rfl alone copied, result]
      obtain ⟨done, disp, alerts, takes, units, kept⟩ := lastBurst_completes (s := s.portOver) (e := e)
        (result := [BitVec.ofNat 64 (j.count + 2 ^ 16), BitVec.ofNat 64 bytes, BitVec.ofNat 64 s.exporter.nextSeq]) ready last clear record apart b
      have dropped := (Pool.block_congr done.pool_blocks b).trans (segmentClosed_block (s := s.portOver) block j)
      refine ⟨_, rfl, done.exporter, units, ?_, done.2.2.1, kept, ?_, dropped, done.pool_free, ?_⟩
      · rw [done.2.1, State.recordState, disp]
        rfl
      · rw [done.alerts, alerts]
        rfl
      · rw [done.takes, takes]
        rfl
  · have answered : exec (.readerAccessComplete .replay) s = .next s.portOver.replayAccess.finish :=
      exec_readerAccessComplete_of_grant access
    rw [← sealedBlocks_portOver] at midst
    rw [answered, replayAccess_midst (s := s.portOver) held block feeding midst]
    exact ⟨_, rfl, finish_closes (u := { s.portOver with replay := _ }) ready⟩
  · have answered : exec (.readerAccessComplete .renderer) s = .next s.portOver.renderAccessed.finish :=
      exec_readerAccessComplete_of_grant access
    rw [answered]
    intro read cur size
    refine ⟨fun scanning unmet => ?_, fun rebuilds within => ?_⟩
    · rw [renderAccessed_scan (s := s.portOver) served building held block midst scanning unmet]
      exact ⟨_, rfl, finish_closes (u := { s.portOver with render := _ }) ready⟩
    · rw [renderAccessed_rebuild (s := s.portOver) served building held block midst ready.1 rebuilds within]
      obtain ⟨closed, frame, forward, kept⟩ := recordsTaken_closes (s := s.portOver) midst ready
      generalize (s.portOver.recordsTaken (s.portOver.renderBurst e)).renderProgress = u at closed frame forward kept
      refine ⟨u.finish, rfl, ?_⟩
      rw [closed.render, closed.takes, closed.pool_blocks, closed.pool_free, closed.panel, closed.alerts, closed.disp]
      refine ⟨?_, forward, ?_, ?_, ?_, ?_, ?_, ?_, kept⟩ <;> rw [frame] <;> rfl
  · have answered : exec (.readerAccessComplete .exporter) s = .next s.portOver.exportAccess.finish :=
      exec_readerAccessComplete_taken granted own clean
    rw [answered, exportAccess_midst ready.1 queue held block midst]
    intro a clear
    obtain ⟨closed, units, kept⟩ := midstBurst_stored (s := s.portOver) ready midst clear
    refine ⟨_, rfl, ?_⟩
    have burst : (s.portOver.exportBurst e).length = 64 := by
      rw [exportBurst_length]
      change min 64 (e.records.length - s.exporter.index) = 64
      omega
    rw [closed.exporter, closed.disp, closed.alerts, closed.takes, closed.pods, closed.gens, closed.lanes, closed.seq, closed.staging, closed.panel,
      closed.pool_blocks, closed.pool_free]
    refine ⟨?_, units, kept, rfl, rfl, rfl, rfl, rfl, rfl, rfl, rfl, rfl, rfl, rfl⟩
    rw [State.burstCopied, burst]
    rfl
  · have answered : exec (.readerAccessComplete .replay) s =
        .next (State.finish { s with pool := { s.pool.setBlock b (e.unheld false) with inFlight := none } }) :=
      (exec_readerAccessComplete_stale (r := .replay) access block).trans
        (congrArg (fun u : State => Host.Outcome.next u.finish) (replayResume_idle (by exact idle)))
    rw [answered, e.unheld_false]
    exact ⟨_, rfl, finish_closes (u := { s with pool := _ }) ready⟩

end Sys2Proof.Machine
end

section
/-! PROOFS. The replay engine hands its next interval (spec/08, R152, R155; O51). -/

namespace Sys2Proof.Machine

/-! ## What a replayed interval leaves alone (R125, R129) -/

/-- `u` comes from `s` by decoding what is replayed: shared memory and its failing stores, the lanes, the alerts and the sequencer's events apart, nothing differs. -/
def decodedFrom (s u : State) : Prop :=
  u = { s with shared := u.shared, failPlan := u.failPlan, lanes := u.lanes, alerts := u.alerts, seq := { s.seq with events := u.seq.events } }

theorem decodedFrom.refl (s : State) : decodedFrom s s := rfl

theorem decodedFrom.trans {s u v : State} (h : decodedFrom s u) (g : decodedFrom u v) : decodedFrom s v := by
  unfold decodedFrom at h g ⊢
  rw [h] at g
  exact g

theorem decodedFrom_setLaneAt (s : State) (k : Fin 4) (l : Lane) : decodedFrom s (s.setLaneAt k l) := rfl

theorem decodedFrom_raiseExcs (s : State) (k : Fin 4) (excs : BitVec 7) : decodedFrom s (s.raiseExcs k excs) := rfl

theorem decodedFrom_relationsToSeq (s : State) (k : Fin 4) (rels : List (Option Relation)) : decodedFrom s (s.relationsToSeq k rels) := rfl

theorem decodedFrom_ringWrite (s : State) (k : Fin 4) (units : List Word64) : decodedFrom s (s.ringWrite k units) := rfl

theorem decodedFrom_ringOffer (s : State) (k : Fin 4) (live : Bool) (units : List Word64) : decodedFrom s (s.ringOffer k live units) := by
  unfold State.ringOffer
  dsimp only
  split
  · exact decodedFrom_setLaneAt s k _
  split
  · split
    · exact decodedFrom_setLaneAt s k _
    · exact decodedFrom_setLaneAt s k _
  · exact decodedFrom_ringWrite s k units

/-- A replayed emission inserts no record into a stream (R126). -/
theorem decodedFrom_emit (s : State) (k : Fin 4) (t : Tick) (e : Emission) : decodedFrom s (s.emit k false t e) :=
  ((decodedFrom_relationsToSeq s k _).trans (decodedFrom_ringOffer _ k false _)).trans (decodedFrom_setLaneAt _ k _)

theorem decodedFrom_laneOut (k : Fin 4) (t : Tick) (x : State × BitVec 7) (o : LaneOut) : decodedFrom x.1 (State.laneOut k false t x o).1 := by
  cases o with
  | opened => exact .refl x.1
  | raised e => exact .refl x.1
  | emitted e => exact decodedFrom_emit x.1 k t e

theorem decodedFrom_laneStep (s : State) (k : Fin 4) (t : Tick) (d : DecStep) : decodedFrom s (s.laneStep k false t d) := by
  have folded (outs : List LaneOut) (x : State × BitVec 7) : decodedFrom x.1 (outs.foldl (State.laneOut k false t) x).1 := by
    induction outs generalizing x with
    | nil => exact .refl x.1
    | cons o rest ih => exact (decodedFrom_laneOut k t x o).trans (ih _)
  exact ((decodedFrom_setLaneAt s k _).trans (folded d.outs (_, 0))).trans (decodedFrom_raiseExcs _ k _)

section
variable (exp : Nat) (t : Tick) (levels unknown : Chans)

theorem decodedFrom_laneInterval (s : State) (k : Fin 4) : decodedFrom s (s.laneInterval k false exp t levels unknown) :=
  (decodedFrom_setLaneAt s k _).trans (decodedFrom_laneStep _ k t _)

theorem laneInterval_others (s : State) {k j : Fin 4} (live : Bool) (other : j ≠ k) :
    (s.laneInterval k live exp t levels unknown).lanes.get j = s.lanes.get j := by
  unfold State.laneInterval
  dsimp only
  rw [(ownWork_laneStep _ k live t _).others j other, State.setLaneAt, Four.get_set_ne _ _ other, State.setLaneAt, Four.get_set_ne _ _ other]

/-- Each lane of a list takes the interval. -/
def State.lanesInterval (s : State) (ks : List (Fin 4)) : State := ks.foldl (fun s j => s.laneInterval j false exp t levels unknown) s

theorem decodedFrom_lanesInterval (s : State) (ks : List (Fin 4)) : decodedFrom s (s.lanesInterval exp t levels unknown ks) := by
  induction ks generalizing s with
  | nil => exact .refl s
  | cons k rest ih => exact (decodedFrom_laneInterval exp t levels unknown s k).trans (ih _)

theorem lanesInterval_others (s : State) {ks : List (Fin 4)} {j : Fin 4} (other : j ∉ ks) :
    (s.lanesInterval exp t levels unknown ks).lanes.get j = s.lanes.get j := by
  induction ks generalizing s with
  | nil => rfl
  | cons k rest ih =>
    obtain ⟨apart, other⟩ := List.ne_and_not_mem_of_not_mem_cons other
    exact (ih _ other).trans (laneInterval_others exp t levels unknown s false apart)

end

/-! ## The next interval (R152, R155) -/

/-- What the records of the take say of the levels in the next interval. -/
def State.nextRebuilt (s : State) : Rebuilt :=
  rebuiltAt s.replayTake.channels (Rebuilt.start s.replay.front) (s.takeRecords s.replayTake) s.replay.nextInterval

/-- The engine with its next interval handed. -/
def State.replayHanded (s : State) : Replay :=
  { s.replay with
    phase := .feeding
    inGap := false
    levels := s.nextRebuilt.levels
    known := s.nextRebuilt.known
    faults := s.nextRebuilt.faults
    lastHanded := some s.replay.nextInterval
    nextInterval := s.replay.nextInterval + 2 ^ s.replayTake.intervalExp
    blocksFinished := s.blocksFinishedAt s.replay.nextInterval }

/-- The named lanes with the next interval taken. -/
def State.replayLanes (s : State) : State :=
  State.lanesInterval s.replayTake.intervalExp (BitVec.ofNat 56 s.replay.nextInterval) s.nextRebuilt.levels
    (s.nextRebuilt.unknown s.replayTake.channels s.replay.frontPods) { s with replay := s.replayHanded } (lanesIn s.replay.lanes)

theorem decodedFrom.searchRuns {s u : State} (h : decodedFrom s u) : u.searchRuns = s.searchRuns := by
  rw [h]
  rfl

theorem searchVector_of_not_searchRuns {s : State} (searchless : s.searchRuns = false) (k : Nat) (t : Tick) (levels unknown : Chans) :
    s.searchVector k t levels unknown = s := by
  simp [State.searchVector, searchless]

theorem searchSpan_of_not_searchRuns {s : State} (searchless : s.searchRuns = false) (k : Nat) (t : Tick) : s.searchSpan k t = s := by
  simp [State.searchSpan, searchless]

theorem decodedFrom_replayPodEvents (s : State) (t : Nat) : decodedFrom s (s.replayPodEvents t) := rfl

/-- Without a search the vector is for the lanes alone. -/
theorem replayVector_searchless {s : State} (searchless : s.searchRuns = false) :
    s.replayVector = s.replayLanes.replayPodEvents s.replay.nextInterval := by
  have still : (s.replayLanes.replayPodEvents s.replay.nextInterval).searchRuns = false :=
    ((decodedFrom_lanesInterval _ _ _ _ { s with replay := s.replayHanded } _).trans (decodedFrom_replayPodEvents _ _)).searchRuns.trans searchless
  change (if s.replay.nextInterval < s.replayLastInterval then
      ((s.replayLanes.replayPodEvents s.replay.nextInterval).searchVector _ _ _ _).searchSpan _ _
    else (s.replayLanes.replayPodEvents s.replay.nextInterval).searchVector _ _ _ _) = _
  rw [searchVector_of_not_searchRuns still, searchSpan_of_not_searchRuns still, ite_self]

theorem decodedFrom_replayVector {s : State} (searchless : s.searchRuns = false) :
    decodedFrom { s with replay := s.replayHanded } s.replayVector := by
  rw [replayVector_searchless searchless]
  exact (decodedFrom_lanesInterval _ _ _ _ _ _).trans (decodedFrom_replayPodEvents _ _)

theorem replayVector_others {s : State} (searchless : s.searchRuns = false) {k : Fin 4} (unnamed : s.replay.lanes.getLsbD k.val = false) :
    s.replayVector.lanes.get k = s.lanes.get k := by
  have other : k ∉ lanesIn s.replay.lanes := by
    rw [mem_lanesIn, unnamed]
    exact Bool.false_ne_true
  rw [replayVector_searchless searchless]
  exact lanesInterval_others _ _ _ _ { s with replay := s.replayHanded } other

theorem replayFinish_of_not_closing {s : State} (notClosing : s.replay.phase ≠ .closing) : s.replayFinish = s := by
  simp [State.replayFinish, notClosing]

/-- Short of the range's end the engine goes on feeding. -/
theorem replayClose_midst {s : State} (feeding : s.replay.phase = .feeding) (midst : s.replay.nextInterval ≤ s.replayLastInterval) :
    s.replayClose = s := by
  have short : decide (s.replayLastInterval < s.replay.nextInterval) = false := decide_eq_false (Nat.not_lt.mpr midst)
  unfold State.replayClose
  rw [short, Bool.and_false, if_neg Bool.false_ne_true]
  exact replayFinish_of_not_closing (by rw [feeding]; decide)

/-- The last interval of the range is what the stored take and the range say, whatever the engine has handed. -/
theorem decodedFrom_replayLastInterval {s u : State} (h : decodedFrom { s with replay := s.replayHanded } u) :
    u.replayLastInterval = s.replayLastInterval := by
  rw [h]
  rfl

/-- With no gap notice due, short of the range's last interval, an interval of the engine is its vector. -/
theorem replayInterval_vector {s : State} (ready : s.replayReady = true) (noNotice : s.dueNotice = none) (searchless : s.searchRuns = false)
    (midst : s.replay.nextInterval + 2 ^ s.replayTake.intervalExp ≤ s.replayLastInterval) : s.replayInterval = s.replayVector := by
  have decoded := decodedFrom_replayVector searchless
  have engine : s.replayVector.replay = s.replayHanded := by rw [decoded]
  unfold State.replayInterval
  rw [if_pos ready, noNotice]
  refine replayClose_midst (by rw [engine]; rfl) ?_
  rw [decodedFrom_replayLastInterval decoded, engine]
  exact midst

theorem replayReady_running {s : State} (ready : s.replayReady = true) : s.replay.running = true := by
  simp only [State.replayReady, Bool.and_eq_true] at ready
  obtain ⟨⟨⟨⟨running, -⟩, -⟩, -⟩, -⟩ := ready
  exact running

/-- Settles O51: the step is the vector, which works on the engine, the lanes of the replay and their rings alone. -/
theorem replayIntervalHandsNext : Obligations.ReplayIntervalHandsNext := by
  intro s ready handsNext noNotice searchless midst
  have answered : exec .replayInterval s = .next s.replayInterval.finish := rfl
  rw [answered, replayInterval_vector handsNext noNotice searchless midst]
  have kept := replayVector_keeps s (.refl s)
  have decoded := decodedFrom_replayVector searchless
  have others (k : Fin 4) := replayVector_others searchless (k := k)
  have running := replayReady_running handsNext
  generalize s.replayVector = u at kept decoded others
  have closed := finish_closes (u := u) ⟨kept.plan ready.1, kept.shared ready.2⟩
  refine ⟨u.finish, rfl, ?_⟩
  rw [closed.replay, closed.lanes, closed.takes, closed.pods, closed.gens, closed.monitor, closed.staging, closed.slots, closed.panel, closed.disp]
  rw [decoded] at others ⊢
  exact ⟨running, rfl, rfl, rfl, rfl, rfl, rfl, rfl, rfl, rfl, rfl, rfl, rfl, others⟩

end Sys2Proof.Machine
end

section
/-! PROOFS. The panel (spec/09, 9.6 to 9.8): SHOW (R176; O55), the frame start (R173, R174, R176; O57), SET PANEL (R173; O56). -/

namespace Sys2Proof.Machine

/-! ## SHOW (R176) -/

/-- The part with another panel. -/
def State.withPanel (s : State) (q : Panel) : State := { s with panel := q }

theorem completeShow_of_none {s : State} (noShow : s.panel.waitingShow = none) (oc : Outcome) (letGo : Option Nat) : s.completeShow oc letGo = s := by
  unfold State.completeShow
  rw [noShow]

/-- The panel with no SHOW waiting any more. -/
def Panel.showEnded (q : Panel) : Panel := { q with waitingShow := none }

theorem completeShow_of_waiting {s : State} {o : OrderRef} (waits : s.panel.waitingShow = some o) (oc : Outcome) (letGo : Option Nat) :
    s.completeShow oc letGo = (s.withPanel s.panel.showEnded).complete o .showTable oc (showResult letGo) := by
  unfold State.completeShow
  rw [waits]
  rfl

section
variable {s : State} {p : ShowP} (usable : usableAddr p.table = true) (inSpace : p.table < 2 ^ 64) (o : OrderRef)
include usable inSpace

/-- Past the check of its table a SHOW rests on the panel's state and on the RENDER in flight. -/
theorem showOrder_of_usable :
    showOrder o p s =
      if !s.panel.scanning then refuse s .wrongState
      else if s.renderBars p.table then refuse s .busy
      else inFlight ((s.completeShow .superseded none).withPanel
        { (s.completeShow .superseded none).panel with pendingTable := some (p.table, true), waitingShow := some o }) := by
  have inRange : decide (2 ^ 64 ≤ p.table) = false := decide_eq_false (Nat.not_le.mpr inSpace)
  unfold showOrder
  rw [usable, inRange]
  rfl

theorem showOrder_dark (dark : s.panel.scanning = false) : showOrder o p s = refuse s .wrongState := by
  rw [showOrder_of_usable usable inSpace, dark]
  rfl

theorem showOrder_barred (scanning : s.panel.scanning = true) (bars : s.renderBars p.table = true) : showOrder o p s = refuse s .busy := by
  rw [showOrder_of_usable usable inSpace, scanning, bars]
  rfl

theorem showOrder_first (scanning : s.panel.scanning = true) (free : s.renderBars p.table = false) (noShow : s.panel.waitingShow = none) :
    showOrder o p s = inFlight (s.withPanel { s.panel with pendingTable := some (p.table, true), waitingShow := some o }) := by
  rw [showOrder_of_usable usable inSpace, completeShow_of_none noShow, scanning, free]
  rfl

end

theorem renderBars_of_live {s : State} (served : s.render.order.isSome = true) (live : s.render.live = true) (a : Nat) : s.renderBars a = true := by
  unfold State.renderBars
  rw [served, live]
  rfl

theorem renderBars_of_none {s : State} (unserved : s.render.order = none) (a : Nat) : s.renderBars a = false := by
  unfold State.renderBars
  rw [unserved]
  rfl

/-- Settles O55: by the panel's state and the RENDER in flight. -/
theorem showMakesTablePending : Obligations.ShowMakesTablePending := by
  intro s o p ready clear usable inSpace
  have answered : exec (.showTable o p) s = orderResult (showOrder o p s) o .showTable := rfl
  have refused := recordClear_of_le (Nat.zero_le 1) clear
  rw [answered]
  refine ⟨fun dark => ?_, fun scanning served live => ?_, fun scanning unserved noShow => ?_⟩
  · rw [showOrder_dark usable inSpace o dark]
    exact orderResult_completed .wrongState ready refused
  · rw [showOrder_barred usable inSpace o scanning (renderBars_of_live served live _)]
    exact orderResult_completed .busy ready refused
  · rw [showOrder_first usable inSpace o scanning (renderBars_of_none unserved _) noShow]
    exact ⟨_, rfl, finish_closes ready⟩

/-! ## The steps of a frame start (R173, R174) -/

/-- The panel once its pending table, if it has one, has become the shown table. -/
def Panel.showing (q : Panel) : Panel :=
  { q with
    shown := (match q.pendingTable with | none => q.shown | some (a, _) => some a)
    pendingTable := none }

theorem Panel.showing_of_pending {q : Panel} {a : Nat} {byShow : Bool} (pending : q.pendingTable = some (a, byShow)) :
    q.showing = { q with shown := some a, pendingTable := none } := by
  unfold Panel.showing
  rw [pending]

theorem Panel.showing_of_none {q : Panel} (pending : q.pendingTable = none) : q.showing = q := by
  unfold Panel.showing
  rw [pending]
  exact congrArg (fun t : Option (Nat × Bool) => { q with pendingTable := t }) pending.symm

/-- The table let go at a frame start; none where the same table is shown again (R176). -/
def Panel.letsGo (q : Panel) : Option Nat := if q.shown = q.showing.shown then none else q.shown

theorem showPending_of_pending {s : State} {a : Nat} {byShow : Bool} (pending : s.panel.pendingTable = some (a, byShow)) :
    s.showPending = (s.withPanel s.panel.showing).completeShow .ok s.panel.letsGo := by
  unfold State.showPending Panel.letsGo
  rw [Panel.showing_of_pending pending, pending]
  rfl

theorem showPending_of_show {s : State} {o : OrderRef} {a : Nat} {byShow : Bool} (waits : s.panel.waitingShow = some o)
    (pending : s.panel.pendingTable = some (a, byShow)) :
    s.showPending = (s.withPanel s.panel.showing.showEnded).complete o .showTable .ok (showResult s.panel.letsGo) :=
  (showPending_of_pending pending).trans (completeShow_of_waiting (s := s.withPanel s.panel.showing) waits _ _)

/-- With no SHOW waiting, or no table pending, no order completes as the pending table becomes the shown one. -/
theorem showPending_without_show {s : State} (noShow : s.panel.waitingShow = none ∨ s.panel.pendingTable = none) :
    s.showPending = s.withPanel s.panel.showing := by
  cases pending : s.panel.pendingTable with
  | none =>
    rw [Panel.showing_of_none pending]
    unfold State.showPending
    rw [pending]
    rfl
  | some t =>
    have noShow : s.panel.waitingShow = none := noShow.resolve_right (by simp [pending])
    exact (showPending_of_pending pending).trans (completeShow_of_none (s := s.withPanel s.panel.showing) noShow _ _)

/-- The panel with a frame drawn, no read failing, from shared memory `m`. -/
def Panel.drew (q : Panel) (m : Mem) : Panel := { q with drawn := some ⟨q.config, q.shown, m, false, false⟩ }

theorem drawFrame_settled {s : State} (settled : s.settled) : s.drawFrame = s.withPanel (s.panel.drew s.shared) := by
  unfold State.drawFrame
  simp [accessed_of_settled settled, fails_of_settled settled, Alerts.raiseIf, Panel.drew, State.withPanel]

theorem renderRecheck_of_not_waiting {s : State} (noneWaits : s.render.state ≠ .waitingFrame) : s.renderRecheck = s :=
  if_neg fun waits => noneWaits waits.1

/-- What follows the showing of a pending table: the frame is drawn and counted, and the page is handed its units. -/
theorem frame_of_showPending {s u : State} (shows : (s.withPanel s.panel.takeStaged).showPending = u) (settled : u.settled)
    (noneWaits : u.render.state ≠ .waitingFrame) (now : Tick) :
    s.frame now = (u.withPanel ((u.panel.drew u.shared).counted now)).hands [unitShown, unitPanel] := by
  have drawn := drawFrame_settled settled
  have frame : s.frame now = ((u.drawFrame.withPanel (u.drawFrame.panel.counted now)).hands [unitShown, unitPanel]).renderRecheck := by
    rw [← shows]
    rfl
  rw [frame, drawn]
  exact renderRecheck_of_not_waiting noneWaits

/-- The panel after a frame start at tick `now` that draws from shared memory `m`. -/
def Panel.framed (q : Panel) (m : Mem) (now : Tick) : Panel := (q.takeStaged.showing.drew m).counted now

/-- The configuration in force from the next frame start on. -/
def Panel.nextConfig (q : Panel) : PanelConfig :=
  match q.staged with
  | none => q.config
  | some c => c

theorem Panel.nextConfig_of_none {q : Panel} (unstaged : q.staged = none) : q.nextConfig = q.config := by
  unfold Panel.nextConfig
  rw [unstaged]

theorem Panel.takeStaged_eq (q : Panel) : q.takeStaged = { q with config := q.nextConfig, staged := none } := by
  unfold Panel.takeStaged Panel.nextConfig
  cases q.staged <;> rfl

theorem Panel.framed_eq (q : Panel) (m : Mem) (now : Tick) :
    q.framed m now = { q with
      config := q.nextConfig
      staged := none
      shown := q.showing.shown
      pendingTable := none
      frameCount := q.frameCount + 1
      nextFrame := tickAdd now 16666667
      drawn := some ⟨q.nextConfig, q.showing.shown, m, false, false⟩ } := by
  unfold Panel.framed
  rw [Panel.takeStaged_eq]
  rfl

/-- A frame start that completes no SHOW works on the panel alone. -/
theorem frame_without_show {s : State} (settled : s.settled) (noneWaits : s.render.state ≠ .waitingFrame)
    (noShow : s.panel.waitingShow = none ∨ s.panel.pendingTable = none) (now : Tick) :
    s.frame now = (s.withPanel (s.panel.framed s.shared now)).hands [unitShown, unitPanel] :=
  frame_of_showPending (showPending_without_show (s := s.withPanel s.panel.takeStaged) noShow) settled noneWaits now

/-! ## The frame start of a waiting SHOW (R176) -/

/-- An order's completion has no part in the panel, nor in what the page is handed. -/
theorem complete_withPanel {s : State} (settled : s.settled) (o : OrderRef) (kind : OrderKind) (oc : Outcome) (r : List Word64) (q : Panel)
    (us : List Nat) : ((s.complete o kind oc r).withPanel q).hands us = ((s.withPanel q).hands us).complete o kind oc r := by
  rw [complete_settled settled, complete_settled (s := (s.withPanel q).hands us) settled]
  rfl

/-- A frame start that completes a waiting SHOW: the completion, on the part with its frame drawn from shared memory as the completion left it. -/
theorem frame_of_show {s : State} {o : OrderRef} {a : Nat} {byShow : Bool} (settled : s.settled) (noneWaits : s.render.state ≠ .waitingFrame)
    (waits : s.panel.waitingShow = some o) (pending : s.panel.pendingTable = some (a, byShow)) (now : Tick) :
    ∃ m, s.frame now =
      ((s.withPanel (s.panel.framed m now).showEnded).hands [unitShown, unitPanel]).complete o .showTable .ok (showResult s.panel.letsGo) := by
  have shows := showPending_of_show (s := s.withPanel s.panel.takeStaged) waits pending
  have completed := complete_settled (s := s.withPanel s.panel.takeStaged.showing.showEnded) settled o .showTable .ok (showResult s.panel.letsGo)
  exact ⟨_, (frame_of_showPending shows (congrArg State.failPlan completed) noneWaits now).trans
    (complete_withPanel (s := s.withPanel s.panel.takeStaged.showing.showEnded) settled ..)⟩

/-! ## FRAME START (R173) -/

theorem exec_frameStart (s : State) : exec (.frameStart []) s = .next s.frameIfDue.finish := rfl

/-- Settles O57: by whether the frame start is due, and whether a SHOW waits for it. -/
theorem frameStartShowsPending : Obligations.FrameStartShowsPending := by
  intro s ready noneWaits
  rw [exec_frameStart]
  refine ⟨fun early => ?_, fun due => ?_⟩
  · have still : s.frameIfDue = s := if_neg (by rw [early]; exact Bool.false_ne_true)
    rw [still]
    exact ⟨_, rfl, finish_closes ready⟩
  have starts : s.frameIfDue = s.frame s.panel.nextFrame := if_pos due
  rw [starts]
  refine ⟨fun noShow => ?_, fun o a waits pending clear => ?_⟩
  · rw [frame_without_show ready.1 noneWaits (.inl noShow), Panel.framed_eq]
    exact ⟨_, rfl, finish_closes ready⟩
  · obtain ⟨m, frame⟩ := frame_of_show ready.1 noneWaits waits pending s.panel.nextFrame
    have shown : s.panel.showing.shown = some a := congrArg Panel.shown (Panel.showing_of_pending pending)
    rw [frame]
    have done := complete_finish (u := (s.withPanel (s.panel.framed m s.panel.nextFrame).showEnded).hands [unitShown, unitPanel]) (oc := .ok)
      (r := showResult s.panel.letsGo) ready.1 ready.2 clear
    refine ⟨_, rfl, ?_⟩
    rw [done.panel]
    rw [Panel.framed_eq, shown] at done ⊢
    exact done

/-! ## SET PANEL (R173) -/

/-- The panel SCANNING with a configuration. -/
def Panel.enabled (q : Panel) (c : PanelConfig) : Panel := { q with scanning := true, config := c }

section
variable {p : SetPanelP} (valid : p.valid = true) {s : State}
include valid

theorem setPanelOrder_stages (enables : p.enable = 1) (scanning : s.panel.scanning = true) :
    setPanelOrder p s = accept (s.withPanel { s.panel with staged := some p.config }) := by
  simp [setPanelOrder, valid, enables, scanning, State.withPanel]

theorem setPanelOrder_starts (enables : p.enable = 1) (dark : s.panel.scanning = false) :
    setPanelOrder p s = accept ((s.withPanel (s.panel.enabled p.config)).frame s.tick) := by
  simp [setPanelOrder, valid, enables, dark, State.withPanel, Panel.enabled]

theorem setPanelOrder_darkens (disables : p.enable = 0) (noShow : s.panel.waitingShow = none) (noneWaits : s.render.state ≠ .waitingFrame) :
    setPanelOrder p s = accept (s.darkens p.config) := by
  have still : (s.darkens p.config).completeShow .cancelled none = s.darkens p.config := completeShow_of_none (s := s.darkens p.config) noShow _ _
  have rests : (s.darkens p.config).renderRecheck = s.darkens p.config := renderRecheck_of_not_waiting noneWaits
  simp [setPanelOrder, valid, disables, still, rests]

end

/-- Settles O56: by what the order enables and whether the panel is SCANNING. -/
theorem setPanelStagesOrSwitches : Obligations.SetPanelStagesOrSwitches := by
  intro s o p ready clear valid
  have answered : exec (.setPanel o p) s = orderResult (setPanelOrder p s) o .setPanel := rfl
  rw [answered]
  refine ⟨fun enables scanning => ?_, fun disables noShow noneWaits => ?_, fun enables dark unstaged noTable noneWaits => ?_⟩
  · rw [setPanelOrder_stages valid enables scanning]
    exact orderResult_completed .ok ready clear
  · rw [setPanelOrder_darkens valid disables noShow noneWaits]
    exact orderResult_completed .ok (u := s.darkens p.config) ready clear
  · have starts := frame_without_show (s := s.withPanel (s.panel.enabled p.config)) ready.1 noneWaits (.inr noTable) s.tick
    have config : (s.panel.enabled p.config).nextConfig = p.config := Panel.nextConfig_of_none (q := s.panel.enabled p.config) unstaged
    rw [setPanelOrder_starts valid enables dark, starts]
    obtain ⟨t, next, done⟩ := orderResult_completed .ok (o := o) (kind := .setPanel)
      (u := (s.withPanel ((s.panel.enabled p.config).framed s.shared s.tick)).hands [unitShown, unitPanel]) ready clear
    refine ⟨t, next, ?_⟩
    have panel := done.panel.trans (Panel.framed_eq _ _ _)
    refine ⟨by rw [done.panel]; exact done, ?_⟩
    rw [panel]
    exact ⟨rfl, config, rfl, rfl⟩

end Sys2Proof.Machine
end

section
/-! PROOFS. The trace renderer (spec/09, 9.1 to 9.5): RENDER and the start of its first generation (R163, R164, R165; O54). -/

namespace Sys2Proof.Machine

/-! ## The answers of RENDER (R163) -/

section
variable {p : RenderP} (valid : p.valid = true) (o : OrderRef) {s : State} {i : Nat} (source : s.renderSource p = some i)
include valid source

/-- Past the check of its parameters and of its take a RENDER rests on its tables. -/
theorem renderOrder_of_source :
    renderOrder o p s =
      if s.panelHas p.tableA || (p.source == 0 && s.panelHas p.tableB) then refuse s .busy
      else inFlight ((s.endRender .superseded).renderStart o p i) := by
  unfold renderOrder
  rw [valid, source]
  rfl

theorem renderOrder_barred (barred : s.panelHas p.tableA = true) : renderOrder o p s = refuse s .busy := by
  rw [renderOrder_of_source valid o source, barred]
  rfl

theorem renderOrder_free (freeA : s.panelHas p.tableA = false) (freeB : s.panelHas p.tableB = false) :
    renderOrder o p s = inFlight ((s.endRender .superseded).renderStart o p i) := by
  rw [renderOrder_of_source valid o source, freeA, freeB, Bool.and_false]
  rfl

end

theorem renderSource_live {p : RenderP} (live : p.source = 0) (s : State) : s.renderSource p = s.capIndex := if_pos live

/-! ## The renderer's right to the port -/

theorem accessInFlight_of_others {s : State} {c : Client} (others : ∀ g, s.pool.inFlight = some g → g.client ≠ c) : s.accessInFlight c = false := by
  unfold State.accessInFlight
  cases access : s.pool.inFlight with
  | none => rfl
  | some g => simp [others g access]

theorem staleAccess_of_others {s : State} {c : Client} (others : ∀ g, s.pool.inFlight = some g → g.client ≠ c) : s.staleAccess c = false := by
  unfold State.staleAccess
  cases access : s.pool.inFlight with
  | none => rfl
  | some g => simp [others g access]

theorem renderPosition_of_others {s : State} (others : ∀ g, s.pool.inFlight = some g → g.client ≠ .renderer) : s.renderPosition = s.renderToFront := by
  unfold State.renderPosition
  rw [staleAccess_of_others others, if_neg Bool.false_ne_true]

/-- With no order to end and no hold to drop only the renderer is set back. -/
theorem endRender_of_none {s : State} (unserved : s.render.order = none) (unheld : s.render.held = none)
    (others : ∀ g, s.pool.inFlight = some g → g.client ≠ .renderer) (oc : Outcome) : s.endRender oc = { s with render := s.render.idled } := by
  have right : s.endRight .renderer s.render.held = s := by
    unfold State.endRight
    rw [accessInFlight_of_others others, unheld]
    rfl
  unfold State.endRender
  rw [right, unserved]

/-! ## The header (R165) -/

/-- Shared memory with the header of the target table written. -/
def State.headerStored (s : State) (from_ generation : Nat) (outOfSpan stale : Bool) : Mem :=
  (storeUnits .columnTable (fun i => s.render.target + 8 * ((i + from_) % 4))
    ((s.headerUnits generation outOfSpan stale).drop from_ ++ (s.headerUnits generation outOfSpan stale).take from_) 0 s.shared []).mem

theorem writeHeader_settled {s : State} (settled : s.settled) (from_ generation : Nat) (outOfSpan stale : Bool) :
    s.writeHeader from_ generation outOfSpan stale = { s with
      shared := s.headerStored from_ generation outOfSpan stale
      failPlan := [] } := by
  unfold State.writeHeader
  dsimp only
  rw [settled, storeUnits_succeeds, storeUnits_plan _ _ _ _ _ _ rfl]
  rfl

theorem headerStored_wf {s : State} (wf : s.shared.wf = true) (from_ generation : Nat) (outOfSpan stale : Bool) :
    (s.headerStored from_ generation outOfSpan stale).wf = true := storeUnits_wf _ _ _ _ _ _ wf

/-- A byte outside the header's four units reads as before. -/
theorem headerStored_get_out {s : State} (wf : s.shared.wf = true) (from_ generation : Nat) (outOfSpan stale : Bool) {a : Nat} (ha : a < 2 ^ 64)
    (out : ¬ inBytes s.render.target 32 a) : (s.headerStored from_ generation outOfSpan stale).get a = s.shared.get a := by
  refine storeUnits_get_out _ _ ha _ _ _ _ wf fun j _ _ within => out ?_
  have place : (j + from_) % 4 < 4 := Nat.mod_lt _ (by decide)
  unfold inBytes at *
  omega

/-! ## The position at the front (R151, R165) -/

/-- A take with a front block has a recorded span (R150). -/
theorem recordedSpan_of_frontBlock {s : State} {i b : Nat} (front : s.frontBlock i = some b) : ∃ span, s.recordedSpan (s.takeAt i) = some span := by
  unfold State.frontBlock at front
  split at front
  · exact absurd front (by simp)
  next nonempty =>
    obtain ⟨entry, found, -⟩ := Option.map_eq_some_iff.mp front
    obtain ⟨n, count⟩ := Nat.exists_eq_succ_of_ne_zero nonempty
    have first : s.pool.blockOf (s.takeAt i).id (s.takeAt i).firstSeq = some entry.2 := by
      unfold Pool.blockOf
      rw [found]
      rfl
    unfold State.recordedSpan State.sealedBlocks
    rw [count, Pool.blocksFrom, first]
    dsimp only
    rw [List.getLast?_cons]
    exact ⟨_, rfl⟩

/-- The renderer that has taken its hold on block `b` at the front of its take, by a SCAN if blocks before it were dropped. -/
def Renderer.atFront (r : Renderer) (b : Nat) (e : Block) (recycled : Bool) : Renderer :=
  { r with
    held := some b
    index := 0
    revoked := r.revoked ++ lostUpTo r.reached e.firstTick.toNat
    reached := max r.reached e.firstTick.toNat
    scanning := recycled
    scanned := []
    cur := ⟨e.firstTick.toNat, recycled, noFaults, []⟩ }

theorem renderHolds_of_block {s : State} {b : Nat} {e : Block} (block : s.pool.block b = some e) (unheld : s.render.held = none) :
    s.renderHolds b = { s with
      pool := s.pool.setBlock b (e.held s.renderRevocable)
      render := { s.render with held := some b, index := 0 } } := by
  unfold State.renderHolds
  rw [unheld]
  dsimp only [State.dropHoldOpt]
  rw [placeHold_of_block block]

theorem renderToFront_of_front {s : State} {i b : Nat} {e : Block} (named : s.takeIndex s.render.takeId = some i) (front : s.frontBlock i = some b)
    (block : s.pool.block b = some e) (unheld : s.render.held = none) {span : Nat × Nat} (spans : s.render.span = some span)
    (within : (s.takeAt i).firstSeq ≤ s.render.spanLastSeq) :
    s.renderToFront = { s with
      pool := s.pool.setBlock b (e.held s.renderRevocable)
      render := s.render.atFront b e (decide ((s.takeAt i).firstSeq ≠ 0)) } := by
  unfold State.renderToFront
  rw [spans, named]
  dsimp only
  rw [front]
  dsimp only
  rw [if_neg (Nat.not_lt.mpr within), block]
  dsimp only
  rw [renderHolds_of_block block unheld]
  rfl

/-! ## A generation starts (R164, R165) -/

/-- The part with a new order of take entry `i` in its renderer. -/
def State.ordered (s : State) (o : OrderRef) (p : RenderP) (i : Nat) : State := { s with render := s.render.ordered o p (s.takeAt i).id }

section
variable {s : State} {o : OrderRef} {p : RenderP} {i b : Nat} {e : Block}

theorem renderTake_ordered (named : s.takeIndex (s.takeAt i).id = some i) (o : OrderRef) (p : RenderP) : (s.ordered o p i).renderTake = s.takeAt i := by
  have bound : (s.ordered o p i).takeIndex (s.ordered o p i).render.takeId = some i := named
  unfold State.renderTake
  rw [bound]
  rfl

/-- A target that is not shown lets the generation build (R165). -/
theorem genStart_ordered_state (free : s.panelHas p.tableA = false) (o : OrderRef) (i : Nat) : (s.ordered o p i).genStart.render.state = .building := by
  have notShown : (s.panel.shown == some p.tableA) = false := (Bool.or_eq_false_iff.mp free).1
  refine if_neg ?_
  change ¬ (p.source == 0 && s.panel.shown == some p.tableA) = true
  rw [notShown, Bool.and_false]
  exact Bool.false_ne_true

theorem genStart_ordered_span {span : Nat × Nat} (named : s.takeIndex (s.takeAt i).id = some i) (recorded : s.recordedSpan (s.takeAt i) = some span)
    (o : OrderRef) (p : RenderP) : (s.ordered o p i).genStart.render.span = some span := by
  change (s.ordered o p i).recordedSpan (s.ordered o p i).renderTake = some span
  rw [renderTake_ordered named]
  exact recorded

theorem genStart_ordered_spanLastSeq (named : s.takeIndex (s.takeAt i).id = some i) (o : OrderRef) (p : RenderP) :
    (s.ordered o p i).genStart.render.spanLastSeq = (s.takeAt i).firstSeq + (s.takeAt i).sealedCount - 1 := by
  change (s.ordered o p i).renderTake.firstSeq + (s.ordered o p i).renderTake.sealedCount - 1 = _
  rw [renderTake_ordered named]

/-- A generation in BUILDING opens: the header is written with generation 0, and the renderer takes its hold at the front. -/
theorem genOpen_atFront {u : State} (settled : u.settled) (served : u.render.order ≠ none)
    (others : ∀ g, u.pool.inFlight = some g → g.client ≠ .renderer) (named : u.takeIndex u.render.takeId = some i) (front : u.frontBlock i = some b)
    (block : u.pool.block b = some e) (unheld : u.render.held = none) {span : Nat × Nat} (spans : u.render.span = some span)
    (within : (u.takeAt i).firstSeq ≤ u.render.spanLastSeq) :
    u.genOpen = { u with
      shared := u.headerStored 0 0 false false
      failPlan := []
      pool := u.pool.setBlock b (e.held u.renderRevocable)
      render := u.render.atFront b e (decide ((u.takeAt i).firstSeq ≠ 0)) } := by
  have header := writeHeader_settled settled 0 0 false false
  have serves : ¬ u.render.order.isNone = true := by simp [served]
  unfold State.genOpen
  dsimp only
  rw [header, if_neg serves]
  generalize u.headerStored 0 0 false false = m
  rw [renderPosition_of_others (by exact others)]
  exact renderToFront_of_front (s := { u with shared := m, failPlan := [] }) named front block unheld spans within

/-- The part with the first generation of a new order at the front of its take, the table opened in shared memory `m`. -/
def State.renderOpened (s : State) (o : OrderRef) (p : RenderP) (i b : Nat) (e : Block) (m : Mem) : State :=
  { (s.ordered o p i).genStart with
    shared := m
    failPlan := []
    pool := s.pool.setBlock b (e.held (s.ordered o p i).renderRevocable)
    render := (s.ordered o p i).genStart.render.atFront b e (decide ((s.takeAt i).firstSeq ≠ 0)) }

/-- The first generation of a take with a sealed block is at the take's front when it needs the port. -/
theorem renderStart_opened (settled : s.settled) (named : s.takeIndex (s.takeAt i).id = some i) (free : s.panelHas p.tableA = false)
    (others : ∀ g, s.pool.inFlight = some g → g.client ≠ .renderer) (front : s.frontBlock i = some b) (block : s.pool.block b = some e)
    (nonempty : 1 ≤ (s.takeAt i).sealedCount) (o : OrderRef) :
    State.renderStart { s with render := s.render.idled } o p i = s.renderOpened o p i b e ((s.ordered o p i).genStart.headerStored 0 0 false false) := by
  have building := genStart_ordered_state free o i
  obtain ⟨span, recorded⟩ := recordedSpan_of_frontBlock front
  have spans := genStart_ordered_span named recorded o p
  have last := genStart_ordered_spanLastSeq named o p
  have started : State.renderStart { s with render := s.render.idled } o p i =
      (if (s.ordered o p i).genStart.render.state = .building then (s.ordered o p i).genStart.genOpen
        else (s.ordered o p i).genStart).renderRun renderFuel := rfl
  have within : (s.takeAt i).firstSeq ≤ (s.ordered o p i).genStart.render.spanLastSeq := by
    rw [last]
    omega
  have opened : (s.ordered o p i).genStart.genOpen = s.renderOpened o p i b e ((s.ordered o p i).genStart.headerStored 0 0 false false) :=
    genOpen_atFront settled (by exact Option.some_ne_none o) others named front block rfl spans within
  rw [started, if_pos building, opened]
  generalize (s.ordered o p i).genStart.headerStored 0 0 false false = m
  exact renderRun_of_held (s := s.renderOpened o p i b e m) rfl building rfl _

theorem genStart_ordered_target (s : State) (o : OrderRef) (p : RenderP) (i : Nat) : (s.ordered o p i).genStart.render.target = p.tableA := rfl

end

/-- Settles O54: a table the panel has refuses the order; else the first generation starts, and its step ends with the renderer at the front. -/
theorem renderStartsGeneration : Obligations.RenderStartsGeneration := by
  intro s o p i ready clear valid live capturing named unserved
  have answered : exec (.render o p) s = orderResult (renderOrder o p s) o .render := rfl
  have source : s.renderSource p = some i := (renderSource_live live s).trans capturing
  rw [answered]
  refine ⟨fun barred => ?_, fun b e freeA freeB unheld others front block nonempty _ => ?_⟩
  · rw [renderOrder_barred valid o source barred]
    exact orderResult_completed .busy ready (recordClear_of_le (Nat.zero_le 2) clear)
  · rw [renderOrder_free valid o source freeA freeB, endRender_of_none unserved unheld others,
      renderStart_opened ready.1 named freeA others front block nonempty]
    have target := genStart_ordered_target s o p i
    have state := genStart_ordered_state freeA o i
    have wf := headerStored_wf (s := (s.ordered o p i).genStart) ready.2 0 0 false false
    have out {a : Nat} (range : a < 2 ^ 64) := headerStored_get_out (s := (s.ordered o p i).genStart) ready.2 0 0 false false range
    rw [target] at out
    generalize (s.ordered o p i).genStart.headerStored 0 0 false false = m at wf out
    have closed := finish_closes (u := s.renderOpened o p i b e m) ⟨rfl, wf⟩
    refine ⟨(s.renderOpened o p i b e m).finish, rfl, ?_⟩
    rw [closed.render, closed.takes, closed.pods, closed.gens, closed.lanes, closed.seq, closed.staging, closed.panel, closed.alerts, closed.disp]
    refine ⟨rfl, state, beq_iff_eq.mpr live, rfl, rfl, rfl, target, rfl, rfl, rfl, rfl, rfl, rfl, rfl, rfl, rfl, rfl, ?_⟩
    intro a range written outside
    exact (closed.2 a range (fun stored => stored) outside).trans (out range written)

end Sys2Proof.Machine
end

section
/-! PROOFS. The closing of a step (spec/10, R193, R194): what a closed step keeps of the units and of shared memory, and what an access that fails leaves. -/

namespace Sys2Proof.Machine

/-! ## Units and bytes after the closing -/

theorem unitsKept_of_closed {u t : State} (closed : closedFrom u t) : unitsKept u t :=
  ⟨closed.pods, closed.monitor, closed.gens, closed.chain01, closed.chain23, closed.sampler, closed.staging, closed.writer, closed.takes, closed.seq,
    closed.lanes, closed.slots, closed.replay, closed.exporter, closed.render, closed.panel, closed.pool_blocks, closed.pool_free, closed.pool_tripLevel,
    closed.pool_tripArmed⟩

theorem unitsKept_of_completed {u t : State} {o : OrderRef} {kind : OrderKind} {oc : Outcome} {r : List Word64} (done : completedFrom u t o kind oc r) :
    unitsKept u t :=
  ⟨done.pods, done.monitor, done.gens, done.chain01, done.chain23, done.sampler, done.staging, done.writer, done.takes, done.seq, done.lanes, done.slots,
    done.replay, done.exporter, done.render, done.panel, done.pool_blocks, done.pool_free, done.pool_tripLevel, done.pool_tripArmed⟩

/-- A running dispatcher that stays one and keeps its page address keeps the bytes of its page. -/
theorem inPage_of_page {s u : State} (running : s.disp.state ≠ .halted) (page : u.disp.pageAddr = s.disp.pageAddr) {a : Nat} (inPage : u.inPage a) :
    s.inPage a := ⟨running, page ▸ inPage.2⟩

/-- A record stays clear of the page of a running dispatcher, whatever else becomes of it. -/
theorem recordClear_of_page {s u : State} {o : OrderRef} {kind : OrderKind} {n : Nat} (running : s.disp.state ≠ .halted)
    (page : u.disp.pageAddr = s.disp.pageAddr) (clear : s.recordClear o kind n) : u.recordClear o kind n := by
  obtain ⟨usable, inSpace, apart⟩ := clear
  refine ⟨usable, inSpace, Or.inr ?_⟩
  rw [page]
  exact apart.resolve_left running

/-- Bytes kept by one part of a step and by the next. -/
theorem bytesKept_trans {s u t : State} {first second : Nat → Prop} (before : bytesKept s u first) (after : bytesKept u t second)
    (page : ∀ a, u.inPage a → s.inPage a) : bytesKept s t (fun a => first a ∨ second a) := by
  intro a range out outPage
  obtain ⟨outFirst, outSecond⟩ := not_or.mp out
  rw [after a range outSecond fun inPage => outPage (page a inPage), before a range outFirst outPage]

/-- More bytes may be written than are. -/
theorem bytesKept_mono {s t : State} {written allowed : Nat → Prop} (kept : bytesKept s t written) (fewer : ∀ a, written a → allowed a) :
    bytesKept s t allowed :=
  fun a range out outPage => kept a range (fun stored => out (fewer a stored)) outPage

theorem bytesKept_of_shared {s t : State} (same : t.shared = s.shared) (written : Nat → Prop) : bytesKept s t written :=
  fun a _ _ _ => congrArg (fun m => Mem.get m a) same

theorem bytesKept_of_putUnit {s t : State} {a : Nat} {u : Word64} (wf : s.shared.wf = true) (stored : t.shared = s.shared.putUnit a u) :
    bytesKept s t (inBytes a 8) := by
  intro c range out _
  rw [stored]
  exact Mem.get_putUnit_out _ _ _ _ wf range out

/-- A completion without a result writes the state unit and nothing else. -/
theorem completionBytes_zero {o : OrderRef} {kind : OrderKind} {a : Nat} (h : completionBytes o kind 0 a) : inBytes (stateAddr o.addr) 8 a :=
  h.resolve_right (Nat.not_lt_zero _)

/-- A unit of which no byte is written, and none lies in the page, reads as before. -/
theorem getUnit_of_bytesKept {s t : State} {written : Nat → Prop} (kept : bytesKept s t written) {c : Nat}
    (out : ∀ i, i < 8 → ¬ written (wrapAddr (c + i))) (outPage : ∀ i, i < 8 → ¬ s.inPage (wrapAddr (c + i))) :
    t.shared.getUnit c = s.shared.getUnit c := by
  unfold Mem.getUnit
  rw [Mem.getNat_congr _ _ c 8 fun i named => kept _ (Nat.mod_lt _ (by decide)) (out i named) (outPage i named)]

/-- In HALTED the report writer writes nothing (R193), so that the closing stores no byte. -/
theorem finish_shared_of_halted {s : State} (halted : s.disp.state = .halted) : s.finish.shared = s.shared := by
  have stays : (s.grant s.waits).disp.state = .halted := halted
  unfold State.finish
  rw [syncReport_halted stays]
  rfl

/-! ## Completions with no failure in store -/

/-- A HALT's record is written RETIRED, cursor or not (R189). -/
theorem completeAs_retired {s : State} (settled : s.settled) (o : OrderRef) (kind : OrderKind) (oc : Outcome) :
    s.completeAs o kind oc [] true =
      { s with
        shared := s.shared.putUnit (stateAddr o.addr) (stateUnit stRetired oc.code)
        disp := { s.disp with cursorOutcome := if s.disp.cursor = some o.addr then some oc else s.disp.cursorOutcome }
        alerts := s.alerts.raiseIf o.alert .order
        failPlan := [] } := by
  have plan : s.planAfterResult [] = [] := settled
  unfold State.completeAs State.outcomeWritten State.stateWriteFails State.resultFails
  simp [plan, Alerts.raiseIf, Mem.putUnits]

/-! ## An access that fails (R194) -/

section
variable {s : State} (settled : s.settled) (a : LinkAccess)
include settled

theorem willFail_failPlan : (s.willFail a 0).failPlan = [(a, 0)] := by
  unfold State.settled at settled
  simp [State.willFail, settled]

/-- The failure in store meets the first access of its kind. -/
theorem fails_willFail : (s.willFail a 0).fails a = true := by
  unfold State.fails
  rw [willFail_failPlan settled]
  simp [takeAccess]

/-- With that access the failure has gone out of store. -/
theorem accessed_willFail : (s.willFail a 0).accessed a = s := by
  have spent : (takeAccess a (s.willFail a 0).failPlan).2 = s.failPlan := by
    unfold State.settled at settled
    rw [willFail_failPlan settled, settled]
    simp [takeAccess]
  unfold State.accessed
  rw [spent]
  rfl

end

/-- A completion whose result write fails says LINK FAULT and leaves the result area as it stands. -/
theorem complete_resultFailing {s : State} (settled : s.settled) (o : OrderRef) (kind : OrderKind) (oc : Outcome) {r : List Word64} (written : r ≠ []) :
    (s.willFail .resultArea 0).complete o kind oc r = (s.raise .link).complete o kind .linkFault [] := by
  have nonempty : r.isEmpty = false := by simp [written]
  have fails : (s.willFail .resultArea 0).resultFails r = true := by
    simp [State.resultFails, nonempty, fails_willFail settled]
  have plan : (s.willFail .resultArea 0).planAfterResult r = [] := by
    simp [State.planAfterResult, nonempty, willFail_failPlan settled, takeAccess]
  have raised : (s.raise .link).settled := settled
  rw [complete_settled raised]
  unfold State.complete State.completeAs State.outcomeWritten State.stateWriteFails State.recordState
  by_cases cursor : s.disp.cursor = some o.addr <;>
    simp [fails, plan, cursor, Mem.putUnits, Alerts.raiseIf, Alerts.raise, State.raise]

/-- A completion whose state write fails leaves the record as it stands and halts the dispatcher. -/
theorem complete_stateFailing {s : State} (settled : s.settled) (o : OrderRef) (kind : OrderKind) (oc : Outcome) :
    (s.willFail .orderHeader 0).complete o kind oc [] = s.linkHalt := by
  have plan : (s.willFail .orderHeader 0).planAfterResult [] = [(.orderHeader, 0)] := willFail_failPlan settled _
  have none : s.failPlan = [] := settled
  unfold State.complete State.completeAs State.outcomeWritten State.stateWriteFails State.resultFails
  simp [plan, takeAccess, Mem.putUnits, Alerts.raiseIf, Alerts.raise, State.linkHalt, none]

end Sys2Proof.Machine
end

section
/-! PROOFS. Every command goes on (O2); writes to the link's registers (spec/10, R131, R179, R191; O11) and SET ALERTS (R192; O18). -/

namespace Sys2Proof.Machine

/-! ## Every command goes on -/

/-- The commands that move the tick, by themselves or within a failure command, answer a next state with no failure in store and the queue as it was. -/
theorem runCommand_of_movesTick (c : Instr) (s : State) (moves : movesTick c = true) :
    ∃ t, runCommand c s = .next t ∧ t.settled ∧ t.pending = s.pending := by
  induction c generalizing s with
  | powerOnReset => exact ⟨s.powerReset, rfl, rfl, rfl⟩
  | partReset value =>
    obtain rfl : value = 1 := beq_iff_eq.mp moves
    exact ⟨s.powerReset, rfl, rfl, rfl⟩
  | tick count => exact ⟨_, rfl, rfl, rfl⟩
  | sharedMemoryAccessFailure access nth during ih => exact ih (s.willFail access nth) moves
  | _ => exact absurd moves Bool.false_ne_true

/-- Settles O2: by whether the command moves the tick. -/
theorem everyCommandGoesOn : Obligations.EveryCommandGoesOn := by
  intro c s
  cases moves : movesTick c with
  | true =>
    obtain ⟨t, next, settled, pending⟩ := runCommand_of_movesTick c s moves
    exact ⟨t, (runCommand_eq_exec c s).symm.trans next, settled, pending, nofun⟩
  | false =>
    obtain ⟨t, next, kept, settled⟩ := exec_goesOn c s moves
    exact ⟨t, next, settled, kept.pending, fun _ => kept.tick⟩

/-! ## Register writes (R131, R179, R191) -/

/-- A cause is cleared by its 1, and stands under a 0. -/
theorem Alerts.getLsbD_cleared (a : Alerts) (v : BitVec 32) {i : Nat} (named : i < 8) :
    (a.cleared v).causes.getLsbD i = (a.causes.getLsbD i && !v.getLsbD i) := by
  simp [Alerts.cleared, named]

/-- The mask takes the value's low byte. -/
theorem Alerts.getLsbD_masked (a : Alerts) (v : BitVec 32) {i : Nat} (named : i < 8) : (a.masked v).mask.getLsbD i = v.getLsbD i := by
  simp [Alerts.masked, named]

/-- The alert line is high exactly while an unmasked cause is set (R191). -/
theorem alertLine_iff (s : State) : s.alertLine = true ↔ ∃ i, i < 8 ∧ s.alerts.causes.getLsbD i = true ∧ s.alerts.mask.getLsbD i = true := by
  unfold State.alertLine
  rw [bne_iff_ne, mask_ne_zero_iff]
  simp only [BitVec.getLsbD_and, Bool.and_eq_true]

/-- Settles O11: each write is one update of the state, and the step closes. -/
theorem registerWrites : Obligations.RegisterWrites := by
  intro s ready
  refine ⟨fun v => ⟨_, rfl, finish_closes (u := s.writeLinkBase v) ready⟩, fun v => ?_, fun v => ?_⟩
  · have closed := finish_closes (u := { s with alerts := s.alerts.cleared v }) ready
    refine ⟨_, rfl, ?_⟩
    rw [closed.alerts]
    exact ⟨closed, fun i named => s.alerts.getLsbD_cleared v named⟩
  · have closed := finish_closes (u := { s with alerts := s.alerts.masked v }) ready
    refine ⟨_, rfl, ?_⟩
    rw [alertLine_iff, closed.alerts]
    refine ⟨closed, fun i named => s.alerts.getLsbD_masked v named, ?_⟩
    refine exists_congr fun i => and_congr_right fun named => ?_
    rw [s.alerts.getLsbD_masked v named]
    rfl

/-! ## SET ALERTS (R192) -/

theorem SetAlertsP.valid_iff (p : SetAlertsP) :
    p.valid = true ↔ (p.writeStaging ≤ 1 ∧ p.writePool ≤ 1 ∧ (p.writeStaging = 1 → 1 ≤ p.stagingLevel ∧ p.stagingLevel ≤ 4096) ∧
      (p.writePool = 1 → p.poolLevel ≤ 4096)) := by
  simp only [SetAlertsP.valid, inRange, Bool.and_eq_true, Bool.or_eq_true, beq_iff_eq, decide_eq_true_eq]
  omega

theorem setAlertsOrder_invalid {p : SetAlertsP} (invalid : p.valid = false) (s : State) : setAlertsOrder p s = refuse s .badField := by
  simp [setAlertsOrder, invalid]

/-- The levels asked for written, each with its trip armed against the new level (R48, R61). -/
theorem setAlertsOrder_valid {p : SetAlertsP} (valid : p.valid = true) (s : State) :
    setAlertsOrder p s =
      accept { s with
        staging := { s.staging with
          tripLevel := if p.writeStaging = 1 then p.stagingLevel else s.staging.tripLevel
          tripArmed := if p.writeStaging = 1 then decide (s.staging.fill ≤ p.stagingLevel) else s.staging.tripArmed }
        pool := { s.pool with
          tripLevel := if p.writePool = 1 then p.poolLevel else s.pool.tripLevel
          tripArmed := if p.writePool = 1 then decide (p.poolLevel ≤ s.pool.freeCount) else s.pool.tripArmed } } := by
  by_cases staging : p.writeStaging = 1 <;> by_cases pool : p.writePool = 1 <;>
    simp [setAlertsOrder, valid, staging, pool, Staging.levelled, Pool.levelled]

/-- Settles O18: by whether the fields are in range. -/
theorem setAlertsWritesLevels : Obligations.SetAlertsWritesLevels := by
  intro s o p ready clear
  have answered : exec (.setAlerts o p) s = orderResult (setAlertsOrder p s) o .setAlerts := rfl
  rw [answered]
  refine ⟨SetAlertsP.valid_iff p, fun invalid => ?_, fun valid => ?_⟩
  · rw [setAlertsOrder_invalid invalid]
    exact orderResult_completed .badField ready clear
  · rw [setAlertsOrder_valid valid]
    exact orderResult_completed .ok ready clear

end Sys2Proof.Machine
end

section
/-! PROOFS. Nudges (spec/10, R182 to R184): what handing over the return marks leaves alone, a nudge in HALTED (O12) and in IDLE (O13). -/

namespace Sys2Proof.Machine

/-! ## Return marks (R128) -/

/-- `u` comes from `s` by handing return marks to lanes: shared memory and its failing stores, the lanes and the alerts apart nothing differs, and with no record
waiting for room only the lanes do. -/
structure MarksHanded (s u : State) : Prop where
  frame : u = { s with shared := u.shared, failPlan := u.failPlan, lanes := u.lanes, alerts := u.alerts }
  raised : ∀ n, s.alerts.causes.getLsbD n = true → u.alerts.causes.getLsbD n = true
  nothingWaits : (∀ k, (s.lanes.get k).pendingRecs = []) → u = { s with lanes := u.lanes } ∧ ∀ k, (u.lanes.get k).pendingRecs = []

theorem MarksHanded.refl (s : State) : MarksHanded s s := ⟨rfl, fun _ => id, fun empty => ⟨rfl, empty⟩⟩

theorem MarksHanded.trans {s u v : State} (h : MarksHanded s u) (g : MarksHanded u v) : MarksHanded s v where
  frame := g.frame.trans (by rw [h.frame])
  raised n set := g.raised n (h.raised n set)
  nothingWaits empty := by
    obtain ⟨same, empty⟩ := h.nothingWaits empty
    obtain ⟨same', empty⟩ := g.nothingWaits empty
    exact ⟨same'.trans (by rw [same]), empty⟩

/-- Waiting records written change what a record written changes, each of them. -/
theorem writePending_frame (s : State) (k : Fin 4) (fuel : Nat) :
    s.writePending k fuel = { s with
      shared := (s.writePending k fuel).shared
      failPlan := (s.writePending k fuel).failPlan
      lanes := (s.writePending k fuel).lanes
      alerts := (s.writePending k fuel).alerts } := by
  induction fuel generalizing s with
  | zero => rfl
  | succ fuel ih =>
    unfold State.writePending
    split
    · rfl
    · split
      · rfl
      · exact ih _

theorem writePending_raised (s : State) (k : Fin 4) (fuel n : Nat) (set : s.alerts.causes.getLsbD n = true) :
    (s.writePending k fuel).alerts.causes.getLsbD n = true := by
  induction fuel generalizing s with
  | zero => exact set
  | succ fuel ih =>
    unfold State.writePending
    split
    · exact set
    · split
      · exact set
      · exact ih _ ((laneWork_ringWrite s k _).raised n set)

theorem marksHanded_handMark (s : State) (k : Fin 4) (mark : BitVec 32) : MarksHanded s (s.handMark k mark) := by
  unfold State.handMark
  split
  · refine ⟨writePending_frame _ k _, fun n set => writePending_raised _ k _ n set, fun empty => ?_⟩
    rw [empty k]
    refine ⟨rfl, fun j => ?_⟩
    change ((s.lanes.set k ((s.lanes.get k).marked mark)).get j).pendingRecs = []
    rw [Four.get_set]
    split
    · exact empty k
    · exact empty j
  · exact .refl s

/-- With no replay running none can end at a nudge, so that the nudge's marks reach the lanes alone. -/
theorem marksHanded_handMarks {s : State} (still : s.replay.running = false) : MarksHanded s s.handMarks := by
  have folded (ks : List (Fin 4)) (s : State) :
      MarksHanded s (ks.foldl (fun s k => s.handMark k (s.shared.returnMark s.disp.linkBase.toNat k)) s) := by
    induction ks generalizing s with
    | nil => exact .refl s
    | cons k rest ih => exact (marksHanded_handMark s k _).trans (ih _)
  have handed := folded fourOrder s
  unfold State.handMarks
  rwa [replayClose_of_not_running (by rw [handed.frame]; exact still)]

section
variable {s u : State} (handed : MarksHanded s u)
include handed

/-- With no event for the sequencer the step that hands the marks closes as any other does. -/
theorem MarksHanded.closes (kept : Keeps s u) (ready : s.ready) (quiet : s.quiet) : u.finishEvents = u.finish ∧ closedFrom u u.finish := by
  have stillQuiet : u.quiet := by
    unfold State.quiet
    rw [handed.frame]
    exact quiet
  exact ⟨finishEvents_quiet stillQuiet, finish_closes ⟨kept.plan ready.1, kept.shared ready.2⟩⟩

/-- The units a nudge's marks do not reach stand in the closed step. -/
theorem MarksHanded.stands {t : State} (closed : closedFrom u t) :
    t.pods = s.pods ∧ t.monitor = s.monitor ∧ t.gens = s.gens ∧ t.sampler = s.sampler ∧ t.staging = s.staging ∧ t.takes = s.takes ∧ t.seq = s.seq ∧
      t.slots = s.slots ∧ t.render = s.render ∧ t.panel = s.panel := by
  rw [closed.pods, closed.monitor, closed.gens, closed.sampler, closed.staging, closed.takes, closed.seq, closed.slots, closed.render, closed.panel,
    handed.frame]
  exact ⟨rfl, rfl, rfl, rfl, rfl, rfl, rfl, rfl, rfl, rfl⟩

theorem MarksHanded.disp : u.disp = s.disp := by rw [handed.frame]

/-- With no record waiting the step stores nothing but the page. -/
theorem MarksHanded.bytesKept {t : State} (closed : closedFrom u t) (empty : ∀ k, (s.lanes.get k).pendingRecs = []) : bytesKept s t storesNothing := by
  obtain ⟨same, -⟩ := handed.nothingWaits empty
  have shared : u.shared = s.shared := by rw [same]
  refine bytesKept_mono (bytesKept_trans (bytesKept_of_shared shared storesNothing) closed.2 fun a inPage => ?_) fun _ => or_self_iff.mp
  unfold State.inPage at inPage ⊢
  rwa [handed.disp] at inPage

end

/-! ## A nudge in HALTED (R184) -/

theorem exec_nudge (v : BitVec 32) (s : State) : exec (.nudge v []) s = .next (s.nudge v).finishEvents := rfl

theorem nudge_halted {s : State} (halted : s.disp.state = .halted) (v : BitVec 32) : s.nudge v = s.nudgeHalted v := if_pos halted

/-- A count is refused more than 4,096 ahead of the consumed count (R183). -/
theorem refusesCount_iff (v consumed : BitVec 32) : refusesCount v consumed = true ↔ 4096 < (v - consumed).toNat := decide_eq_true_iff

theorem refusesCount_zero (v : BitVec 32) : refusesCount v 0 = decide (4096 < v.toNat) := by
  have all : v - 0 = v := BitVec.sub_zero v
  unfold refusesCount Config.maxOwed
  rw [all]

/-- The dispatcher in HALTED with its consumed count back at 0. -/
def State.unconsumed (s : State) : State := { s with disp := { s.disp with consumed := 0 } }

/-- The dispatcher started with what its control block says (R184). -/
def State.started (s : State) (v : BitVec 32) : State := { s with disp := s.disp.started v s.blockFirst s.blockPage }

/-- What a nudge in HALTED does with the control block it has read. -/
def State.startIfPaged (s : State) (v : BitVec 32) : State := if usableAddr s.blockPage = false then s.raise .chain else (s.started v).handMarks

/-- A nudge in HALTED: its checks, in their order. -/
theorem nudgeHalted_eq (s : State) (v : BitVec 32) :
    s.nudgeHalted v =
      if usableAddr s.disp.linkBase.toNat = false then s.raise .chain
      else if 4096 < v.toNat then s.unconsumed.raise .chain
      else if s.unconsumed.fails .controlBlock then (s.unconsumed.accessed .controlBlock).raise .link
      else (s.unconsumed.accessed .controlBlock).startIfPaged v := by
  unfold State.nudgeHalted State.startIfPaged
  rw [refusesCount_zero]
  simp only [Bool.not_eq_true', decide_eq_true_eq]
  rfl

/-- With no failure in store the control block is read. -/
theorem nudgeHalted_of_settled {s : State} (settled : s.settled) (v : BitVec 32) :
    s.nudgeHalted v =
      if usableAddr s.disp.linkBase.toNat = false then s.raise .chain
      else if 4096 < v.toNat then s.unconsumed.raise .chain
      else s.unconsumed.startIfPaged v := by
  have unfailing : s.unconsumed.fails .controlBlock = false := fails_of_settled settled _
  rw [nudgeHalted_eq, unfailing, accessed_of_settled (s := s.unconsumed) settled, if_neg (c := false = true) nofun]

theorem startIfPaged_unpaged {s : State} (unusable : usableAddr s.blockPage = false) (v : BitVec 32) :
    s.unconsumed.startIfPaged v = s.unconsumed.raise .chain := if_pos unusable

theorem startIfPaged_paged {s : State} (usable : usableAddr s.blockPage = true) (v : BitVec 32) :
    s.unconsumed.startIfPaged v = (s.started v).handMarks :=
  (if_neg (ne_false_of_eq_true usable)).trans (congrArg State.handMarks rfl)

/-- Settles O12: by what the control block and the count allow. -/
theorem nudgeInHalted : Obligations.NudgeInHalted := by
  intro s v ready quiet halted
  rw [exec_nudge, nudge_halted halted]
  rw [nudgeHalted_of_settled ready.1]
  refine ⟨fun unusable => ?_, fun usable refused => ?_, fun usable few page still => ?_⟩
  · rw [if_pos unusable, finishEvents_quiet (s := s.raise .chain) quiet]
    exact ⟨_, rfl, finish_closes (u := s.raise .chain) ready⟩
  · have stays : (if 4096 < v.toNat then s.unconsumed.raise .chain else s.unconsumed.startIfPaged v) = s.unconsumed.raise .chain := by
      split
      · rfl
      · next few => exact startIfPaged_unpaged (refused.resolve_left few) v
    rw [usable, if_neg nofun, stays, finishEvents_quiet (s := s.unconsumed.raise .chain) quiet]
    exact ⟨_, rfl, finish_closes (u := s.unconsumed.raise .chain) ready⟩
  · rw [usable, if_neg nofun, if_neg (Nat.not_lt.mpr few), startIfPaged_paged page]
    have handed := marksHanded_handMarks (s := s.started v) still
    have kept := handMarks_keeps (s.started v) (.refl _)
    generalize (s.started v).handMarks = u at handed kept
    obtain ⟨closing, closed⟩ := handed.closes kept ready quiet
    rw [closing]
    obtain ⟨pods, monitor, gens, sampler, staging, takes, seq, slots, render, panel⟩ := handed.stands closed
    refine ⟨_, rfl, closed.disp.trans handed.disp, pods, monitor, gens, sampler, staging, takes, seq, slots, render, panel, fun empty => ⟨?_, ?_⟩⟩
    · obtain ⟨same, -⟩ := handed.nothingWaits empty
      rw [closed.alerts, same]
      rfl
    · intro a range out _
      exact handed.bytesKept closed empty a range (fun stored => stored) fun inPage => out inPage.2

/-! ## A nudge in IDLE (R182, R183) -/

theorem takeCount_far {s : State} {v : BitVec 32} (far : 4096 < (v - s.disp.consumed).toNat) : s.takeCount v = s.raise .chain :=
  if_pos ((refusesCount_iff _ _).mpr far)

/-- The count taken, and handed to the page (R193). -/
def State.countTaken (s : State) (v : BitVec 32) : State := State.hands { s with disp := s.disp.counted v } [unitPosted]

theorem takeCount_near {s : State} {v : BitVec 32} (near : (v - s.disp.consumed).toNat ≤ 4096) : s.takeCount v = s.countTaken v :=
  if_neg fun far => Nat.not_lt.mpr near ((refusesCount_iff _ _).mp far)

/-- Only the dispatcher, the alerts and the page's posted count take part in a nudge's count. -/
theorem takeCount_frame (s : State) (v : BitVec 32) :
    s.takeCount v = { s with disp := (s.takeCount v).disp, alerts := (s.takeCount v).alerts, report := (s.takeCount v).report } := by
  unfold State.takeCount
  split <;> rfl

theorem takeCount_disp_of_idle {s : State} (idle : s.disp.state = .idle) (v : BitVec 32) :
    (s.takeCount v).disp = { s.disp with
      posted := if (v - s.disp.consumed).toNat ≤ 4096 then v else s.disp.posted
      state := if (v - s.disp.consumed).toNat ≤ 4096 ∧ v ≠ s.disp.consumed then .following else .idle } := by
  by_cases near : (v - s.disp.consumed).toNat ≤ 4096
  · rw [takeCount_near near, if_pos near]
    simp only [State.countTaken, State.hands, Dispatcher.counted, idle, near, true_and]
  · rw [takeCount_far (Nat.not_le.mp near), if_neg near, if_neg fun taken => near taken.1, ← idle]
    rfl

theorem takeCount_raises {s : State} {v : BitVec 32} (far : 4096 < (v - s.disp.consumed).toNat) :
    (s.takeCount v).alerts.causes.getLsbD Cause.chain.index = true := by
  have own : (bit 8 Cause.chain.index).getLsbD Cause.chain.index = true := by decide
  rw [takeCount_far far]
  simp [State.raise, Alerts.raise, own]

/-- The state in which a nudge outside HALTED hands its return marks: the count taken or refused, the control block read. -/
def State.nudged (s : State) (v : BitVec 32) : State :=
  { s.takeCount v with
    disp := { (s.takeCount v).disp with
      firstOrder := if (s.takeCount v).disp.cursor.isNone then (s.takeCount v).blockFirst else (s.takeCount v).disp.firstOrder } }

theorem retryLink_of_not_broken {s : State} (whole : s.disp.state ≠ .broken) : s.retryLink = s := if_pos whole

section
variable {s : State} (idle : s.disp.state = .idle) (v : BitVec 32)
include idle

theorem nudged_disp : (s.nudged v).disp = { s.disp with
    posted := if (v - s.disp.consumed).toNat ≤ 4096 then v else s.disp.posted
    state := if (v - s.disp.consumed).toNat ≤ 4096 ∧ v ≠ s.disp.consumed then .following else .idle
    firstOrder := if s.disp.cursor = none then s.blockFirst else s.disp.firstOrder } := by
  have same : (s.takeCount v).blockFirst = s.blockFirst := by
    rw [takeCount_frame, State.blockFirst, takeCount_disp_of_idle idle]
    rfl
  unfold State.nudged
  dsimp only
  rw [same, takeCount_disp_of_idle idle]
  simp only [Option.isNone_iff_eq_none]

theorem nudged_running : (s.nudged v).disp.state ≠ .halted ∧ (s.nudged v).disp.state ≠ .broken := by
  rw [nudged_disp idle]
  dsimp only
  split <;> exact ⟨nofun, nofun⟩

theorem nudge_idle (settled : s.settled) (still : s.replay.running = false) : s.nudge v = (s.nudged v).handMarks := by
  have running : s.disp.state ≠ .halted := by rw [idle]; nofun
  have counted : (s.takeCount v).settled := by
    unfold State.settled
    rw [takeCount_frame]
    exact settled
  have read : (s.takeCount v).readBlock = s.nudged v := by
    unfold State.readBlock
    rw [accessed_of_settled counted]
    rfl
  have stillNudged : (s.nudged v).replay.running = false := by
    unfold State.nudged
    rw [takeCount_frame]
    exact still
  have whole : (s.nudged v).handMarks.disp.state ≠ .broken := by
    rw [(marksHanded_handMarks stillNudged).disp]
    exact (nudged_running idle v).2
  unfold State.nudge State.nudgeRunning
  dsimp only
  rw [if_neg running, fails_of_settled counted, if_neg Bool.false_ne_true, read, retryLink_of_not_broken whole]

end

/-- Settles O13: the count and the control block make the dispatcher, and the marks change no unit but the lanes. -/
theorem nudgeTakesCount : Obligations.NudgeTakesCount := by
  intro s v ready quiet idle still
  have frame : s.nudged v = { s with disp := (s.nudged v).disp, alerts := (s.takeCount v).alerts, report := (s.takeCount v).report } := by
    unfold State.nudged
    rw [takeCount_frame]
  rw [exec_nudge, nudge_idle idle v ready.1 still]
  have disp := nudged_disp idle v
  have alerts : (s.nudged v).alerts = (s.takeCount v).alerts := rfl
  generalize s.nudged v = x at frame disp alerts
  have handed := marksHanded_handMarks (s := x) (by rw [frame]; exact still)
  have kept := handMarks_keeps x (.refl x)
  generalize x.handMarks = u at handed kept
  obtain ⟨closing, closed⟩ := handed.closes kept (by rw [frame]; exact ready) (by rw [frame]; exact quiet)
  rw [closing]
  obtain ⟨pods, monitor, gens, sampler, staging, takes, seq, slots, render, panel⟩ := handed.stands closed
  refine ⟨u.finish, rfl, (closed.disp.trans handed.disp).trans disp, fun far => ?_, ?_⟩
  · rw [closed.alerts]
    exact handed.raised _ (alerts ▸ takeCount_raises far)
  · have page (a : Nat) (inPage : x.inPage a) : s.inPage a :=
      inPage_of_page (by rw [idle]; nofun) (by rw [disp]) inPage
    have shared : x.shared = s.shared := by rw [frame]
    have lanes : x.lanes = s.lanes := by rw [frame]
    have bytes (empty : ∀ k : Fin 4, (s.lanes.get k).pendingRecs = []) : bytesKept s u.finish storesNothing :=
      bytesKept_mono (bytesKept_trans (bytesKept_of_shared shared storesNothing) (handed.bytesKept closed (lanes ▸ empty)) page)
        fun _ => or_self_iff.mp
    rw [pods, monitor, gens, sampler, staging, takes, seq, slots, render, panel, frame]
    exact ⟨rfl, rfl, rfl, rfl, rfl, rfl, rfl, rfl, rfl, rfl, bytes⟩

end Sys2Proof.Machine
end

section
/-! PROOFS. The order chain (spec/10, R185 to R189): the take of a first and of a next record (O14, O15), the end of a wait (O16), NOTE and HALT (O17). -/

namespace Sys2Proof.Machine

/-! ## A NOTE handed on (R186, R188) -/

/-- A NOTE reads no parameters and completes at once, and the dispatcher goes on. -/
theorem handOrder_note (s : State) (o : OrderRef) :
    s.handOrder o .note = State.complete { s with disp := s.disp.onward } o .note .ok [] := rfl

/-- Only an EXPORT waits without a barrier, and no order waits on a barrier with none in flight (R186). -/
theorem orderWaits_note {s : State} {barrier : Bool} (free : barrier = false ∨ s.noneInFlight = true) : s.orderWaits barrier .note = false := by
  have other : (OrderKind.note == OrderKind.exportOrder) = false := rfl
  unfold State.orderWaits
  rw [other]
  obtain h | h := free <;> simp [h]

theorem handTaken_note {s : State} {m : Mem} {a : Nat} (running : s.disp.state ≠ .halted) (kind : m.orderKind a = some .note)
    (noBarrier : m.barrier a = false) :
    s.handTaken m a = State.complete { s with disp := s.disp.onward } (m.orderRef a) .note .ok [] := by
  unfold State.handTaken
  rw [if_neg running, kind]
  dsimp only
  rw [orderWaits_note (Or.inl noBarrier), if_neg Bool.false_ne_true, handOrder_note]

/-! ## The take (R185) -/

theorem retireCursor_none {s : State} {next : Nat} (retires : s.disp.retires next = none) : s.retireCursor next = s := by
  unfold State.retireCursor
  rw [retires]

section
variable {s : State} (settled : s.settled)
include settled

theorem linkRead_of_settled : s.linkRead = s := by
  unfold State.linkRead
  rw [accessed_of_settled settled, ite_self]

theorem linkReadFails_of_settled : s.linkReadFails = false := by
  unfold State.linkReadFails
  rw [fails_of_settled settled, Bool.and_false]

/-- The old cursor is written RETIRED with its outcome (R185, R187). -/
theorem retireCursor_some {next c : Nat} {oc : Outcome} (retires : s.disp.retires next = some (c, oc)) :
    s.retireCursor next = { s with shared := s.shared.putUnit (stateAddr c) (stateUnit stRetired oc.code) } := by
  unfold State.retireCursor
  rw [retires]
  dsimp only
  rw [fails_of_settled settled, accessed_of_settled settled, if_neg Bool.false_ne_true]

theorem retireCursor_frame (next : Nat) : s.retireCursor next = { s with shared := (s.retireCursor next).shared } := by
  cases retires : s.disp.retires next with
  | none => rw [retireCursor_none retires]
  | some x => rw [retireCursor_some settled (c := x.1) (oc := x.2) retires]

end

/-- Record `a` written TAKEN. -/
def State.markedTaken (s : State) (a : Nat) : State := { s with shared := s.shared.putUnit (stateAddr a) (stateUnit stTaken 0) }

/-- The state in which the unit is handed the order of record `a`: the record TAKEN, the cursor before it RETIRED, and the dispatcher gone on. -/
def State.taken (s : State) (a : Nat) : State := { s with shared := ((s.markedTaken a).retireCursor a).shared, disp := (s.disp.taking a).onward }

theorem taken_shared (s : State) (a : Nat) : (s.taken a).shared = ((s.markedTaken a).retireCursor a).shared := rfl

section
variable {s : State} (settled : s.settled)
include settled

theorem takeRecord_of_settled (running : s.disp.state ≠ .halted) (a : Nat) :
    s.takeRecord a = { s with shared := ((s.markedTaken a).retireCursor a).shared, disp := s.disp.taking a } := by
  have retired := retireCursor_frame (s := s.markedTaken a) settled a
  have fails := fails_of_settled settled .orderHeader
  have accessed := accessed_of_settled settled .orderHeader
  have goesOn : ¬ ((s.markedTaken a).retireCursor a).disp.state = .halted := by
    rw [retired]
    exact running
  have taking : { (s.markedTaken a).retireCursor a with disp := ((s.markedTaken a).retireCursor a).disp.taking a } =
      { s with shared := ((s.markedTaken a).retireCursor a).shared, disp := s.disp.taking a } := by
    rw [retired]
    rfl
  unfold State.takeRecord
  dsimp only
  rw [accessed, accessed, fails, if_neg Bool.false_ne_true, if_neg Bool.false_ne_true]
  exact (if_neg goesOn).trans taking

variable (following : s.disp.state = .following) (owed : s.disp.owed ≠ 0)
include following owed

theorem takeOrder_note (usable : usableAddr s.nextRecord = true) (note : noteAt s s.nextRecord) :
    s.takeOrder = (s.taken s.nextRecord).complete (s.shared.orderRef s.nextRecord) .note .ok [] := by
  obtain ⟨kind, noBarrier⟩ := note
  have running : s.disp.state ≠ .halted := by rw [following]; nofun
  unfold State.takeOrder
  dsimp only
  rw [if_pos ⟨following, owed⟩, linkReadFails_of_settled settled, if_neg Bool.false_ne_true, linkRead_of_settled settled, if_pos usable,
    takeRecord_of_settled settled running]
  exact handTaken_note running kind noBarrier

theorem takeOrder_broken (unusable : usableAddr s.nextRecord = false) : s.takeOrder = s.broken := by
  unfold State.takeOrder
  dsimp only
  rw [if_pos ⟨following, owed⟩, linkReadFails_of_settled settled, if_neg Bool.false_ne_true, linkRead_of_settled settled, unusable,
    if_neg Bool.false_ne_true]

end

theorem takeOrder_nothing {s : State} (nothing : s.disp.state ≠ .following ∨ s.disp.owed = 0) : s.takeOrder = s :=
  if_neg fun ⟨following, owed⟩ => nothing.elim (absurd following) owed

theorem exec_orderTake (s : State) : exec (.orderTake []) s = .next s.takeOrder.finishEvents := rfl

theorem taken_ready {s : State} (ready : s.ready) (a : Nat) : (s.taken a).ready := by
  refine ⟨ready.1, ?_⟩
  have marked : (s.markedTaken a).shared.wf = true := Mem.putUnit_wf _ _ _ ready.2
  exact (retireCursor_keeps (s.markedTaken a) a (.refl _)).shared marked

/-- The step that takes a NOTE: its record is completed as the new cursor's. -/
theorem exec_orderTake_note {s : State} (ready : s.ready) (quiet : s.quiet) (following : s.disp.state = .following) (owed : s.disp.owed ≠ 0) {a : Nat}
    (next : s.nextRecord = a) (clear : s.recordClear (s.shared.orderRef a) .note 0) (note : noteAt s a) :
    ∃ t, exec (.orderTake []) s = .next t ∧ completedFrom (s.taken a) t (s.shared.orderRef a) .note .ok [] := by
  subst next
  have running : s.disp.state ≠ .halted := by rw [following]; nofun
  have done := complete_finish (oc := .ok) (taken_ready ready s.nextRecord).1 (taken_ready ready s.nextRecord).2
    (r := []) (recordClear_of_page (u := s.taken s.nextRecord) running rfl clear)
  refine ⟨_, ?_, done⟩
  rw [exec_orderTake, takeOrder_note ready.1 following owed clear.1 note, finishEvents_quiet (complete_quiet (u := s.taken s.nextRecord) quiet _ _ _ _)]

section
variable {s t : State} {a : Nat} (done : completedFrom (s.taken a) t (s.shared.orderRef a) .note .ok [])
include done

/-- The dispatcher after the take of a NOTE: the record is the cursor, left DONE with OK. -/
theorem taken_disp : t.disp = { (s.disp.taking a).onward with cursorOutcome := some .ok } := by
  rw [done.disp]
  exact congrArg (fun oc => { (s.disp.taking a).onward with cursorOutcome := oc }) (if_pos rfl)

theorem taken_stateUnit : t.shared.getUnit (stateAddr a) = stateUnit stDone Outcome.ok.code := by
  obtain ⟨-, state, -⟩ := done
  have cursor : (s.taken a).recordState (s.shared.orderRef a) = stDone := if_pos rfl
  rw [cursor] at state
  exact state

/-- Past the bytes written before it, the take writes the record's state unit and the page. -/
theorem taken_bytesKept (running : s.disp.state ≠ .halted) {written : Nat → Prop} (before : bytesKept s (s.taken a) written) :
    bytesKept s t (fun x => written x ∨ inBytes (stateAddr a) 8 x) := by
  obtain ⟨-, -, -, kept⟩ := done
  exact bytesKept_trans before (bytesKept_mono kept fun _ => completionBytes_zero) fun _ => inPage_of_page (u := s.taken a) running rfl

end

/-- One order owed and taken leaves none (R181). -/
theorem owed_taking (d : Dispatcher) (a : Nat) : (d.taking a).owed = 0 ↔ d.owed = 1 := by
  unfold Dispatcher.owed Dispatcher.taking
  dsimp only
  bv_omega

/-- Settles O14: the take of a NOTE, the BROKEN dispatcher, and the step that only closes. -/
theorem orderTakeFirst : Obligations.OrderTakeFirst := by
  intro s ready quiet
  refine ⟨fun following owed first clear note => ?_, fun following owed unusable => ?_, fun nothing => ?_⟩
  · have running : s.disp.state ≠ .halted := by rw [following]; nofun
    have next : s.nextRecord = s.disp.firstOrder := by rw [State.nextRecord, first]
    have none : s.disp.retires s.disp.firstOrder = none := by rw [Dispatcher.retires, first]
    have shared : (s.taken s.disp.firstOrder).shared = s.shared.putUnit (stateAddr s.disp.firstOrder) (stateUnit stTaken 0) := by
      rw [taken_shared, retireCursor_none (s := s.markedTaken s.disp.firstOrder) none]
      rfl
    obtain ⟨t, answered, done⟩ := exec_orderTake_note ready quiet following owed next clear note
    have bytes := taken_bytesKept done running (bytesKept_of_putUnit ready.2 shared)
    refine ⟨t, answered, ?_⟩
    rw [taken_disp done]
    refine ⟨rfl, rfl, rfl, rfl, ?_, taken_stateUnit done, bytesKept_mono bytes fun _ => or_self_iff.mp,
      unitsKept_of_completed (u := s.taken s.disp.firstOrder) done, done.alerts⟩
    simp only [Dispatcher.onward, owed_taking]
  · rw [exec_orderTake, takeOrder_broken ready.1 following owed unusable, finishEvents_quiet (s := s.broken) quiet]
    exact ⟨_, rfl, finish_closes (u := s.broken) ready⟩
  · rw [exec_orderTake, takeOrder_nothing nothing, finishEvents_quiet quiet]
    exact ⟨_, rfl, finish_closes ready⟩

/-! ## A next record (R185, R187) -/

/-- Records apart have their state units apart. -/
theorem stateUnits_apart {s : State} {c a : Nat} (apart : headersApart s c a) (inSpace' : a + 0x18 ≤ 2 ^ 64) {i : Nat} (byte : i < 8) :
    ¬ inBytes (stateAddr a) 8 (wrapAddr (stateAddr c + i)) := by
  obtain ⟨-, inSpace, apart, -⟩ := apart
  unfold inBytes wrapAddr stateAddr
  omega

/-- A record apart from the page has its state unit outside it. -/
theorem stateUnit_outside_page {s : State} {c a : Nat} (apart : headersApart s c a) {i : Nat} (byte : i < 8) :
    ¬ s.inPage (wrapAddr (stateAddr c + i)) := by
  obtain ⟨-, inSpace, -, pageInSpace, apart⟩ := apart
  rintro ⟨-, inPage⟩
  unfold inBytes wrapAddr stateAddr at inPage
  omega

section
variable {s : State} (settled : s.settled) {c a : Nat} {oc : Outcome} (cursor : s.disp.cursor = some c) (outcome : s.disp.cursorOutcome = some oc)
  (other : c ≠ a)
include settled cursor outcome other

/-- Behind a cursor left DONE the take writes two state units: the new record TAKEN, then the old one RETIRED. -/
theorem taken_shared_next :
    (s.taken a).shared = (s.markedTaken a).shared.putUnit (stateAddr c) (stateUnit stRetired oc.code) := by
  have retires : (s.markedTaken a).disp.retires a = some (c, oc) := by
    change s.disp.retires a = _
    rw [Dispatcher.retires, cursor, outcome]
    exact if_neg other
  rw [taken_shared, retireCursor_some (s := s.markedTaken a) settled retires]

theorem taken_bytesKept_next (wf : s.shared.wf = true) :
    bytesKept s (s.taken a) (fun x => inBytes (stateAddr a) 8 x ∨ inBytes (stateAddr c) 8 x) :=
  bytesKept_trans (u := s.markedTaken a) (bytesKept_of_putUnit wf rfl)
    (bytesKept_of_putUnit (Mem.putUnit_wf _ _ _ wf) (taken_shared_next settled cursor outcome other)) fun _ => id

end

/-- The next record is the one found in BROKEN, or the one the cursor's link names. -/
theorem nextRecord_of_cursor {s : State} {c : Nat} (cursor : s.disp.cursor = some c) :
    s.nextRecord = s.disp.found.getD (s.shared.getUnit (linkAddr c)).toNat := by
  rw [State.nextRecord, cursor]
  cases s.disp.found <;> rfl

/-- Settles O15: the new record is completed as the cursor, and the old one's state unit lies apart from it. -/
theorem orderTakeNext : Obligations.OrderTakeNext := by
  intro s c a oc ready quiet following owed cursor outcome next clear apart note
  have running : s.disp.state ≠ .halted := by rw [following]; nofun
  have other : c ≠ a := by
    obtain ⟨-, -, apart, -⟩ := apart
    omega
  obtain ⟨t, answered, done⟩ := exec_orderTake_note ready quiet following owed ((nextRecord_of_cursor cursor).trans next) clear note
  have bytes := taken_bytesKept done running (taken_bytesKept_next ready.1 cursor outcome other ready.2)
  have retired : t.shared.getUnit (stateAddr c) = stateUnit stRetired oc.code := by
    obtain ⟨-, -, -, kept⟩ := done
    rw [getUnit_of_bytesKept kept (fun i byte written => stateUnits_apart apart clear.2.1 byte (completionBytes_zero written))
      (fun i byte inPage => stateUnit_outside_page apart byte (inPage_of_page (u := s.taken a) running rfl inPage)),
      taken_shared_next ready.1 cursor outcome other]
    exact Mem.getUnit_putUnit _ _ _ (Mem.putUnit_wf _ _ _ ready.2)
  refine ⟨t, answered, ?_⟩
  rw [taken_disp done]
  exact ⟨rfl, rfl, rfl, rfl, retired, taken_stateUnit done, bytesKept_mono bytes fun x => by tauto,
    unitsKept_of_completed (u := s.taken a) done, done.alerts⟩

/-! ## The end of a wait (R186) -/

theorem waitEnds_note {s : State} {a : Nat} (stalled : s.disp.state = .stalled) (held : s.disp.held = some a) (free : s.noneInFlight = true)
    (kind : s.shared.orderKind a = some .note) :
    s.waitEnds = State.complete { s with disp := s.disp.onward } (s.shared.orderRef a) .note .ok [] := by
  unfold State.waitEnds
  rw [stalled, held]
  dsimp only
  rw [kind]
  dsimp only
  rw [orderWaits_note (Or.inr free), if_neg Bool.false_ne_true, handOrder_note]

/-- Settles O16: with nothing in flight the held NOTE waits for nothing, and completes as one just taken. -/
theorem waitEndsHandsOrder : Obligations.WaitEndsHandsOrder := by
  intro s a ready quiet stalled held free kind clear
  have running : s.disp.state ≠ .halted := by rw [stalled]; nofun
  have answered : exec .dispatcherWaitEnds s = .next s.waitEnds.finishEvents := rfl
  rw [answered, waitEnds_note stalled held free kind, finishEvents_quiet (complete_quiet (u := { s with disp := s.disp.onward }) quiet _ _ _ _)]
  exact ⟨_, rfl, complete_finish (u := { s with disp := s.disp.onward }) ready.1 ready.2 (r := []) (recordClear_of_page running rfl clear)⟩

/-! ## HALT (R189) -/

/-- The state a HALT leaves before its step closes: its record RETIRED with OK, the dispatcher HALTED with its cursor forgotten. -/
def State.haltedBy (s : State) (o : OrderRef) : State :=
  { s with
    shared := s.shared.putUnit (stateAddr o.addr) (stateUnit stRetired Outcome.ok.code)
    disp := s.disp.afterFailure
    alerts := s.alerts.raiseIf o.alert .order
    failPlan := [] }

/-- The HALT of the cursor comes behind the page's last writing; no other cursor is left to retire, and no access fails. -/
theorem haltOrder_of_cursor {s : State} (settled : s.settled) {o : OrderRef} (cursor : s.disp.cursor = some o.addr) :
    s.haltOrder o = s.syncReport.haltedBy o := by
  have disp : s.syncReport.disp = s.disp := by rw [syncReport_frame settled]
  have retires : s.disp.retires o.addr = none := by
    rw [Dispatcher.retires, cursor]
    cases s.disp.cursorOutcome with
    | none => rfl
    | some oc => exact if_pos rfl
  have completed := completeAs_retired ((syncReport_keeps s (.refl s)).plan settled) o .halt .ok
  unfold State.haltOrder State.halt State.retireFails
  rw [disp, if_neg fun ⟨running, halted⟩ => running halted, retireCursor_none (by rw [disp, retires]), retires, completed]
  rfl

theorem exec_halt (o : OrderRef) (s : State) : exec (.halt o) s = .next (s.haltOrder o).finish := rfl

/-- Settles O17: the NOTE is accepted; the HALT finds the page written, and in HALTED the closing of its step stores nothing. -/
theorem noteAndHalt : Obligations.NoteAndHalt := by
  intro s o ready
  refine ⟨fun clear => orderResult_completed (u := s) .ok ready clear, fun _ cursor => ?_⟩
  have kept := syncReport_keeps s (.refl s)
  have wf := kept.shared ready.2
  have page : bytesKept s s.syncReport storesNothing := fun a range _ => syncReport_get ready.1 ready.2 a range
  have frame := syncReport_frame ready.1
  rw [exec_halt, haltOrder_of_cursor ready.1 cursor]
  generalize s.syncReport = u at wf page frame
  have disp : u.disp = s.disp := by rw [frame]
  have alerts : u.alerts = s.alerts := by rw [frame]
  have closed := finish_closes (u := u.haltedBy o) ⟨rfl, Mem.putUnit_wf _ _ _ wf⟩
  have shared : (u.haltedBy o).finish.shared = u.shared.putUnit (stateAddr o.addr) (stateUnit stRetired Outcome.ok.code) :=
    finish_shared_of_halted (s := u.haltedBy o) rfl
  have stored := bytesKept_of_putUnit (t := (u.haltedBy o).finish) wf shared
  generalize (u.haltedBy o).finish = t at closed shared stored
  have units : unitsKept u t := unitsKept_of_closed (u := u.haltedBy o) closed
  have samePage (a : Nat) (inPage : u.inPage a) : s.inPage a := by
    unfold State.inPage at inPage ⊢
    rwa [disp] at inPage
  refine ⟨t, rfl, ?_, ?_, ?_, bytesKept_mono (bytesKept_trans page stored samePage) fun _ written => written.resolve_left id, ?_⟩
  · rw [closed.disp, State.haltedBy, disp]
    rfl
  · rw [shared]
    exact Mem.getUnit_putUnit _ _ _ wf
  · rw [closed.alerts, State.haltedBy, alerts]
  · rw [frame] at units
    exact units

end Sys2Proof.Machine
end

section
/-! PROOFS. A link reset (spec/10, R190; O10): what the orders it gives up leave alone, and the reset itself. -/

namespace Sys2Proof.Machine

/-! ## Orders abandoned (R66, R158, R161, R162) -/

/-- `u` comes from `s` by giving up orders in flight: the port, the take table, the sequencer, the lanes and the readers, and what the page shows of the sequencer,
apart, nothing differs. -/
def abandonedFrom (s u : State) : Prop :=
  u = { s with
    report := u.report, pool := u.pool, takes := u.takes, seq := u.seq, lanes := u.lanes, replay := u.replay, exporter := u.exporter, render := u.render }

theorem abandonedFrom.refl (s : State) : abandonedFrom s s := rfl

theorem abandonedFrom.trans {s u v : State} (h : abandonedFrom s u) (g : abandonedFrom u v) : abandonedFrom s v := by
  unfold abandonedFrom at h g ⊢
  rw [h] at g
  exact g

theorem abandonedFrom_foldl {α : Type} (f : State → α → State) (l : List α) (each : ∀ s, ∀ x ∈ l, abandonedFrom s (f s x)) (s : State) :
    abandonedFrom s (l.foldl f s) := by
  induction l generalizing s with
  | nil => exact .refl s
  | cons x rest ih =>
    exact (each s x List.mem_cons_self).trans (ih (fun u y later => each u y (List.mem_cons_of_mem x later)) _)

/-! ### The replay engine (R108, R137, R158) -/

/-- A path's action in a search gives out hits alone (R103, R106, R107). -/
theorem act_search_outs (q : Sequencer) (k : Nat) (t : Tick) (a : StageAction) (target resume : Nat) {o : SeqOut}
    (given : o ∈ (q.act k true t a target resume).outs) : ∃ n, o = .fire n := by
  cases a with
  | fire => exact ⟨q.stage, List.mem_singleton.mp given⟩
  | ret =>
    unfold Sequencer.act at given
    dsimp only at given
    split at given <;> cases given
  | next => cases given
  | enter => cases given
  | restart => cases given

theorem abandonedFrom_flagTake (s : State) : abandonedFrom s s.flagTake := by
  unfold State.flagTake
  split
  · exact .refl s
  · split
    · rfl
    · exact .refl s

/-- A step of a search that gives out hits alone. -/
theorem abandonedFrom_seqStep (s : State) (t : Tick) {x : SeqStep} (hits : ∀ o ∈ x.outs, ∃ n, o = .fire n) : abandonedFrom s (s.seqStep true t x) := by
  have stepped : abandonedFrom s (s.seqTo x.seq) := rfl
  refine (stepped.trans (abandonedFrom_flagTake _)).trans (abandonedFrom_foldl _ _ (fun u o given => ?_) _)
  obtain ⟨n, rfl⟩ := hits o given
  rfl

theorem abandonedFrom_seqJudge (s : State) (k : Nat) (t : Tick) (fuel : Nat) : abandonedFrom s (s.seqJudge true k t fuel) := by
  induction fuel generalizing s with
  | zero => exact .refl s
  | succ fuel ih =>
    unfold State.seqJudge
    split
    · exact (abandonedFrom_seqStep s _ fun _ given => act_search_outs _ _ _ _ _ _ given).trans (ih _)
    · exact .refl s

theorem abandonedFrom_searchLast (s : State) : abandonedFrom s s.searchLast := by
  unfold State.searchLast State.searchSpan
  split
  · split
    · exact abandonedFrom_seqJudge s _ _ _
    · exact .refl s
  · exact .refl s

theorem abandonedFrom_endSearch (s : State) : abandonedFrom s s.endSearch := by
  unfold State.endSearch
  split
  · rfl
  · exact .refl s

theorem abandonedFrom_replayStops (s : State) : abandonedFrom s s.replayStops := by
  have cancelled := abandonedFrom_foldl (fun s k => if s.replay.doneLanes.getLsbD k.val then s else s.laneCancelled k) (lanesIn s.replay.lanes)
    (fun u k _ => by
      split
      · exact .refl u
      · rfl) s
  exact (cancelled.trans (abandonedFrom_searchLast _)).trans (abandonedFrom_endSearch _)

/-! ### Holds and readers (R65, R161, R162) -/

/-- A right that ends changes the pool and nothing else. -/
theorem endRight_frame (s : State) (c : Client) (h : Option Nat) : s.endRight c h = { s with pool := (s.endRight c h).pool } := by
  unfold State.endRight
  split
  · rfl
  · cases h <;> rfl

theorem abandonedFrom_endRight (s : State) (c : Client) (h : Option Nat) : abandonedFrom s (s.endRight c h) := by
  unfold abandonedFrom
  rw [endRight_frame]

theorem abandonedFrom_replayAbandon (s : State) : abandonedFrom s s.replayAbandon := by
  unfold State.replayAbandon
  split
  · have idled : abandonedFrom (s.replayStops.endRight .replay s.replayStops.replay.held) s.replayStops.replayIdle := rfl
    exact ((abandonedFrom_replayStops s).trans (abandonedFrom_endRight _ _ _)).trans idled
  · exact .refl s

theorem abandonedFrom_exportAbandon (s : State) : abandonedFrom s s.exportAbandon := by
  have idled : abandonedFrom (s.endRight .exporter s.exporter.held) s.exportAbandon := rfl
  exact (abandonedFrom_endRight s _ _).trans idled

theorem abandonedFrom_renderAbandon (s : State) : abandonedFrom s s.renderAbandon := by
  have idled : abandonedFrom (s.endRight .renderer s.render.held) s.renderAbandon := rfl
  exact (abandonedFrom_endRight s _ _).trans idled

theorem replayAbandon_stopped (s : State) : s.replayAbandon.replay.running = false := by
  unfold State.replayAbandon
  split
  · rfl
  · next idle => exact Bool.not_eq_true _ ▸ idle

theorem exportAbandon_replay (s : State) : s.exportAbandon.replay = s.replay := by
  unfold State.exportAbandon
  rw [endRight_frame]

theorem renderAbandon_replay (s : State) : s.renderAbandon.replay = s.replay := by
  unfold State.renderAbandon
  rw [endRight_frame]

theorem renderAbandon_exporter (s : State) : s.renderAbandon.exporter = s.exporter := by
  unfold State.renderAbandon
  rw [endRight_frame]

/-! ## The reset (R172, R190, R191) -/

/-- The readers' orders given up, one reader after another. -/
def State.readersAbandoned (s : State) : State := ((s.replayAbandon).exportAbandon).renderAbandon

theorem abandonedFrom_readersAbandoned (s : State) : abandonedFrom s s.readersAbandoned :=
  ((abandonedFrom_replayAbandon s).trans (abandonedFrom_exportAbandon _)).trans (abandonedFrom_renderAbandon _)

/-- After the readers nothing is in flight in them. -/
theorem readersAbandoned_idle (s : State) :
    s.readersAbandoned.replay.running = false ∧ s.readersAbandoned.exporter.queue = [] ∧ s.readersAbandoned.render.order = none := by
  refine ⟨?_, ?_, rfl⟩
  · unfold State.readersAbandoned
    rw [renderAbandon_replay, exportAbandon_replay, replayAbandon_stopped]
  · unfold State.readersAbandoned
    rw [renderAbandon_exporter]
    rfl

theorem exec_linkReset (s : State) : exec .linkReset s = .next s.linkReset.finish := rfl

/-- What the reset itself changes, once the readers' orders are given up. -/
theorem linkReset_eq (s : State) :
    s.linkReset = { s.readersAbandoned with
      disp := Dispatcher.reset
      alerts := s.readersAbandoned.alerts.raise .link
      takes := { s.readersAbandoned.takes with entries := s.readersAbandoned.takes.entries.map Take.abandoned }
      lanes := s.readersAbandoned.lanes.map (fun l => { (if l.inReplay then l.cancelsReplay else l) with suspended := true })
      panel := s.readersAbandoned.panel.linkReset } := rfl

theorem linkReset_noneInFlight (s : State) : s.linkReset.noneInFlight = true := by
  obtain ⟨replay, exporter, render⟩ := readersAbandoned_idle s
  rw [linkReset_eq]
  generalize s.readersAbandoned = u at replay exporter render ⊢
  simp [State.noneInFlight, Take.abandoned, Panel.linkReset, replay, exporter, render]

/-- Whether orders are in flight is seen from the units that hold them. -/
theorem closedFrom.noneInFlight {u t : State} (closed : closedFrom u t) : t.noneInFlight = u.noneInFlight := by
  unfold State.noneInFlight
  rw [closed.takes, closed.replay, closed.exporter, closed.render, closed.panel]

/-- Settles O10: the readers' orders are given up, the reset does the rest, and in HALTED the closing stores nothing. -/
theorem linkResetForgetsOrders : Obligations.LinkResetForgetsOrders := by
  intro s ready
  have kept := linkReset_keeps s (.refl s)
  have closed := finish_closes (u := s.linkReset) ⟨kept.plan ready.1, kept.shared ready.2⟩
  have shared : s.linkReset.finish.shared = s.linkReset.shared := finish_shared_of_halted (s := s.linkReset) rfl
  refine ⟨_, exec_linkReset s, ?_⟩
  rw [closed.disp, closed.alerts, closed.noneInFlight, closed.lanes, closed.panel, closed.pods, closed.gens, closed.monitor, closed.sampler, closed.staging,
    closed.slots, shared, linkReset_noneInFlight, linkReset_eq]
  have abandoned := abandonedFrom_readersAbandoned s
  generalize s.readersAbandoned = u at abandoned
  unfold abandonedFrom at abandoned
  rw [abandoned]
  exact ⟨rfl, rfl, rfl, fun k => by rw [Four.get_map], rfl, rfl, rfl, rfl, rfl, rfl, rfl, rfl, rfl, rfl⟩

end Sys2Proof.Machine
end

section
/-! PROOFS. Accesses that fail (spec/10, R194; O59): the control block at a nudge, the result area of a TAKE STATUS, the state write of a NOTE. -/

namespace Sys2Proof.Machine

/-- A count is taken alike with a failure in store. -/
theorem takeCount_willFail (s : State) (a : LinkAccess) (n : Nat) (v : BitVec 32) : (s.willFail a n).takeCount v = (s.takeCount v).willFail a n := by
  unfold State.takeCount
  rw [willFail_disp]
  split <;> rfl

/-- A nudge outside HALTED whose read of the control block fails: its count is taken, and the dispatcher is HALTED. -/
theorem nudge_willFail {s : State} (settled : s.settled) (running : s.disp.state ≠ .halted) {v : BitVec 32}
    (near : (v - s.disp.consumed).toNat ≤ 4096) :
    (s.willFail .controlBlock 0).nudge v = (s.countTaken v).linkHalt := by
  have counted : (s.countTaken v).settled := settled
  unfold State.nudge State.nudgeRunning
  dsimp only
  rw [willFail_disp, if_neg running, takeCount_willFail, takeCount_near near, fails_willFail counted, if_pos rfl, accessed_willFail counted]

theorem exec_failure (a : LinkAccess) (n : Nat) (c : Instr) (s : State) :
    exec (.sharedMemoryAccessFailure a n c) s = exec c (s.willFail a n) := runCommand_eq_exec c _

/-- A take's summary is never empty (R80). -/
theorem Take.summary_ne_nil (t : Take) (filling : Bool) : t.summary filling ≠ [] := List.cons_ne_nil _ _

/-- The step of a dispatcher that a failure has HALTED closes without a store. -/
theorem linkHalt_closes {s : State} (ready : s.ready) :
    closedFrom s.linkHalt s.linkHalt.finish ∧ s.linkHalt.finish.shared = s.shared :=
  ⟨finish_closes (u := s.linkHalt) ready, finish_shared_of_halted (s := s.linkHalt) rfl⟩

/-- The step of a TAKE STATUS of a take in the table whose result write fails. -/
theorem exec_takeStatus_resultFailing {s : State} (settled : s.settled) (o : OrderRef) {p : TakeIdP} (positive : 1 ≤ p.takeId) (valid : p.takeId ≤ 255)
    {i : Nat} (named : s.takeIndex p.takeId = some i) :
    exec (.sharedMemoryAccessFailure .resultArea 0 (.takeStatus o p)) s = .next ((s.raise .link).complete o .takeStatus .linkFault []).finish := by
  have status : s.statusIndex p.takeId = some i := (if_neg (Nat.ne_of_gt positive)).trans named
  have summary := Take.summary_ne_nil (s.takeAt i) s.writer.filling.isSome
  change Host.Outcome.next ((takeStatusOrder p (s.willFail .resultArea 0)).finish o .takeStatus).finish = _
  rw [takeStatusOrder_some (s := s.willFail .resultArea 0) valid status, ← complete_resultFailing settled o .takeStatus .ok summary]
  rfl

/-- The step of a NOTE whose state write fails. -/
theorem exec_note_stateFailing {s : State} (settled : s.settled) (o : OrderRef) :
    exec (.sharedMemoryAccessFailure .orderHeader 0 (.note o)) s = .next s.linkHalt.finish := by
  rw [← complete_stateFailing settled o .note .ok]
  rfl

/-- Settles O59: each failure leaves a step with none in store, which closes as any other does. -/
theorem failedAccesses : Obligations.FailedAccesses := by
  intro s ready quiet
  refine ⟨fun v idle near => ?_, fun o p i clear positive valid named => ?_, fun o _ => ?_⟩
  · have running : s.disp.state ≠ .halted := by rw [idle]; nofun
    obtain ⟨closed, shared⟩ := linkHalt_closes (s := s.countTaken v) ready
    rw [exec_failure, exec_nudge, nudge_willFail ready.1 running near, finishEvents_quiet (s := (s.countTaken v).linkHalt) quiet]
    exact ⟨_, rfl, closed.disp, closed.alerts, unitsKept_of_closed (u := (s.countTaken v).linkHalt) closed, bytesKept_of_shared (s := s) shared _⟩
  · have done := complete_finish (u := s.raise .link) (oc := .linkFault) (r := []) ready.1 ready.2 (recordClear_of_le (Nat.zero_le 6) clear)
    have units := unitsKept_of_completed (u := s.raise .link) done
    have alerts := done.alerts
    obtain ⟨same, state, -, bytes⟩ := done
    refine ⟨_, exec_takeStatus_resultFailing ready.1 o positive valid named, state, alerts, units, ?_, bytesKept_mono bytes fun _ => completionBytes_zero⟩
    rw [same]
    rfl
  · obtain ⟨closed, shared⟩ := linkHalt_closes ready
    refine ⟨_, exec_note_stateFailing ready.1 o, ?_, ?_, ?_, closed.alerts, unitsKept_of_closed (u := s.linkHalt) closed, closed.settled,
      bytesKept_of_shared shared _⟩
    · rw [closed.disp]
      rfl
    · rw [closed.disp]
      rfl
    · rw [shared]

end Sys2Proof.Machine
end

section
/-! PROOFS. A step (log 13): the front command runs (O1), and shared memory stays in its canonical form (log 6; O3). -/

namespace Sys2Proof.Machine

/-! ## The queue -/

theorem step_of_front (c : Instr) (rest : List Instr) (s : State) : step { s with pending := c :: rest } = exec c { s with pending := rest } := rfl

theorem step_of_empty {s : State} (empty : s.pending = []) : step s = .next s := by
  unfold step
  rw [empty]

/-- Settles O1: by whether a command waits. -/
theorem stepRunsFrontCommand : Obligations.StepRunsFrontCommand := ⟨step_of_front, fun _ => step_of_empty⟩

/-! ## The canonical form -/

/-- The resets and TICK, by themselves or within a failure command, store nothing (log 8, log 12). -/
theorem exec_shared_of_movesTick {c : Instr} {s t : State} (moves : movesTick c = true) (next : exec c s = .next t) : t.shared = s.shared := by
  induction c generalizing s with
  | powerOnReset =>
    cases next
    exact powerReset_shared s
  | partReset value =>
    obtain rfl : value = 1 := beq_iff_eq.mp moves
    cases next
    exact powerReset_shared s
  | tick count =>
    cases next
    rfl
  | sharedMemoryAccessFailure access nth during ih =>
    rw [exec_failure] at next
    exact ih (s := s.willFail access nth) moves next
  | _ => exact absurd moves Bool.false_ne_true

/-- The commands that move the tick store nothing, and every other one stores by the operations of the part alone. -/
theorem exec_shared_wf (c : Instr) (s t : State) (canonical : s.shared.wf = true) (next : exec c s = .next t) : t.shared.wf = true := by
  cases moves : movesTick c with
  | true =>
    rw [exec_shared_of_movesTick moves next]
    exact canonical
  | false => exact (exec_next_keeps moves next).shared canonical

/-- Settles O3: every command keeps the canonical form, which does not speak of the queue. -/
theorem memoryStaysCanonical : Obligations.MemoryStaysCanonical := fun _ _ canonical next =>
  step_keeps (P := fun s => s.shared.wf = true) (fun _ _ h => h) exec_shared_wf canonical next

end Sys2Proof.Machine
end

section
/-! PROOFS. Fields out of range (spec/10, R187, R195; O19): every order kind checks its fields before anything else, so that its unit changes nothing. -/

namespace Sys2Proof.Machine

/-! ## The check of the fields -/

theorem inRange_of_gt {n lo hi : Nat} (above : hi < n) : inRange n lo hi = false :=
  decide_eq_false fun within => Nat.not_lt.mpr within.2 above

theorem inRange_of_lt {n lo hi : Nat} (below : n < lo) : inRange n lo hi = false :=
  decide_eq_false fun within => Nat.not_lt.mpr within.1 below

/-- A unit that checks its fields first refuses one out of range, whatever it does with the others. -/
theorem checked_of_invalid {fieldsOk : Bool} (invalid : fieldsOk = false) (s : State) (r : Reply) :
    (if !fieldsOk then refuse s .badField else r) = refuse s .badField := by
  rw [invalid]
  rfl

theorem powerPodOrder_invalid {p : PowerPodP} (invalid : p.valid = false) (s : State) : powerPodOrder p s = refuse s .badField :=
  checked_of_invalid invalid s _

theorem resumeLaneOrder_invalid {p : ResumeLaneP} (invalid : p.valid = false) (s : State) : resumeLaneOrder p s = refuse s .badField :=
  checked_of_invalid invalid s _

/-- EXPORT's fields are checked while the queue has room (R159). -/
theorem exportOrder_invalid {s : State} {p : ExportP} (room : s.exporter.queue.length < 4) (invalid : p.valid = false) (o : OrderRef) :
    exportOrder o p s = refuse s .badField :=
  (if_neg (Nat.not_le.mpr room)).trans (checked_of_invalid invalid s _)

theorem showOrder_unusable {p : ShowP} (unusable : usableAddr p.table = false) (o : OrderRef) (s : State) : showOrder o p s = refuse s .badField :=
  if_pos (by simp [unusable])

/-! ## Completion with BAD FIELD -/

/-- An order of any kind that its unit refuses for a field completes with BAD FIELD, the part as it was. -/
theorem badField_completed {s : State} {o : OrderRef} (ready : s.ready) (clear : ∀ kind, s.recordClear o kind 0) {r : Reply} {kind : OrderKind}
    (refused : r = refuse s .badField) : ∃ t, orderResult r o kind = .next t ∧ completedFrom s t o kind .badField [] := by
  rw [refused]
  exact orderResult_completed .badField ready (clear kind)

/-- Settles O19, kind by kind: the check that fails, and the completion it gives. POWER POD and RESUME LANE, which may hand the sequencer events or end a
replay, have none to hand and none to end. -/
theorem badFieldChangesNothing : Obligations.BadFieldChangesNothing := by
  intro s o ready quiet still clear
  have checked {fieldsOk : Bool} {r : Reply} {kind : OrderKind} (invalid : fieldsOk = false) :=
    badField_completed (kind := kind) ready clear (checked_of_invalid invalid s r)
  refine ⟨?powerPod, ?clearPod, ?snapshotLane, ?resumeLane, ?setPod, ?setStimulus, ?runStimulus, ?setPanel, ?setSequence, ?setLane, ?setMatch,
    ?takeStatus, ?releaseTake, ?exportOrder, ?showTable, ?arm, ?replay, ?render⟩
  case powerPod => exact fun p invalid => exec_powerPod_untouched ready (clear _) quiet (powerPodOrder_invalid invalid s)
  case resumeLane => exact fun p invalid => exec_resumeLane_completed (resumeLaneOrder_invalid invalid s) ready quiet (clear _) still
  case exportOrder => exact fun p invalid room => badField_completed ready clear (exportOrder_invalid room invalid o)
  case showTable => exact fun p unusable => badField_completed ready clear (showOrder_unusable unusable o s)
  case clearPod | snapshotLane | takeStatus => exact fun p above => checked (inRange_of_gt above)
  case releaseTake =>
    rintro p (zero | above)
    · exact checked (inRange_of_lt (zero ▸ Nat.one_pos))
    · exact checked (inRange_of_gt above)
  case setPod | setStimulus | runStimulus | setPanel | setSequence | setLane | setMatch | arm | replay | render =>
    exact fun p invalid => checked invalid

end Sys2Proof.Machine
end
